-- ==== Sys2Proof/Word.lean ====
section
/-!
DEFINITION. The word types of the Quovan Q64 (R6, R20): plain bit vectors of the widths the
register tables give, and the parts a table packs two fields into.
-/
namespace Sys2Proof

/-- A byte of memory (R6). -/
abbrev Byte := BitVec 8
/-- An instruction word, and one lane of a vector register (R20, R51). -/
abbrev Half := BitVec 32
/-- A scalar register, a predicate and most special registers (R20). -/
abbrev Word := BitVec 64
/-- A shape register (R20). -/
abbrev Shape256 := BitVec 256
/-- A word index into instruction memory (R52). -/
abbrev WordIdx := BitVec 15

end Sys2Proof
end

