-- ==== Sys2Proof/Machine/Flags.lean ====
section
/-!
DEFINITION. The arithmetic flags of FSTAT (R26, Table 1.7) and the rounding modes (R99, Table 3.9).
-/
namespace Sys2Proof.Machine

/-- The five sticky flags of FSTAT: bit 0 INV, 1 OVF, 2 UNF, 3 INX, 4 SAT (Table 1.7). -/
abbrev Flags := BitVec 5

def flagNone : Flags := 0
def flagINV : Flags := 0b00001
def flagOVF : Flags := 0b00010
def flagUNF : Flags := 0b00100
def flagINX : Flags := 0b01000
def flagSAT : Flags := 0b10000

/-- The flag `f` when `b` holds. -/
def flagIf (b : Bool) (f : Flags) : Flags := if b then f else flagNone

/-- The rounding modes of Table 3.9. -/
inductive Rounding where
  | rne | rtz | rdn | rup | rto
  deriving DecidableEq, Repr

/-- RMODE 0 to 4 (Table 3.9); RMODE never holds 5 to 7 (R24). -/
def roundingOf (r : Nat) : Rounding :=
  match r with
  | 0 => .rne
  | 1 => .rtz
  | 2 => .rdn
  | 3 => .rup
  | _ => .rto

/-- The rounding mode of one word: RMODE unless PAY[3:0] of an XMOD overrides it (R61, R99). -/
def roundingWith (rmode : BitVec 3) (override : Nat) : Rounding :=
  if override = 0 then roundingOf rmode.toNat else roundingOf (override - 1)

end Sys2Proof.Machine
end

