-- ==== Sys2Proof/Machine/Formats.lean ====
section
/-!
DEFINITION. Format-table entries and the conversion rule: DECODE, ROUND, ENCODE and CONVERT of the
chapter Format Table and Arithmetic (R83 to R103).
-/
namespace Sys2Proof.Machine

/-- KIND of a format-table entry (Table 3.1). -/
inductive Kind where
  | invalid | float | sint | uint | nested | reserved
  deriving DecidableEq, Repr

/-- The fields of a format-table entry, taken apart (Table 3.1). `pl` and `sp` are the fields as
stored: planes minus one. -/
structure Fmt where
  kind : Kind
  sgn  : Bool
  ew   : Nat
  fw   : Nat
  tw   : Nat
  bias : Int
  spc  : Nat
  subn : Bool
  pl   : Nat
  sp   : Nat
  low  : Nat
  deriving DecidableEq, Repr

def kindOf (k : Nat) : Kind :=
  match k with
  | 0 => .invalid
  | 1 => .float
  | 2 => .sint
  | 3 => .uint
  | 4 => .nested
  | _ => .reserved

/-- The fields of an entry's 64 bits (Table 3.1). -/
def fmtOfBits (e : Word) : Fmt where
  kind := kindOf (e.extractLsb' 60 4).toNat
  sgn  := e.getLsbD 59
  ew   := (e.extractLsb' 55 4).toNat
  fw   := (e.extractLsb' 50 5).toNat
  tw   := (e.extractLsb' 44 6).toNat
  bias := (e.extractLsb' 34 10).toInt
  spc  := (e.extractLsb' 31 3).toNat
  subn := e.getLsbD 30
  pl   := (e.extractLsb' 27 3).toNat
  sp   := (e.extractLsb' 24 3).toNat
  low  := (e.extractLsb' 0 24).toNat

/-- The preset entries 1 to 15 (R87, Table 3.3); entries 0 and 16 to 31 are illegal and hold 0 (R83). -/
def presetEntry (n : Nat) : Word :=
  match n with
  | 1  => 0x1C5E01FC40000000
  | 2  => 0x1AA9003C40000000
  | 3  => 0x1C1D01FC40000000
  | 4  => 0x1A0C801CC0000000
  | 5  => 0x1A88803C40000000
  | 6  => 0x2000800180000000
  | 7  => 0x3000800180000000
  | 8  => 0x2001000180000000
  | 9  => 0x3001000180000000
  | 10 => 0x2002000180000000
  | 11 => 0x3002000180000000
  | 12 => 0x2000400180000000
  | 13 => 0x40008001BF000000
  | 14 => 0x400080019F000000
  | 15 => 0x400080018F000000
  | _  => 0

def fmtF32 : Fmt := fmtOfBits (presetEntry 1)
def fmtS32 : Fmt := fmtOfBits (presetEntry 10)
def fmtZ32 : Fmt := fmtOfBits (presetEntry 11)

/-- An entry is well-formed when its fields satisfy Table 3.2 (R85). Reserved bits [23:0] are held
to zero by FTW (R84); bits that reach the table otherwise are not given a meaning. -/
def Fmt.wellFormed (e : Fmt) : Bool :=
  match e.kind with
  | .float =>
    1 ≤ e.ew && e.ew ≤ 8 && e.fw ≤ 23 && e.tw = (if e.sgn then 1 else 0) + e.ew + e.fw
      && 1 ≤ e.tw && e.tw ≤ 32 && (e.spc ≠ 0 || (2 ≤ e.ew && 1 ≤ e.fw)) && e.spc ≤ 2
      && e.pl = 0 && e.sp = 0
  | .sint | .uint =>
    1 ≤ e.tw && e.tw ≤ 32 && (e.spc = 3 || e.spc = 4) && !e.sgn && e.ew = 0 && e.fw = 0
      && e.bias = 0 && !e.subn && e.pl = 0 && e.sp = 0
  | .nested =>
    e.tw = 8 && e.pl ≤ e.sp && (e.spc = 3 || e.spc = 4) && !e.sgn && e.ew = 0 && e.fw = 0
      && e.bias = 0 && !e.subn
  | .invalid | .reserved => false

/-- Entry 0 and entries 16 to 31 are illegal wherever a format resolves to them (R83); any other is
usable when well-formed (R89, the vector unit and the copy, gather and near-memory engines). -/
def entryLegal (n : Nat) (e : Fmt) : Bool :=
  n ≠ 0 && !(16 ≤ n && n ≤ 31) && e.wellFormed

/-- Container size of an element of width `tw` in bits: 4, 8, 16 or 32 (R91, Table 3.6). -/
def containerBits (tw : Nat) : Nat :=
  if tw ≤ 4 then 4 else if tw ≤ 8 then 8 else if tw ≤ 16 then 16 else 32

/-- Class of a decoded value (R97). -/
inductive Cls where
  | num | inf | nan
  deriving DecidableEq, Repr

/-- A decoded value: for `num` it is (−1)^s × m × 2^q; `st` marks an infinitely precise value that
lies strictly between m and m + 1 units of 2^q (R151, results with no finite expansion). -/
structure Val where
  cls : Cls
  s   : Bool
  m   : Nat
  q   : Int
  st  : Bool := false
  deriving DecidableEq, Repr

def Val.nan : Val := ⟨.nan, false, 0, 0, false⟩
def Val.inf (s : Bool) : Val := ⟨.inf, s, 0, 0, false⟩
def Val.zero (s : Bool) : Val := ⟨.num, s, 0, 0, false⟩
def Val.ofInt (x : Int) : Val := ⟨.num, decide (x < 0), x.natAbs, 0, false⟩
def Val.ofNat (x : Nat) : Val := ⟨.num, false, x, 0, false⟩
def Val.isNan (v : Val) : Bool := v.cls = .nan
def Val.isInf (v : Val) : Bool := v.cls = .inf
def Val.isNum (v : Val) : Bool := v.cls = .num
def Val.isZero (v : Val) : Bool := v.cls = .num && v.m = 0 && !v.st

/-- Number of bits of `m`: 0 for 0. -/
def bitlen (m : Nat) : Nat := if m = 0 then 0 else Nat.log2 m + 1

/-- `x` read as a `w`-bit two's complement number. -/
def signedOf (w x : Nat) : Int :=
  let y := x % 2 ^ w
  if w = 0 then 0 else if y < 2 ^ (w - 1) then (y : Int) else (y : Int) - 2 ^ w

/-- DECODE of R97. -/
def Fmt.decode (e : Fmt) (bits : Nat) : Val :=
  match e.kind with
  | .float =>
    let s := e.sgn && (bits.testBit (e.tw - 1))
    let x := (bits / 2 ^ e.fw) % 2 ^ e.ew
    let f := bits % 2 ^ e.fw
    let allone : Bool := decide (x = 2 ^ e.ew - 1)
    if e.spc = 0 ∧ allone then (if f = 0 then Val.inf s else ⟨.nan, s, 0, 0, false⟩)
    else if e.spc = 1 ∧ allone ∧ f = 2 ^ e.fw - 1 then ⟨.nan, s, 0, 0, false⟩
    else if x = 0 then
      (if e.subn then ⟨.num, s, f, 1 - e.bias - e.fw, false⟩ else Val.zero s)
    else ⟨.num, s, 2 ^ e.fw + f, (x : Int) - e.bias - e.fw, false⟩
  | .sint => Val.ofInt (signedOf e.tw bits)
  | .uint => Val.ofNat (bits % 2 ^ e.tw)
  | .nested =>
    let stored := e.sp + 1
    let k := e.pl + 1
    let x := signedOf 8 ((bits % 256) / 2 ^ (8 - stored) * 2 ^ (8 - stored))
    let m := Int.fdiv x (2 ^ (8 - k))
    ⟨.num, decide (m < 0), m.natAbs, ((8 - k : Nat) : Int), false⟩
  | .invalid | .reserved => Val.zero false

/-- ROUND of R99, for a non-zero exact value m × 2^q, with `lsb` the exponent of the last kept bit:
the kept integer and whether any discarded bit was non-zero. A value far below half a unit keeps its
comparison with half when it is moved next to `lsb`. -/
def roundAt (s : Bool) (m : Nat) (q lsb : Int) (mode : Rounding) : Nat × Int × Bool :=
  if lsb ≤ q then (m, q, false)
  else
    let d := (lsb - q).toNat
    let far : Bool := decide (bitlen m + 2 ≤ d)
    let m' := if far then 1 else m
    let d' := if far then 2 else d
    let k := m' / 2 ^ d'
    let rem := m' % 2 ^ d'
    let half := 2 ^ (d' - 1)
    if rem = 0 then (k, lsb, false)
    else
      let k' := match mode with
        | .rne => if half < rem ∨ (rem = half ∧ k % 2 = 1) then k + 1 else k
        | .rtz => k
        | .rdn => if s then k + 1 else k
        | .rup => if s then k else k + 1
        | .rto => if k % 2 = 0 then k + 1 else k
      (k', lsb, true)

/-- The sticky value as an exact one a half unit above `m`: it rounds like every value strictly
between m and m + 1 units, at every last bit above q. -/
def Val.settle (v : Val) : Val :=
  if v.st then ⟨v.cls, v.s, 2 * v.m + 1, v.q - 1, false⟩ else v

/-- The code of MAXF without its sign (R98). -/
def Fmt.maxfCode (e : Fmt) : Nat :=
  match e.spc with
  | 0 => (2 ^ e.ew - 2) * 2 ^ e.fw + (2 ^ e.fw - 1)
  | 1 => if e.fw = 0 then 2 ^ e.ew - 2 else (2 ^ e.ew - 1) * 2 ^ e.fw + (2 ^ e.fw - 2)
  | _ => 2 ^ (e.ew + e.fw) - 1

/-- A magnitude code with the sign bit `s` of the entry (none when SGN = 0). -/
def Fmt.withSign (e : Fmt) (s : Bool) (code : Nat) : Nat :=
  if e.sgn && s then 2 ^ (e.tw - 1) + code else code

/-- The canonical NaN (R98); under SPC 2 there is none, and ENCODE gives +0 with INV (R100). -/
def Fmt.nanCode (e : Fmt) : Nat :=
  match e.spc with
  | 0 => (2 ^ e.ew - 1) * 2 ^ e.fw + 2 ^ (e.fw - 1)
  | 1 => 2 ^ (e.ew + e.fw) - 1
  | _ => 0

/-- Is m1 × 2^q1 below m2 × 2^q2? The top bits are compared first, so no huge shift is formed. -/
def magLt (m1 : Nat) (q1 : Int) (m2 : Nat) (q2 : Int) : Bool :=
  if m2 = 0 then false
  else if m1 = 0 then true
  else
    let t1 := q1 + bitlen m1
    let t2 := q2 + bitlen m2
    if t1 ≠ t2 then decide (t1 < t2)
    else if q1 ≤ q2 then decide (m1 < m2 * 2 ^ (q2 - q1).toNat)
    else decide (m1 * 2 ^ (q1 - q2).toNat < m2)

/-- Numeric order on values (used by comparisons and bounds): −0 equals +0, infinities at the ends;
NaN never below. -/
def Val.lt (a b : Val) : Bool :=
  match a.cls, b.cls with
  | .nan, _ => false
  | _, .nan => false
  | .inf, .inf => a.s && !b.s
  | .inf, .num => a.s
  | .num, .inf => !b.s
  | .num, .num =>
    if a.m = 0 ∧ b.m = 0 then false
    else if a.m = 0 then !b.s
    else if b.m = 0 then a.s
    else if a.s ≠ b.s then a.s
    else if a.s then magLt b.m b.q a.m a.q else magLt a.m a.q b.m b.q

/-- The magnitude code of a finite value k × 2^lsb that the entry can hold (R100). -/
def Fmt.codeOf (e : Fmt) (k : Nat) (lsb : Int) : Nat :=
  if k = 0 then 0
  else
    let x := lsb + bitlen k - 1
    let emin := 1 - e.bias
    if x < emin then
      let base := emin - e.fw
      if base ≤ lsb then k * 2 ^ (lsb - base).toNat else k / 2 ^ (base - lsb).toNat
    else
      let bl := bitlen k
      let sig := if bl ≤ e.fw + 1 then k * 2 ^ (e.fw + 1 - bl) else k / 2 ^ (bl - (e.fw + 1))
      (x + e.bias).toNat * 2 ^ e.fw + (sig - 2 ^ e.fw)

/-- Table 3.10: the result of a float overflow. -/
def Fmt.overflow (e : Fmt) (s : Bool) (mode : Rounding) : Nat × Flags :=
  let fl := flagOVF ||| flagINX
  if e.spc = 0 then
    let toInf := match mode with
      | .rne => true
      | .rtz => false
      | .rdn => s
      | .rup => !s
      | .rto => false
    (e.withSign s (if toInf then (2 ^ e.ew - 1) * 2 ^ e.fw else e.maxfCode), fl)
  else (e.withSign s e.maxfCode, fl ||| flagSAT)

/-- ENCODE into a float entry (R100, R101). -/
def Fmt.encodeFloat (e : Fmt) (v0 : Val) (mode : Rounding) : Nat × Flags :=
  match v0.cls with
  | .nan => if e.spc = 2 then (0, flagINV) else (e.nanCode, flagNone)
  | .inf =>
    if !e.sgn && v0.s then (0, flagINV)
    else if e.spc = 0 then (e.withSign v0.s ((2 ^ e.ew - 1) * 2 ^ e.fw), flagNone)
    else (e.withSign v0.s e.maxfCode, flagOVF ||| flagSAT)
  | .num =>
    let v := v0.settle
    if !e.sgn && v.s && v.m ≠ 0 then (0, flagINV)
    else if v.m = 0 then (e.withSign v.s 0, flagNone)
    else
      let emin := 1 - e.bias
      let x := v.q + bitlen v.m - 1
      let tiny : Bool := decide (x < emin)
      if tiny && !e.subn then (e.withSign v.s 0, flagUNF ||| flagINX)
      else
        let lsb := max (x - e.fw) (emin - e.fw)
        let r := roundAt v.s v.m v.q lsb mode
        let top := e.decode e.maxfCode
        if magLt top.m top.q r.1 r.2.1 || (top.m = 0 && r.1 ≠ 0) then e.overflow v.s mode
        else
          (e.withSign v.s (e.codeOf r.1 r.2.1),
            flagIf r.2.2 flagINX ||| flagIf (tiny && r.2.2) flagUNF)

/-- The range of an integer or nested entry (R100). -/
def Fmt.intMin (e : Fmt) : Int :=
  match e.kind with
  | .uint => 0
  | .nested => -128
  | _ => -(2 ^ (e.tw - 1))

def Fmt.intMax (e : Fmt) : Int :=
  match e.kind with
  | .uint => 2 ^ e.tw - 1
  | .nested => 128 - 2 ^ (8 - (e.sp + 1))
  | _ => 2 ^ (e.tw - 1) - 1

/-- ENCODE into an integer or nested entry (R99, R100). -/
def Fmt.encodeInt (e : Fmt) (v0 : Val) (mode : Rounding) : Nat × Flags :=
  let width := if e.kind = .nested then 8 else e.tw
  let put (x : Int) : Nat := (x % 2 ^ width).toNat
  match v0.cls with
  | .nan => (0, flagINV)
  | .inf => (put (if v0.s then e.intMin else e.intMax), flagINV ||| flagSAT)
  | .num =>
    let v := v0.settle
    if v.m = 0 then (0, flagNone)
    else
      let lsb : Int := if e.kind = .nested then ((8 - (e.sp + 1) : Nat) : Int) else 0
      let r := roundAt v.s v.m v.q lsb mode
      let inx := flagIf r.2.2 flagINX
      -- a magnitude of 2^70 or more is outside every range, and a multiple of 2^width when q ≥ 64
      if 64 ≤ r.2.1 ∨ 70 < r.2.1 + bitlen r.1 then
        if e.spc = 4 then (put (if v.s then e.intMin else e.intMax), flagSAT ||| inx)
        else
          let low := if 64 ≤ r.2.1 then 0 else r.1 * 2 ^ r.2.1.toNat
          (put (if v.s then -(low : Int) else low), inx)
      else
        let mag : Int := r.1 * 2 ^ r.2.1.toNat
        let x := if v.s then -mag else mag
        if x < e.intMin then
          (if e.spc = 4 then (put e.intMin, flagSAT ||| inx) else (put x, inx))
        else if e.intMax < x then
          (if e.spc = 4 then (put e.intMax, flagSAT ||| inx) else (put x, inx))
        else (put x, inx)

/-- ENCODE of R100: container bits (bits above TW zero, R91) and flags. -/
def Fmt.encode (e : Fmt) (v : Val) (mode : Rounding) : Nat × Flags :=
  match e.kind with
  | .float => e.encodeFloat v mode
  | .sint | .uint | .nested => e.encodeInt v mode
  | .invalid | .reserved => (0, flagNone)

/-- CONVERT of R103: one rounding, in ENCODE. -/
def convert (a b : Fmt) (bits : Nat) (mode : Rounding) : Nat × Flags :=
  b.encode (a.decode bits) mode

/-- The value a bound check compares: integer and nested values as stored, with all SP planes (R113). -/
def Fmt.decodeStored (e : Fmt) (bits : Nat) : Val :=
  ({ e with pl := e.sp } : Fmt).decode bits

/-- Unit legality for the matrix unit (Table 3.5). -/
def Fmt.matrixFloat (e : Fmt) : Bool :=
  e.kind = .float && (e.tw = 8 || e.tw = 16) && e.ew ≤ 8 && e.fw ≤ 10

def Fmt.matrixInt (e : Fmt) : Bool :=
  (e.kind = .sint || e.kind = .uint) && (e.tw = 4 || e.tw = 8)

def Fmt.matrixNested (e : Fmt) : Bool :=
  e.kind = .nested && e.sp = 7 && (e.pl = 1 || e.pl = 3 || e.pl = 7)

def matrixLegal (n : Nat) (e : Fmt) : Bool :=
  entryLegal n e && (e.matrixFloat || e.matrixInt || e.matrixNested)

end Sys2Proof.Machine
end

