-- ==== Sys2Proof/Machine/Arith.lean ====
section
/-!
DEFINITION. Arithmetic on decoded values: the float and integer results of chapter Vector Instructions
(R151 to R157), the group sums of the matrix unit (R104 to R106), bound checks (R112 to R114), VCLASS
(R164) and the hitch mix (R110).
-/
namespace Sys2Proof.Machine

/-- A result with its own flags, before ENCODE. -/
abbrev Res := Val × Flags

def Val.neg (v : Val) : Val := { v with s := !v.s }
def Val.abs (v : Val) : Val := { v with s := false }

/-- The integer m × 2^q in units of 2^q0, for q0 ≤ q, with its sign. -/
def Val.unitsAt (v : Val) (q0 : Int) : Int :=
  let x : Int := v.m * 2 ^ (v.q - q0).toNat
  if v.s then -x else x

/-- Sign of an exact zero sum (R152): the common sign of the addends, else −0 under RDN only. -/
def zeroSumSign (s1 s2 : Bool) (mode : Rounding) : Bool :=
  if s1 = s2 then s1 else mode = .rdn

/-- The exact sum of two finite values (R152). -/
def addFinite (x y : Val) (mode : Rounding) : Val :=
  if x.m = 0 ∧ y.m = 0 then Val.zero (zeroSumSign x.s y.s mode)
  else if x.m = 0 then y
  else if y.m = 0 then x
  else
    let q0 := min x.q y.q
    let t := x.unitsAt q0 + y.unitsAt q0
    if t = 0 then Val.zero (zeroSumSign x.s y.s mode)
    else ⟨.num, decide (t < 0), t.natAbs, q0, false⟩

/-- x + y with the specials of Table 5.2. -/
def vAdd (mode : Rounding) (x y : Val) : Res :=
  if x.isNan || y.isNan then (Val.nan, flagNone)
  else if x.isInf then (if y.isInf && x.s != y.s then (Val.nan, flagINV) else (x, flagNone))
  else if y.isInf then (y, flagNone)
  else (addFinite x y mode, flagNone)

/-- x − y: y counts with its sign inverted (R152). -/
def vSub (mode : Rounding) (x y : Val) : Res := vAdd mode x y.neg

/-- x × y with the specials of Table 5.2. -/
def vMul (x y : Val) : Res :=
  let s := x.s != y.s
  if x.isNan || y.isNan then (Val.nan, flagNone)
  else if x.isInf || y.isInf then
    (if x.isZero || y.isZero then (Val.nan, flagINV) else (Val.inf s, flagNone))
  else (⟨.num, s, x.m * y.m, x.q + y.q, false⟩, flagNone)

/-- x ÷ y to an infinitely precise value (R151, Table 5.2). -/
def vDiv (x y : Val) : Res :=
  let s := x.s != y.s
  if x.isNan || y.isNan then (Val.nan, flagNone)
  else if x.isInf then (if y.isInf then (Val.nan, flagINV) else (Val.inf s, flagNone))
  else if y.isInf then (Val.zero s, flagNone)
  else if y.m = 0 then (if x.m = 0 then (Val.nan, flagINV) else (Val.inf s, flagNone))
  else if x.m = 0 then (Val.zero s, flagNone)
  else
    let k := 40 + bitlen y.m
    let n := x.m * 2 ^ k
    (⟨.num, s, n / y.m, x.q - y.q - k, decide (n % y.m ≠ 0)⟩, flagNone)

/-- Is x below y, with −0 below +0 (VMIN and VMAX of Table 5.2)? -/
def ltSigned (x y : Val) : Bool :=
  if x.isZero && y.isZero then x.s && !y.s else x.lt y

def vMin (x y : Val) : Res :=
  if x.isNan || y.isNan then (Val.nan, flagNone)
  else (if ltSigned y x then y else x, flagNone)

def vMax (x y : Val) : Res :=
  if x.isNan || y.isNan then (Val.nan, flagNone)
  else (if ltSigned x y then y else x, flagNone)

/-- The sum of a product with its flags and an addend: the FMA family rounds once (R154). -/
def vFma (mode : Rounding) (x y z : Val) (negProd negAdd : Bool) : Res :=
  let p := vMul x y
  if p.2 ≠ flagNone then p
  else vAdd mode (if negProd then p.1.neg else p.1) (if negAdd then z.neg else z)

/-- The integer a finite value of KIND 2 to 4 stands for. -/
def Val.toInt (v : Val) : Int := v.unitsAt 0

/-- Division on KIND 2 to 4 (R153): truncated quotient; by zero −1, or 2^TW − 1 for KIND 3, with INV. -/
def intDiv (e : Fmt) (x y : Val) : Res :=
  if y.m = 0 then
    (Val.ofInt (if e.kind = .uint then 2 ^ e.tw - 1 else -1), flagINV)
  else (Val.ofInt (Int.tdiv x.toInt y.toInt), flagNone)

/-- Encode a result under an entry, its own flags added (R151). -/
def encodeRes (e : Fmt) (mode : Rounding) (r : Res) : Nat × Flags :=
  let p := e.encode r.1 mode
  (p.1, p.2 ||| r.2)

/-- The two-operand operations of the vector unit (R151, R153). -/
inductive Arith2 where
  | add | sub | mul | div | min | max
  deriving DecidableEq, Repr

def arith2 (op : Arith2) (e : Fmt) (mode : Rounding) (x y : Val) : Res :=
  match op with
  | .add => vAdd mode x y
  | .sub => vSub mode x y
  | .mul => vMul x y
  | .div => if e.kind = .float then vDiv x y else intDiv e x y
  | .min => vMin x y
  | .max => vMax x y

/-- One lane of a two-operand word (R151): low TW bits in, container bits and flags out. -/
def laneArith2 (op : Arith2) (e : Fmt) (mode : Rounding) (x y : Nat) : Nat × Flags :=
  encodeRes e mode (arith2 op e mode (e.decode x) (e.decode y))

/-- One lane of the FMA family (R154). -/
def laneFma (e : Fmt) (mode : Rounding) (negProd negAdd : Bool) (x y z : Nat) : Nat × Flags :=
  encodeRes e mode (vFma mode (e.decode x) (e.decode y) (e.decode z) negProd negAdd)

/-- VABS of one lane (R156). -/
def laneAbs (e : Fmt) (mode : Rounding) (x : Nat) : Nat × Flags :=
  match e.kind with
  | .float => (if e.sgn then x % 2 ^ (e.tw - 1) else x % 2 ^ e.tw, flagNone)
  | _ => e.encode (e.decode x).abs mode

/-- VNEG of one lane (R156). -/
def laneNeg (e : Fmt) (mode : Rounding) (x : Nat) : Nat × Flags :=
  if e.kind = .float ∧ e.sgn then
    let b := x % 2 ^ e.tw
    (if b.testBit (e.tw - 1) then b - 2 ^ (e.tw - 1) else b + 2 ^ (e.tw - 1), flagNone)
  else e.encode (e.decode x).neg mode

/-- VSCL of one lane: x × 2^k exactly, one ENCODE (R157). -/
def laneScl (e : Fmt) (mode : Rounding) (x : Nat) (k : Int) : Nat × Flags :=
  let v := e.decode x
  e.encode (if v.isNum then { v with q := v.q + k } else v) mode

/-- The four ordered relations and the unordered test of R161. -/
inductive Rel where
  | eq | ne | lt | le | un
  deriving DecidableEq, Repr

/-- A comparison of two decoded values, and its flag (R161). -/
def relHolds (r : Rel) (x y : Val) : Bool × Flags :=
  if x.isNan || y.isNan then
    match r with
    | .eq => (false, flagNone)
    | .ne => (true, flagNone)
    | .lt | .le => (false, flagINV)
    | .un => (true, flagNone)
  else
    let below := x.lt y
    let above := y.lt x
    match r with
    | .eq => (!below && !above, flagNone)
    | .ne => (below || above, flagNone)
    | .lt => (below, flagNone)
    | .le => (!above, flagNone)
    | .un => (false, flagNone)

/-- The one-hot class mask of VCLASS (R164, Table 5.4). -/
def classMask (e : Fmt) (bits : Nat) : Nat :=
  let v := e.decode bits
  match e.kind with
  | .float =>
    match v.cls with
    | .nan => 1
    | .inf => if v.s then 2 else 256
    | .num =>
      if v.m = 0 then (if v.s then 16 else 32)
      else
        let sub : Bool := decide ((bits / 2 ^ e.fw) % 2 ^ e.ew = 0)
        if v.s then (if sub then 8 else 4) else (if sub then 64 else 128)
  | _ => if v.m = 0 then 32 else if v.s then 4 else 128

/-! ### Matrix accumulation (R104 to R106) -/

/-- Truncate a finite value toward zero to a multiple of 2^g, in units of 2^g (R105). -/
def truncUnits (v : Val) (g : Int) : Int :=
  let m : Int := if g ≤ v.q then v.m * 2 ^ (v.q - g).toNat else ((v.m / 2 ^ (g - v.q).toNat : Nat) : Int)
  if v.s then -m else m

/-- The highest bit position E over the non-zero finite products (R105). -/
def topBit (ps : List Val) : Int :=
  ps.foldl (fun acc p => max acc (p.q + bitlen p.m)) (-100000)

/-- GROUPSUM of R105 over finite products, with the zero sign of R106. -/
def groupSum (ps : List Val) : Val :=
  let nz := ps.filter fun p => decide (p.m ≠ 0)
  let zs : Bool := ps.all fun p => p.s && decide (p.m = 0)
  if nz.isEmpty then Val.zero zs
  else
    let g := topBit nz - 64
    let t := nz.foldl (fun acc p => acc + truncUnits p g) 0
    if t = 0 then Val.zero false
    else ⟨.num, decide (t < 0), t.natAbs, g, false⟩

/-- One group added to the accumulator (R105, R106), with the flags of R102: INV when a NaN arises
from inputs that are not NaN, OVF when a finite accumulator becomes infinite. Each product comes
with the flags of its own formation. -/
def accGroup (acc : Val) (ps : List Res) : Val × Flags :=
  let vs := ps.map (·.1)
  let born := ps.foldl (fun f p => f ||| p.2) flagNone
  let set := acc :: vs
  let anyNan := set.any Val.isNan
  let posInf := set.any fun v => v.isInf && !v.s
  let negInf := set.any fun v => v.isInf && v.s
  if anyNan then (Val.nan, born)
  else if posInf && negInf then (Val.nan, born ||| flagINV)
  else if posInf || negInf then (Val.inf negInf, born ||| flagIf acc.isNum flagOVF)
  else
    let t := addFinite acc (groupSum vs) .rne
    let r := fmtF32.decode (fmtF32.encode t .rne).1
    (r, born ||| flagIf r.isInf flagOVF)

/-- Cut a list into groups of 64 (R105). -/
def groupsOf64 {α : Type} (fuel : Nat) (xs : List α) : List (List α) :=
  match fuel with
  | 0 => []
  | fuel + 1 => if xs.isEmpty then [] else xs.take 64 :: groupsOf64 fuel (xs.drop 64)

/-- The float path of one accumulator element (R105, R106): the accumulator value before the first
group (−0 under NOACC) and the products in ascending logical k. -/
def floatPath (acc : Val) (ps : List Res) : Nat × Flags :=
  let r := (groupsOf64 (ps.length / 64 + 1) ps).foldl
    (fun (st : Val × Flags) g => let n := accGroup st.1 g; (n.1, st.2 ||| n.2)) (acc, flagNone)
  ((fmtF32.encode r.1 .rne).1, r.2)

/-- The integer path of one accumulator element (R104): exact, modulo 2^32. -/
def intPath (acc : Nat) (ps : List Val) : Nat :=
  let t := ps.foldl (fun a p => a + p.toInt) (acc : Int)
  (t % 2 ^ 32).toNat

/-! ### Bounds (R112 to R114) -/

/-- The bound values of a register as the destination's kind reads them (R112). -/
def boundVal (e : Fmt) (w : Word) : Val :=
  if e.kind = .float then fmtF32.decode (w.toNat % 2 ^ 32) else Val.ofInt w.toInt

/-- Is an encoded element out of range (R113)? -/
def outOfRange (e : Fmt) (lo hi : Word) (bits : Nat) : Bool :=
  let v := e.decodeStored bits
  let l := boundVal e lo
  let h := boundVal e hi
  v.isNan || l.isNan || h.isNan || v.lt l || h.lt v || h.lt l

/-- The value clamping writes (R114): the first case that applies. -/
def clampBits (e : Fmt) (lo hi : Word) (bits : Nat) : Nat :=
  let v := e.decodeStored bits
  let l := boundVal e lo
  let h := boundVal e hi
  if l.isNan || h.isNan then bits
  else if v.isNan then (e.encode l .rup).1
  else if h.lt v then (e.encode h .rdn).1
  else (e.encode l .rup).1

/-- What a bound check does with one element: the bits written (none under a trap) and whether it
was out of range under an action that sets BSTAT. -/
structure BoundRes where
  bits : Option Nat
  hit  : Bool
  trap : Bool
  deriving DecidableEq, Repr

/-- R114, Table 3.16. -/
def boundCheck (e : Fmt) (lo hi : Word) (act : BitVec 2) (bits : Nat) : BoundRes :=
  if outOfRange e lo hi bits then
    match act.toNat with
    | 0 => ⟨some bits, false, false⟩
    | 1 => ⟨some bits, true, false⟩
    | 2 => ⟨some (clampBits e lo hi bits), true, false⟩
    | _ => ⟨none, false, true⟩
  else ⟨some bits, false, false⟩

/-! ### The hitch mix (R110) -/

def hitchMix (x0 : Half) : Half :=
  let x1 := x0 ^^^ (x0 >>> 16)
  let x2 := x1 * 0x7FEB352D
  let x3 := x2 ^^^ (x2 >>> 15)
  let x4 := x3 * 0x846CA68B
  x4 ^^^ (x4 >>> 16)

def hitch (key : Word) (ctr : Half) : Half :=
  hitchMix (hitchMix (ctr ^^^ key.extractLsb' 0 32) ^^^ key.extractLsb' 32 32)

end Sys2Proof.Machine
end

