-- ==== Sys2Proof/Config.lean ====
section
/-!
DEFINITION. What the specification leaves open and the model does not choose: free values with no
body, each applied to a counter of State or to what it depends on, so that nothing can evaluate one.
-/
namespace Sys2Proof.Config

/-- A bit the spec leaves open, by the counter of State (old-or-new reads, R134, R177, R219, R38). -/
opaque freeBool : Nat → Bool
/-- In D-mode (R306): an old-or-new read, by ticks since the launch's first issue, core, stream number of the reading word and
address; and the ticks an engine operation or its word waits, by ticks since that issue, core, slot and stream number. -/
opaque raceBool : Nat → Nat → Nat → Nat → Bool
opaque raceDelay : Nat → Nat → Nat → Nat → Nat
/-- A 64-bit value the spec leaves open, by the counter of State. -/
opaque freeWord : Nat → Word
/-- The next 32 bytes of the device's random source (R276). -/
opaque nonce : Nat → BitVec 256
/-- SHA-384 (R276, R277, R452, R461): the algorithm is that of its standard and is not restated. -/
opaque sha384 : List Byte → BitVec 384
/-- ECDSA P-384 verification of a 96-byte public key, a 96-byte signature and a digest (R276). -/
opaque ecdsaVerifies : List Byte → List Byte → BitVec 384 → Bool
/-- ECDSA P-384 signature of a digest with the device attestation key (R278). -/
opaque deviceSignature : BitVec 384 → Nat → BitVec 768
/-- AES key unwrap of a 40-byte blob with a 256-bit wrapping key (R275). -/
opaque aesUnwrap : BitVec 256 → List Byte → Option (BitVec 256)
/-- The wrapping key and the keys of an SPDM secured session, from the exchange (R453). -/
opaque sessionKey : Nat → BitVec 256
/-- Whether an IDE stream carries a context's traffic (R447): the host binds streams to interfaces. -/
opaque streamOf : Nat → Nat → Bool
/-- Whether an SPDM FINISH verifies (R453). -/
opaque finishVerifies : Nat → BitVec 384 → Bool
/-- The bytes of an SPDM response (R453), by request code and counter: the message formats are those of SPDM 1.3. -/
opaque spdmBytes : Nat → Nat → List Byte
/-- The device-private bytes of a slot record (Table 11.13), by a counter of State and the byte's offset. -/
opaque privateByte : Nat → Nat → Byte
/-- Where in a block of eight ticks the cycles of a throttled core fall (R425): core, block. -/
opaque throttlePhase : Nat → Nat → Nat
/-- The pins a boundary scan captures (R439). -/
opaque boundaryPins : Nat → Word
/-- Code, entry points and format entries the Huith translator makes of a section within the limits:
`none` when it does not fit (R473). Arguments: section, SVAL bytes, SPADB, ACCR, SLOTS, HPART. -/
opaque translateHuith : List Byte → List Byte → Nat → Nat → Nat → Bool →
  Option (List Half × List WordIdx × List (Nat × Word))
/-- SHA-384 of the CP firmware's image, as the boot ROM reads it and as a restart does, by a counter of State, and of the firmware's
configuration block (R452, R458). -/
opaque firmwareDigest : BitVec 384
opaque firmwareReread : Nat → BitVec 384
opaque configDigest : BitVec 384
/-- The certificate chain of slot 0 (R453). -/
opaque certificateChain : List Byte

/-- The peer device that a page of an attachment's address space lies in, if it is not the host's own (R258, R301). -/
opaque peerOf : Nat → Nat → Option Nat
/-- Does a beat's CRC take bit 0 first, or bit 543 (Table 12.2)? -/
opaque crcLowFirst : Bool
/-- The lanyard parent a detour set names for this chip, if it names another (R371). -/
opaque detourParent : Nat → Option (BitVec 4)

end Sys2Proof.Config
end

