-- ==== Sys2Proof/Syntax.lean ====
section
/-!
DEFINITION. Instr: one constructor per row of the table of operations and events. Core words, prefixes
and link words carry their operand fields as encoded (02, Tables 2.2 to 2.10); the idle count I stands
in the queue, not here (R31). Events and commands carry what the event brings from outside or names.
-/
namespace Sys2Proof

/-- Who writes a register (R7): a host attachment through its BARs, M-level software, the debug port. -/
inductive Writer where
  | host (att : Nat)
  | mlevel
  | port
  deriving DecidableEq, Repr

/-- What management command 1 writes (R447). -/
inductive CfgTarget where
  | ctxcfg (k : Nat)
  | win (k n : Nat)
  | lease (n : Nat)
  deriving DecidableEq, Repr

/-- An ATS Translation Completion (R348): the permissions it gives, an untranslated-only mark, size
code of Table 11.6 and translated page number. -/
structure Translation where
  rd   : Bool
  wr   : Bool
  untr : Bool
  size : BitVec 2
  ppn  : BitVec 52
  deriving DecidableEq, Repr

/-- The response codes of a PRI Page Request Group (R349). -/
inductive PageCode where
  | success | invalidRequest | responseFailure
  deriving DecidableEq, Repr

/-- A PRI response: the attachment it comes from, the group index it names, its code (R349). -/
structure PageAnswer where
  att   : Nat
  group : Nat
  code  : PageCode
  deriving DecidableEq, Repr

/-- What management command 4 asks for: a restore or a pre-emption, on the core it names or else on every core of the launch
(R326, R483). -/
structure Preemption where
  back : Bool
  core : Option Nat
  deriving DecidableEq, Repr

/-- One zone's sensors at a cooling sample (R408): dry sensor, flow in 1/16 unit, hottest sensor in
1/16 degree. -/
structure ZoneReading where
  dry  : Bool
  flow : Nat
  temp : Nat
  deriving DecidableEq, Repr

/-- The protected arrays of a core (R454, Table 15.8). -/
inductive CoreArray where
  | scratchpad | accumulator | weightSlots | instructionMemory
  | registerFiles | queues | engineTable | parkStates
  deriving DecidableEq, Repr

/-- Where an uncorrectable error outside a core stands: a line of shared memory or HBM, or a record in a trace buffer's queue
(Table 15.8). -/
inductive ErrorArray where
  | memory | traceQueue
  deriving DecidableEq, Repr

/-- What the patrol scrubber finds in a line (R456). -/
inductive ScrubResult where
  | clean | correctable | uncorrectable
  deriving DecidableEq, Repr

/-- A flit as received: its four data beats and its parity beat (R366, Table 12.2). -/
structure Flit where
  beats  : List (BitVec 576)
  parity : BitVec 576
  deriving DecidableEq, Repr

/-- A GUARD flit as it comes: its beats, and how far the two clocks have moved apart since the last flit that told, in 1/64 tick (R374). -/
structure GuardFlit where
  flit   : Flit
  wander : Int
  deriving DecidableEq, Repr

/-- Which end of its range a port's elastic buffer has reached: full (16 beats) or empty (R374). -/
structure BufferFill where
  port : Nat
  fill : Nat
  deriving DecidableEq, Repr

/-- One exchange of TIMEBASE stamps as a link trains (R372): a stamp's send, its arrival at the far end, the far end's send of the echo,
and its arrival, in 1/64 tick of either end's own clock. -/
structure Exchange where
  sent       : Nat
  farArrived : Nat
  farSent    : Nat
  arrived    : Nat
  deriving DecidableEq, Repr

/-- The payload of a NOTICE (Table 12.3). -/
structure Notice where
  f     : Nat
  s     : Nat
  link  : Nat
  abort : Bool
  code  : Nat
  cause : Nat
  deriving DecidableEq, Repr

/-- The management messages the rules name (R380, R437, R438). -/
inductive Mgmt where
  | ready (chip : Nat)
  | pst (tick : Nat)
  | stop (tick : Nat)
  | resume (tick : Nat)
  deriving DecidableEq, Repr

/-- One constructor per row of the table of operations and events: words, the events the model itself finds due, stimuli from
outside, and last those without operands. -/
inductive Instr where
  /-- ADD (R119). Writes ga + gb into gd one cycle after issue; ADD g0, g0, g0 is the NOP. -/
  | add (d a b : BitVec 6)
  /-- SUB (R119). Writes ga − gb into gd modulo 2^64. -/
  | sub (d a b : BitVec 6)
  /-- AND (R119). Writes the bitwise AND of ga and gb into gd. -/
  | and (d a b : BitVec 6)
  /-- OR (R119). Writes the bitwise OR of ga and gb into gd. -/
  | or (d a b : BitVec 6)
  /-- XOR (R119). Writes the bitwise XOR of ga and gb into gd. -/
  | xor (d a b : BitVec 6)
  /-- SHL (R119). Shifts ga left by gb[5:0] into gd. -/
  | shl (d a b : BitVec 6)
  /-- SHR (R119). Shifts ga right by gb[5:0] with zeros in. -/
  | shr (d a b : BitVec 6)
  /-- SHA (R119). Shifts ga right arithmetically by gb[5:0]. -/
  | sha (d a b : BitVec 6)
  /-- MUL (R119). Writes the low 64 bits of ga × gb into gd after 3 cycles. -/
  | mul (d a b : BitVec 6)
  /-- MULH (R119). Writes bits [127:64] of the signed, unsigned or mixed product into gd. -/
  | mulh (d a b : BitVec 6) (s : BitVec 2)
  /-- DIV (R120). Writes the quotient rounded toward zero, with fixed values for division by zero and overflow, after 18 cycles. -/
  | div (d a b : BitVec 6) (s : BitVec 2)
  /-- REM (R120). Writes the remainder ga − quotient × gb, with fixed values at the limits. -/
  | rem (d a b : BitVec 6) (s : BitVec 2)
  /-- MIN (R119). Writes the lesser of ga and gb, compared signed or unsigned. -/
  | min (d a b : BitVec 6) (s : BitVec 2)
  /-- MAX (R119). Writes the greater of ga and gb, compared signed or unsigned. -/
  | max (d a b : BitVec 6) (s : BitVec 2)
  /-- CLZ (R119). Writes the count of leading zero bits of ga. -/
  | clz (d a : BitVec 6)
  /-- POPC (R119). Writes the count of one bits of ga. -/
  | popc (d a : BitVec 6)
  /-- ADDI (R122). Writes ga plus a sign-extended or prefixed immediate into gd. -/
  | addi (d a : BitVec 6) (imm : BitVec 8)
  /-- ANDI (R122). Writes ga AND the immediate into gd. -/
  | andi (d a : BitVec 6) (imm : BitVec 8)
  /-- ORI (R122). Writes ga OR the zero-extended immediate into gd. -/
  | ori (d a : BitVec 6) (imm : BitVec 8)
  /-- XORI (R122). Writes ga XOR the zero-extended immediate into gd. -/
  | xori (d a : BitVec 6) (imm : BitVec 8)
  /-- SHLI (R122). Shifts ga left by an immediate count of 0 to 63. -/
  | shli (d a imm : BitVec 6)
  /-- SHRI (R122). Shifts ga right logically by an immediate count. -/
  | shri (d a imm : BitVec 6)
  /-- SHAI (R122). Shifts ga right arithmetically by an immediate count. -/
  | shai (d a imm : BitVec 6)
  /-- LI (R123). Loads a sign-extended or prefixed immediate into gd. -/
  | li (d : BitVec 6) (imm : BitVec 14)
  /-- LIH (R123). Replaces bits [63:32] of gd with the low 32 bits of the immediate. -/
  | lih (d : BitVec 6) (imm : BitVec 14)
  /-- BFX (R121). Extracts a bit field of ga described by gb into gd, optionally sign-extended. -/
  | bfx (d a b : BitVec 6)
  /-- BFI (R121). Inserts the low bits of ga into the field of gd described by gb. -/
  | bfi (d a b : BitVec 6)
  /-- ADDSH (R119). Writes ga + (gb << s) into gd. -/
  | addsh (d a b : BitVec 6) (s : BitVec 2)
  /-- CMPEQ (R124). Sets pd to all ones when ga equals gb, else 0. -/
  | cmpeq (p a b : BitVec 6)
  /-- CMPNE (R124). Sets pd to all ones when ga differs from gb, else 0. -/
  | cmpne (p a b : BitVec 6)
  /-- CMPLT (R124). Sets pd when ga is less than gb, signed or unsigned. -/
  | cmplt (p a b : BitVec 6) (s : BitVec 2)
  /-- CMPLE (R124). Sets pd when ga is at most gb, signed or unsigned. -/
  | cmple (p a b : BitVec 6) (s : BitVec 2)
  /-- WIDF (R128). Writes field i of the task's WID, zero-extended, into gd. -/
  | widf (d : BitVec 6) (imm : BitVec 14)
  /-- MOVS (R129). Reads a special register into gd, subject to level. -/
  | movs (d : BitVec 6) (imm : BitVec 14)
  /-- MOVSW (R129). Writes a g register into a special register, with the checks of R24. -/
  | movsw (g : BitVec 6) (imm : BitVec 14)
  /-- SLD (R133). Loads 1 to 8 bytes of core-local memory into gd after checks, landing at issue + 4. -/
  | sld (d a : BitVec 6) (cls : BitVec 4) (wd : BitVec 2) (sx : BitVec 1)
  /-- SST (R133). Stores the low bytes of gd to core-local memory, visible at issue + 2. -/
  | sst (d a : BitVec 6) (cls : BitVec 4) (wd : BitVec 2)
  /-- FSLOT (R135). Writes (ga + IMM) mod 256 into a format slot. -/
  | fslot (f a : BitVec 6) (imm : BitVec 8)
  /-- SHLD (R136). Loads a 32-byte shape record from core-local memory into a shape register. -/
  | shld (h a : BitVec 6) (imm : BitVec 8)
  /-- SHST (R136). Stores a shape register as a 32-byte record in core-local memory. -/
  | shst (h a : BitVec 6) (imm : BitVec 8)
  /-- SHSET (R137). Merges one selected field from ga into a shape register. -/
  | shset (h a : BitVec 6) (imm : BitVec 4)
  /-- SHGET (R137). Reads one selected field of a shape register into gd. -/
  | shget (d h : BitVec 6) (imm : BitVec 4)
  /-- BNDSET (R138). Loads LO, HI and ACT of a bound register. -/
  | bndset (n a g : BitVec 6) (s : BitVec 2)
  /-- PAND (R125). Writes pa AND pb, or pa AND NOT pb, into pd. -/
  | pand (d a b : BitVec 6) (s : BitVec 2)
  /-- POR (R125). Writes pa OR pb, or pa OR NOT pb, into pd. -/
  | por (d a b : BitVec 6) (s : BitVec 2)
  /-- PXOR (R125). Writes pa XOR pb, or its complement, into pd. -/
  | pxor (d a b : BitVec 6) (s : BitVec 2)
  /-- PSETN (R126). Sets a prefix of n lanes in pd, n clamped to 0 to 64. -/
  | psetn (p a : BitVec 6) (imm : BitVec 8)
  /-- PCNT (R127). Writes the number of set bits of pa into gd. -/
  | pcnt (d p : BitVec 6)
  /-- PMOVG (R127). Copies a predicate into gd. -/
  | pmovg (d p : BitVec 6)
  /-- PMOVP (R127). Copies ga into a predicate. -/
  | pmovp (p a : BitVec 6)
  /-- PBR (R139). Loads a target register with a PC-relative word index. -/
  | pbr (t : BitVec 3) (o : BitVec 17)
  /-- PBRG (R139). Loads a target register with (ga + IMM) mod 32,768. -/
  | pbrg (t a : BitVec 6) (imm : BitVec 8)
  /-- BR (R140). Branches to a target register on a predicate condition, a stream-wide boundary with or without a bubble. -/
  | br (p : BitVec 6) (t : BitVec 3) (cond : BitVec 2)
  /-- CALL (R142). Writes the link and redirects the stream to a target register. -/
  | call (d t : BitVec 6)
  /-- TMOV (R139). Copies a target register to another target register or to a g register. -/
  | tmov (d t : BitVec 6) (s : BitVec 2)
  /-- EXIT (R143). Ends the task: the slot enters RETIRING, or in the handler slot ends the interrupted task. -/
  | exit (code : BitVec 20)
  /-- VADD (R151). Adds governed lanes under the slot's format entry and rounding mode. -/
  | vadd (d a b : BitVec 5) (fs : BitVec 3) (m : BitVec 2)
  /-- VSUB (R151). Subtracts governed lanes under the format entry. -/
  | vsub (d a b : BitVec 5) (fs : BitVec 3) (m : BitVec 2)
  /-- VMUL (R151). Multiplies governed lanes under the format entry. -/
  | vmul (d a b : BitVec 5) (fs : BitVec 3) (m : BitVec 2)
  /-- VFMA (R154). Forms x*y + z exactly and rounds once. -/
  | vfma (d a b : BitVec 5) (fs : BitVec 3) (m : BitVec 2)
  /-- VFMS (R154). Forms x*y − z exactly and rounds once. -/
  | vfms (d a b : BitVec 5) (fs : BitVec 3) (m : BitVec 2)
  /-- VFNMA (R154). Forms −(x*y) + z exactly and rounds once. -/
  | vfnma (d a b : BitVec 5) (fs : BitVec 3) (m : BitVec 2)
  /-- VMIN (R151). Writes the lesser operand of each governed lane. -/
  | vmin (d a b : BitVec 5) (fs : BitVec 3) (m : BitVec 2)
  /-- VMAX (R151). Writes the greater operand of each governed lane. -/
  | vmax (d a b : BitVec 5) (fs : BitVec 3) (m : BitVec 2)
  /-- VDIV (R151). Divides governed lanes, correctly rounded, with fixed integer results for division by zero. -/
  | vdiv (d a b : BitVec 5) (fs : BitVec 3) (m : BitVec 2)
  /-- VSQRT (R155). Computes the correctly rounded square root of float lanes. -/
  | vsqrt (d a : BitVec 5) (fs : BitVec 3)
  /-- VREC (R155). Computes the correctly rounded reciprocal of float lanes. -/
  | vrec (d a : BitVec 5) (fs : BitVec 3)
  /-- VRSQ (R155). Computes the correctly rounded reciprocal square root. -/
  | vrsq (d a : BitVec 5) (fs : BitVec 3)
  /-- VEXP2 (R155). Computes 2^x, correctly rounded. -/
  | vexp2 (d a : BitVec 5) (fs : BitVec 3)
  /-- VLOG2 (R155). Computes log2 x, correctly rounded. -/
  | vlog2 (d a : BitVec 5) (fs : BitVec 3)
  /-- VABS (R156). Writes the absolute value of each governed lane. -/
  | vabs (d a : BitVec 5) (fs : BitVec 3)
  /-- VNEG (R156). Writes the negation of each governed lane. -/
  | vneg (d a : BitVec 5) (fs : BitVec 3)
  /-- VCVT (R158). Converts each governed lane from the source slot's entry to the destination slot's entry. -/
  | vcvt (d a : BitVec 5) (fsrc fs : BitVec 3)
  /-- VAND (R159). Bitwise AND over all 32 bits of each lane. -/
  | vand (d a b : BitVec 5) (m : BitVec 2)
  /-- VOR (R159). Bitwise OR over all 32 bits of each lane. -/
  | vor (d a b : BitVec 5) (m : BitVec 2)
  /-- VXOR (R159). Bitwise XOR over all 32 bits of each lane. -/
  | vxor (d a b : BitVec 5) (m : BitVec 2)
  /-- VSHL (R160). Shifts integer elements left by a per-lane count. -/
  | vshl (d a b : BitVec 5) (fs : BitVec 3) (m : BitVec 2)
  /-- VSHR (R160). Shifts integer elements right logically. -/
  | vshr (d a b : BitVec 5) (fs : BitVec 3) (m : BitVec 2)
  /-- VSHA (R160). Shifts integer elements right arithmetically. -/
  | vsha (d a b : BitVec 5) (fs : BitVec 3) (m : BitVec 2)
  /-- VCMPEQ (R161). Sets predicate lanes where decoded values are equal. -/
  | vcmpeq (p : BitVec 6) (a b : BitVec 5) (fs : BitVec 3)
  /-- VCMPNE (R161). Sets predicate lanes where decoded values differ. -/
  | vcmpne (p : BitVec 6) (a b : BitVec 5) (fs : BitVec 3)
  /-- VCMPLT (R161). Sets predicate lanes where va is less than vb. -/
  | vcmplt (p : BitVec 6) (a b : BitVec 5) (fs : BitVec 3)
  /-- VCMPLE (R161). Sets predicate lanes where va is at most vb. -/
  | vcmple (p : BitVec 6) (a b : BitVec 5) (fs : BitVec 3)
  /-- VCMPUN (R161). Sets predicate lanes where either float operand is a NaN. -/
  | vcmpun (p : BitVec 6) (a b : BitVec 5) (fs : BitVec 3)
  /-- VSEL (R162). Selects va or vb per lane under predicate pn. -/
  | vsel (d a b pn : BitVec 5)
  /-- VPRED (R163). Writes VGP from a predicate one cycle after issue. -/
  | vpred (p : BitVec 6)
  /-- VBCAST (R165). Broadcasts gs, raw or converted, to every governed lane. -/
  | vbcast (d : BitVec 5) (g : BitVec 6) (fs : BitVec 3) (m : BitVec 2)
  /-- VLANE (R166). Copies one lane of a vector into gd. -/
  | vlane (va : BitVec 5) (g : BitVec 6) (nh : BitVec 4) (nl : BitVec 2)
  /-- VIOTA (R167). Writes the encoded lane number, ascending or descending, to each governed lane. -/
  | viota (d : BitVec 5) (fs : BitVec 3) (m : BitVec 2)
  /-- VPERM (R168). Permutes lanes of va by per-lane indices in vb. -/
  | vperm (d a b : BitVec 5) (m : BitVec 2)
  /-- VROT (R169). Rotates lanes of va up or down by k. -/
  | vrot (d a k : BitVec 5) (up hi : BitVec 1)
  /-- VREDSUM (R170). Sums governed lanes along the fixed pairwise tree. -/
  | vredsum (d a : BitVec 5) (fs : BitVec 3) (m : BitVec 2)
  /-- VREDMAX (R170). Reduces governed lanes to their maximum along the tree. -/
  | vredmax (d a : BitVec 5) (fs : BitVec 3) (m : BitVec 2)
  /-- VREDMIN (R170). Reduces governed lanes to their minimum along the tree. -/
  | vredmin (d a : BitVec 5) (fs : BitVec 3) (m : BitVec 2)
  /-- VSCAN (R171). Forms a running sum, max or min in ascending lane order. -/
  | vscan (d a : BitVec 5) (fs : BitVec 3) (m : BitVec 2)
  /-- VLD (R173). Loads 64 scratchpad containers into governed lanes without conversion. -/
  | vld (d : BitVec 5) (g : BitVec 6) (cls : BitVec 4) (fs : BitVec 3)
  /-- VST (R173). Stores governed lanes as scratchpad containers, optionally bound-checked. -/
  | vst (v : BitVec 5) (g : BitVec 6) (cls : BitVec 4) (fs : BitVec 3)
  /-- VLDS (R175). Loads one row of a shape into lanes. -/
  | vlds (d h g : BitVec 5) (fs : BitVec 3)
  /-- VSTS (R175). Stores lanes into one row of a shape. -/
  | vsts (v h g : BitVec 5) (fs : BitVec 3)
  /-- VLDA (R174). Loads a quarter accumulator row, converting from the row tag's entry. -/
  | vlda (d : BitVec 5) (g : BitVec 6) (cls : BitVec 4) (fs : BitVec 3)
  /-- VSTA (R174). Stores lanes into a quarter accumulator row and sets its tag. -/
  | vsta (v : BitVec 5) (g : BitVec 6) (cls : BitVec 4) (fs : BitVec 3)
  /-- VRND (R178). Evaluates HITCH per lane, raw or as a keep mask against a threshold. -/
  | vrnd (d a g : BitVec 5) (m : BitVec 2)
  /-- VBND (R180). Checks lanes against a bound register and writes, clamps or traps. -/
  | vbnd (d a b : BitVec 5) (fs : BitVec 3)
  /-- VSCL (R157). Scales each lane by a power of two and encodes once. -/
  | vscl (d a b : BitVec 5) (fs : BitVec 3) (m : BitVec 2)
  /-- VCLASS (R164). Writes a one-hot class mask for each governed lane. -/
  | vclass (d a : BitVec 5) (fs : BitVec 3)
  /-- MMA (R201). Multiplies A by a dense weight slot and accumulates into the accumulator shape, rows landing from issue + 40. -/
  | mma (shc sha : BitVec 5) (w : BitVec 2) (nega negb noacc : BitVec 1)
  /-- MMAS (R201). As MMA for a structured-sparse weight slot. -/
  | mmas (shc sha : BitVec 5) (w : BitVec 2) (nega negb noacc : BitVec 1)
  /-- MLDB (R195). Loads a dense B from scratchpad into a weight slot's shadow, live at issue + 16 + ROWS. -/
  | mldb (shs : BitVec 5) (w : BitVec 2) (bc trn : BitVec 1) (cls : BitVec 4)
  /-- MLDBS (R196). Loads a sparse B with metadata, checking positions at landing. -/
  | mldbs (shs : BitVec 5) (w : BitVec 2) (bc trn : BitVec 1) (cls : BitVec 4)
  /-- MZERO (R204). Zeroes the elements of an accumulator shape row by row. -/
  | mzero (shc : BitVec 5)
  /-- MOUT (R206). Converts accumulator rows into a scratchpad shape, optionally bound-checked. -/
  | mout (shc shd : BitVec 5)
  /-- MSCALE (R205). Multiplies accumulator elements by per-column factors and tags rows F32. -/
  | mscale (shc shs : BitVec 5)
  /-- MADDT (R205). Adds a bias row or tile to accumulator elements. -/
  | maddt (shc shs : BitVec 5)
  /-- MSLOTINV (R208). Empties a weight slot and cancels a pending load into it. -/
  | mslotinv (w : BitVec 2)
  /-- CPY (R218). Forks a shape copy with per-element conversion. -/
  | cpy (shs shd : BitVec 5) (gc : BitVec 6) (cls : BitVec 4)
  /-- CPYM (R221). Forks a copy into scratchpad followed by a carried MMA or MMAS issued from the copy engine. -/
  | cpym (shs shd : BitVec 5) (gc : BitVec 6) (cls : BitVec 4) (carried : Half)
  /-- CPYV (R220). Forks a copy with a bound check on every element. -/
  | cpyv (shs shd : BitVec 5) (gc : BitVec 6) (cls : BitVec 4)
  /-- LNSET (R223). Sets count and strides of one loop-nest level. -/
  | lnset (gstr gcnt : BitVec 6) (lvl : BitVec 8)
  /-- LNRUN (R224). Forks a loop nest of copies over the captured loop-nest state. -/
  | lnrun (shs shd : BitVec 5) (gc : BitVec 6) (cls : BitVec 4)
  /-- MCST (R227). Stores a scratchpad shape into a multicast window, landing in every member on one tick. -/
  | mcst (shs shd : BitVec 5) (gc : BitVec 6) (cls : BitVec 4)
  /-- NFILL (R230). Fills a shared-memory shape with one converted value at the bank ALUs. -/
  | nfill (shs shd : BitVec 5) (gc : BitVec 6) (cls : BitVec 4)
  /-- NCOPY (R230). Copies between shared-memory shapes at the bank ALUs. -/
  | ncopy (shs shd : BitVec 5) (gc : BitVec 6) (cls : BitVec 4)
  /-- NCMP (R230). Compares two shared-memory shapes element-wise into D. -/
  | ncmp (shs shd : BitVec 5) (gc : BitVec 6) (cls : BitVec 4)
  /-- NRED (R230). Applies an indivisible read-modify-write reduction of S into D at the banks. -/
  | nred (shs shd : BitVec 5) (gc : BitVec 6) (cls : BitVec 4)
  /-- CINIT (R231). Clears the chunk bits of a bitmap with bank-ALU AND. -/
  | cinit (shs shd : BitVec 5) (gc : BitVec 6) (cls : BitVec 4)
  /-- GATH (R236). Forks a gather of table rows by an index list. -/
  | gath (ga : BitVec 6) (cls : BitVec 4)
  /-- GBAG (R236). Forks a bag gather that pools rows per bag by sum, mean or max. -/
  | gbag (ga : BitVec 6) (cls : BitVec 4)
  /-- GSCAT (R236). Forks a scatter of rows into table rows by index. -/
  | gscat (ga : BitVec 6) (cls : BitVec 4)
  /-- GSADD (R236). Forks a scatter-add of rows into shared-memory table rows at the banks. -/
  | gsadd (ga : BitVec 6) (cls : BitVec 4)
  /-- AADD (R239). Atomic add at the bank ALU. -/
  | aadd (d a : BitVec 6) (cls : BitVec 4) (wd : BitVec 2)
  /-- AAND (R239). Atomic AND at the bank ALU. -/
  | aand (d a : BitVec 6) (cls : BitVec 4) (wd : BitVec 2)
  /-- AOR (R239). Atomic OR at the bank ALU. -/
  | aor (d a : BitVec 6) (cls : BitVec 4) (wd : BitVec 2)
  /-- AXOR (R239). Atomic XOR at the bank ALU. -/
  | axor (d a : BitVec 6) (cls : BitVec 4) (wd : BitVec 2)
  /-- AMIN (R239). Atomic minimum, signed or unsigned. -/
  | amin (d a : BitVec 6) (cls : BitVec 4) (wd : BitVec 2) (sx : BitVec 1)
  /-- AMAX (R239). Atomic maximum, signed or unsigned. -/
  | amax (d a : BitVec 6) (cls : BitVec 4) (wd : BitVec 2) (sx : BitVec 1)
  /-- AFADD (R239). Ticketed atomic float add in BF16 or F32. -/
  | afadd (d a : BitVec 6) (cls : BitVec 4) (wd : BitVec 2)
  /-- ASWAP (R239). Atomic swap returning the old value to a return slot. -/
  | aswap (d a : BitVec 6) (cls : BitVec 4) (wd : BitVec 2)
  /-- ACAS (R239). Atomic compare-and-swap returning the old value. -/
  | acas (d a : BitVec 6) (cls : BitVec 4) (wd : BitVec 2)
  /-- QPUSH (R243). Forks a ticketed push onto a queue ring. -/
  | qpush (d q : BitVec 6) (cls : BitVec 4)
  /-- QPOP (R243). Forks a ticketed pop into a pop record. -/
  | qpop (d q : BitVec 6) (cls : BitVec 4)
  /-- SWINIT (R251). Writes a synchronisation word's initial value and freezes until it is visible. -/
  | swinit (d a : BitVec 6) (cls : BitVec 4)
  /-- ARRIVE (R252). Forks a release that applies one arrival and a byte amount to a synchronisation word. -/
  | arrive (d a : BitVec 6) (cls : BitVec 4)
  /-- WAITG (R253). Freezes until a synchronisation word reaches a generation. -/
  | waitg (d a : BitVec 6) (imm : BitVec 8)
  /-- WAITM (R253). Freezes until the first N bits of a chunk bitmap are set. -/
  | waitm (d a : BitVec 6) (imm : BitVec 8)
  /-- TESTG (R255). Reads a synchronisation word once and sets a predicate on its generation. -/
  | testg (p a : BitVec 6) (imm : BitVec 8)
  /-- TESTM (R255). Reads a chunk bitmap once and sets a predicate. -/
  | testm (p a : BitVec 6) (imm : BitVec 8)
  /-- ALIGN (R256). Arrives at a synchronisation word and freezes until the advance it completes. -/
  | align (d a : BitVec 6) (imm : BitVec 8)
  /-- FENCE (R257). Freezes until the task's accesses in the named classes are ordered at the scope. -/
  | fence (mask : BitVec 16) (kind scope : BitVec 2)
  /-- TRAP (R259). Raises TRAP_INSN with its code in HADDR. -/
  | trap (code : BitVec 20)
  /-- FTW (R261). Writes a context format-table entry and forks its propagation to other cores. -/
  | ftw (v a : BitVec 6) (imm : BitVec 8)
  /-- FTR (R263). Reads a format-table entry of the core's copy into gd. -/
  | ftr (d a : BitVec 6) (imm : BitVec 8)
  /-- BFMT (R264). Writes a bank format register SFMTb. -/
  | bfmt (v a : BitVec 6) (imm : BitVec 8)
  /-- FLOWREQ (R268). Forks a request to the cooling controller for flow in the core's zone. -/
  | flowreq (d a b : BitVec 6)
  /-- EVENT (R269). Asks the trace unit for an EVENT record. -/
  | event (gs : BitVec 6) (code : BitVec 14)
  /-- WPSET (R265). Writes a watchpoint register. -/
  | wpset (n a b : BitVec 6)
  /-- ICINV (R271). Freezes until accepted instruction-memory writes have landed. -/
  | icinv (m : BitVec 1)
  /-- WAITT (R270). Freezes the task until a named pod tick. -/
  | waitt (d a : BitVec 6) (imm : BitVec 8)
  /-- FUSERD (R274). Reads a fuse word into gd at level M. -/
  | fuserd (d a : BitVec 6) (imm : BitVec 8)
  /-- KEYWIPE (R275). Zeroises one key slot or all of them. -/
  | keywipe (d : BitVec 6) (imm : BitVec 14)
  /-- KEYLD (R275). Unwraps a key blob into a key slot and reports a status. -/
  | keyld (d a b : BitVec 6)
  /-- DBGUNLK (R276). Issues a nonce or checks a debug token and opens the debug port. -/
  | dbgunlk (d a b : BitVec 6)
  /-- MEASURE (R277). Extends a measurement register with a digest. -/
  | measure (a b : BitVec 6)
  /-- ATTEST (R278). Writes a signed attestation report for a nonce. -/
  | attest (a b : BitVec 6)
  /-- LAT (R385). Sets the link-engine cursor to B plus an immediate. -/
  | lat (imm : BitVec 20)
  /-- LSEND (R388). Reads n flits from memory and sends them as DATA flits, possibly as a release send. -/
  | lsend (ad an : BitVec 6) (rel inc : BitVec 1)
  /-- LRECV (R388). Takes n arriving flits and lands them at arrival + 14. -/
  | lrecv (ad an : BitVec 6) (inc : BitVec 1)
  /-- LFWD (R388). Forwards n arriving flits out of another port at arrival + 9. -/
  | lfwd (an : BitVec 6) (port : BitVec 4)
  /-- LRFWD (R388). Lands and forwards n arriving flits. -/
  | lrfwd (ad an : BitVec 6) (inc : BitVec 1) (port : BitVec 4)
  /-- LRADD (R388). Adds each element of n arriving flits into memory at the bank. -/
  | lradd (ad an : BitVec 6) (inc : BitVec 1) (fc : BitVec 3)
  /-- LSIG (R388). Sends a SIGNAL flit, or lands one as an arrival on a synchronisation word. -/
  | lsig (ad an : BitVec 6) (dir : BitVec 1)
  /-- LGUARD (R390). Sends a guard interval of n ticks on the outgoing direction. -/
  | lguard (imm : BitVec 20)
  /-- LLOOP (R386). Opens a repeated body with a count and period. -/
  | lloop (ad : BitVec 6) (imm : BitVec 14)
  /-- LCHK (R391). Records a checkpoint number, tick and ad in the checkpoint register. -/
  | lchk (ad : BitVec 6) (imm : BitVec 14)
  /-- LHALT (R392). Stops the link engine and records its code. -/
  | lhalt (code : BitVec 20)
  /-- LSET (R385). Loads an immediate into a link register. -/
  | lset (ad : BitVec 6) (imm : BitVec 14)
  /-- LADD (R385). Adds an immediate to a link register. -/
  | ladd (ad aa : BitVec 6) (imm : BitVec 8)
  /-- XIMM (R59). Prefix latched for an engine that extends the target word's immediate. -/
  | ximm (tgt : BitVec 3) (pay : BitVec 20)
  /-- XIDLE (R60). Prefix that replaces the target word's idle count. -/
  | xidle (tgt : BitVec 3) (pay : BitVec 20)
  /-- XMOD (R61). Prefix that supplies a rounding override and modifier bits to the target word. -/
  | xmod (tgt : BitVec 3) (pay : BitVec 20)
  /-- EXTEST (R439). TAP instruction selecting boundary scan for external test. -/
  | extest (din : Word)
  /-- SAMPLE_PRELOAD (R439). TAP instruction sampling or preloading the boundary scan register. -/
  | samplePreload (din : Word)
  /-- DBGADDR (R439). TAP instruction loading the debug address, direction and scan-view bit. -/
  | dbgaddr (din : Word)
  /-- DBGDATA_WRITE (R440). Update-DR of DBGDATA performs a scope-checked 8-byte debug write as master 81. -/
  | dbgdataWrite (din : Word)
  /-- DOORBELL (R309). A host write of TAIL advances the HWQ tail unless it would overrun the ring. -/
  | doorbell (att n : Nat) (tail : BitVec 16)
  /-- HWQ_POLL (R309). Every 256 ticks the CP reads byte 0 of the entry at HEAD of a polled HWQ. -/
  | hwqPoll (n : Nat)
  /-- LAUNCH_RECORD (R313). The CP takes a launch record and runs checks, variant selection, co-residency and admission. -/
  | launchRecord (n : Nat)
  /-- LAUNCH_LOAD (R315). Once cores and windows are free, code, format table, bounds and windows are loaded and the launch goes to the dispatchers. -/
  | launchLoad (n : Nat)
  /-- GRAPH_START (R330). A graph-start entry begins a chain of CP graph nodes. -/
  | graphStart (n : Nat)
  /-- LAUNCH (R331). A LAUNCH node runs the launch record at ARG and continues when it completes. -/
  | nodeLaunch (n : Nat)
  /-- COPY (R331). A COPY node copies bytes without conversion. -/
  | nodeCopy (n : Nat)
  /-- COND (R331). A COND node reads PRED and goes to NEXT or ALT. -/
  | nodeCond (n : Nat)
  /-- LOOP (R331). A LOOP node counts STATE up to COUNT, then resets and takes ALT. -/
  | nodeLoop (n : Nat)
  /-- WAIT (R331). A WAIT node reads PRED each tick until it reaches COUNT. -/
  | nodeWait (n : Nat)
  /-- WAIT_NODE_EXPIRY (R331). A WAIT node's deadline expires and ends the graph with WAIT_DEADLINE. -/
  | waitNodeExpiry (n : Nat)
  /-- SIGNAL (R331). A SIGNAL node writes COUNT to PRED and may raise the HWQ vector. -/
  | nodeSignal (n : Nat)
  /-- END (R331). An END node completes the graph entry with STATUS 0. -/
  | nodeEnd (n : Nat)
  /-- TASK_BIND (R320). A core binds the head of its launch queue into an EMPTY slot. -/
  | taskBind (core : Nat)
  /-- SLOT_ACTIVATE (R325). With no slot ACTIVE, the core makes the highest-ranked ready slot ACTIVE. -/
  | slotActivate (core : Nat)
  /-- TASK_RETIRE (R45). A RETIRING slot whose operations have joined and results landed becomes EMPTY and reports completion. -/
  | taskRetire (core slot : Nat)
  /-- LAUNCH_COMPLETE (R323). When every task has retired, or on abort, the CP writes the completion record and takes the next entry. -/
  | launchComplete (n : Nat)
  /-- UNSUPPORTED_REQUEST (R453). An SPDM request not in the supported list is answered with UnsupportedRequest. -/
  | unsupportedRequest (code : Nat)
  /-- FRAME_WRITE (R357). Once operations have parked, the CP writes the context frame image. -/
  | frameWrite (n : Nat)
  /-- RESTORE (R358). The CP checks a frame and returns slots, park records and memory to their cores. -/
  | restore (n : Nat)
  /-- REGISTER_WRITE (R7). A write to a register without a row of its own, with its range and refusal checks. -/
  | registerWrite (src : Writer) (addr : Nat) (value : Word)
  /-- COOLING_SAMPLE (R408). Every 12,500 ticks the controller samples every zone's sensors and sets valves. -/
  | coolingSample (zones : List ZoneReading) (watts : List Nat) (uncore : List Nat)
  /-- INVALIDATION_COMPLETION (R350). Once requests using removed translations are drained, the device sends the Invalidation Completion. -/
  | invalidationCompletion (att : Nat) (pasid : BitVec 20) (base len : Nat)
  /-- GET_CERTIFICATE (R453). SPDM GET_CERTIFICATE request for the device certificate chain. -/
  | getCertificate (slot offset len : Nat)
  /-- CHALLENGE (R453). SPDM CHALLENGE request. -/
  | challenge (slot : Nat) (nonce : BitVec 256)
  /-- GET_MEASUREMENTS (R453). SPDM GET_MEASUREMENTS request reporting MEAS registers. -/
  | getMeasurements (index : Nat) (nonce : BitVec 256)
  /-- KEY_EXCHANGE (R453). SPDM KEY_EXCHANGE request opening a secured session. -/
  | keyExchange (slot : Nat) (share : BitVec 768)
  /-- FINISH (R453). SPDM FINISH request. -/
  | finish (mac : BitVec 384)
  /-- ZONE_CLOCK_STOP (R417). At trap tick + 16 every master of the zone is clock-stopped. -/
  | zoneClockStop (zone : Nat)
  /-- PURGE_END (R418). The purge ends, the vent closes and the pulses begin. -/
  | purgeEnd (zone : Nat)
  /-- PULSES_END (R418). The pulses end and re-prime begins. -/
  | pulsesEnd (zone : Nat)
  /-- RE_PRIME_END (R418). Re-prime ends and verification begins. -/
  | rePrimeEnd (zone : Nat)
  /-- VERIFY_END (R418). Verification ends cleanly: STATE 2, ATT 0 and the clock stop is released. -/
  | verifyEnd (zone : Nat)
  /-- HELD_LANDING (R417). A multicast landing held for a stopped core is applied once the core has run the held offset. -/
  | heldLanding (core : Nat)
  /-- PRIME_VERIFY (R412). After priming, verification sets STATE 2 or traps the zone. -/
  | primeVerify (zone : Nat)
  /-- FLOWREQ_DECISION (R415). The controller decides an arriving FLOWREQ and writes its reply. -/
  | flowreqDecision (core entry : Nat)
  /-- GRANT_START (R415). A flow grant takes effect on its start tick. -/
  | grantStart (id : Nat)
  /-- GRANT_END (R415). A flow grant ends on its end tick or at the task's retirement. -/
  | grantEnd (id : Nat)
  /-- RECORD_WRITE (R430). The trace unit writes a queued record whole, wrapping, stopping or refusing it. -/
  | recordWrite (n : Nat)
  /-- MONITOR_PERIOD (R435). At the end of a period a monitor writes a MONITOR record and clears its state. -/
  | monitorPeriod (m : Nat)
  /-- GUARD_GAP (R375). A gap of more than 2^20 ticks between guard intervals raises cause GUARD. -/
  | guardGap (port : Nat)
  /-- AUTOMATIC_GUARD (R375). An engine without a program inserts a 16-tick guard every 2^19 ticks. -/
  | automaticGuard (port : Nat)
  /-- PROGRAM_START (R381). At O − 64 each link engine starts decoding its program. -/
  | programStart (port : Nat)
  /-- PROGRAM_DEADLINE (R382). A link program not halted by the launch's deadline raises WAIT_DEADLINE. -/
  | programDeadline (port : Nat)
  /-- HANDLER_ENTRY (R339). A routed fault blocks the task and starts the handler slot after matrix landings. -/
  | handlerEntry (core slot : Nat)
  /-- HANDLER_DEADLINE (R344). A handler running past TDEAD raises WAIT_DEADLINE and aborts the kernel. -/
  | handlerDeadline (core : Nat)
  /-- WAIT_DEADLINE (R47). A wait, test, weave load, queue step or freezing word reaches its deadline. -/
  | waitDeadline (core slot : Nat)
  /-- WEAVE_RELEASE (R197). When all four participants are frozen on a BC load, each word completes and the slots load together. -/
  | weaveRelease (cluster : Nat)
  /-- WAIT_SATISFIED (R254). A frozen wait or initialisation finds its condition true, completes and joins. -/
  | waitSatisfied (core slot : Nat)
  /-- TEST_RETURN (R255). A test's read returns and writes its predicate. -/
  | testReturn (core slot : Nat)
  /-- ALIGN_RESUME (R256). After the advance, participants resume on tick A + 8 with the reached generation. -/
  | alignResume (core slot : Nat)
  /-- FENCE_COMPLETE (R257). A FENCE's conditions hold and it completes, joining covered operations. -/
  | fenceComplete (core slot : Nat)
  /-- WAITT_RESUME (R270). The named tick arrives and the task resumes with its lateness. -/
  | waittResume (core slot : Nat)
  /-- CHUNK_COMPLETE (R217). A chunk's bytes become visible and its completion update is made. -/
  | chunkComplete (core entry : Nat)
  /-- ARRIVAL (R250). An arrival or byte update applies at the bank ALU and may advance the generation. -/
  | arrival (addr : Nat)
  /-- CARRIED_WORD_ISSUE (R221). A CPYM's carried MMA issues from the copy engine once its conditions hold. -/
  | carriedWordIssue (core entry : Nat)
  /-- TICKETED_UPDATE (R238). A held ticketed float update applies once all lower-index tasks have retired. -/
  | ticketedUpdate (core entry : Nat)
  /-- QUEUE_STEP (R243). A push or pop is served at the bank in ticket order once ring space or entries exist. -/
  | queueStep (core entry : Nat)
  /-- FTW_PROPAGATION (R262). A propagated format-table write applies on another core if its number is higher. -/
  | ftwPropagation (core entry : Nat)
  /-- UNASSIGNED_PATTERN (R68). A fetched word with E = 6 in a core stream, an unassigned OP, a prefix of KIND 3 to 7, or a misplaced word in link program memory raises ENGINE_MISPLACED or ILLEGAL_OPCODE. -/
  | unassignedPattern (w : Half)
  /-- BANK_ATOMIC (R241). An atomic, or a CINIT clear, arrives at the bank ALU, applies as one indivisible read-modify-write and writes its return slot. -/
  | bankAtomic (core entry : Nat)
  /-- PRI_RESPONSE (R349). A PRI response returns the operation to XLATE or stops it with PAGE_FAULT. -/
  | priResponse (core entry : Nat) (answer : PageAnswer)
  /-- ACQUIRE_LEASE (R303). Management command 2 acquires a write lease for the attachment. -/
  | acquireLease (att : Nat) (base limit : Word)
  /-- RELEASE_LEASE (R304). Management command 3 releases a lease. -/
  | releaseLease (att n : Nat)
  /-- PRE_EMPT_OR_RESTORE (R326). Management command 4 pre-empts or restores a launch, subject to mode and attachment. -/
  | preEmptOrRestore (att n : Nat) (what : Preemption)
  /-- READ_VIOLATION_LOG (R360). Management command 5 reads violation-log entries. -/
  | readViolationLog (att ctx index : Nat)
  /-- ADVANCE_LIFECYCLE (R448). Management command 6 checks a token and blows the next lifecycle state. -/
  | advanceLifecycle (att : Nat) (token : List Byte)
  /-- TDISP_LOCK (R447). Management command 7 moves a context's TDI to CONFIG_LOCKED. -/
  | tdispLock (att ctx : Nat)
  /-- TDISP_START (R447). Management command 7 moves a context's TDI to RUN. -/
  | tdispStart (att ctx : Nat)
  /-- TDISP_STOP (R447). Management command 7 stops a context's TDI. -/
  | tdispStop (att ctx : Nat)
  /-- ATS_INVALIDATION (R350). An ATS Invalidation Request removes matching translation entries. -/
  | atsInvalidation (att : Nat) (pasid : BitVec 20) (base len : Nat)
  /-- CXL_MEM_READ (R302). A host CXL.mem read returns the value visible at package scope, or poison. -/
  | cxlMemRead (att addr : Nat)
  /-- CXL_MEM_WRITE (R445). A host CXL.mem write is window-checked and performed, or dropped and logged. -/
  | cxlMemWrite (att addr : Nat) (data : List Byte) (mask : BitVec 64)
  /-- HOST_LINK_DOWN (R305). Link-down or surprise removal of an attachment makes its leases poison-pending. -/
  | hostLinkDown (att : Nat)
  /-- FUNCTION_LEVEL_RESET (R305). A function-level reset of an attachment makes its leases poison-pending. -/
  | functionLevelReset (att : Nat)
  /-- KEY_PROG (R449). IDE_KM KEY_PROG stores an IDE key in the lowest empty slot. -/
  | keyProg (stream dir : Nat) (key : BitVec 256)
  /-- K_SET_GO (R449). IDE_KM K_SET_GO starts using an IDE key, failing if no slot is empty. -/
  | kSetGo (stream dir : Nat)
  /-- ATS_COMPLETION (R348). An ATS completion fills the translation cache or sends the operation to PRI. -/
  | atsCompletion (core entry : Nat) (answer : Translation)
  /-- PRIME (R412). ZCMD command 1 opens a closed zone's valve for priming. -/
  | prime (zone : Nat)
  /-- CLOSE (R412). ZCMD command 2 closes a flowing zone with no demand. -/
  | close (zone : Nat)
  /-- CLEAR_FAILED (R412). ZCMD command 3 clears a FAILED zone and lifts its quarantine. -/
  | clearFailed (zone : Nat)
  /-- FORCE_EVACUATION (R412). ZCMD command 4 forces a trap with CAUSE 0 in a flowing zone. -/
  | forceEvacuation (zone : Nat)
  /-- ARM (R436). Writing DSTOP ARM arms a stop on a named tick, unless refused. -/
  | arm (src : Writer)
  /-- RESUME (R438). Writing RESUME ends the stop and queues a STOP record. -/
  | resume (src : Writer)
  /-- BUFFER_ENABLE (R429). Writing EN from 0 to 1 enables a trace buffer and clears its counters. -/
  | bufferEnable (src : Writer) (n : Nat)
  /-- ISWIN_ARM (R433). Writing ARM arms the cluster issue-slot window. -/
  | iswinArm (src : Writer)
  /-- SOFT_ERROR (R454). An uncorrectable error in core arrays aborts the core's launches and zeroes the array. -/
  | softError (core : Nat) (array : CoreArray)
  /-- UNCORRECTABLE_ERROR (R454, R455). An uncorrectable error in shared memory or HBM marks the line poisoned; one in the queue of trace
  buffer `addr` loses a record. -/
  | uncorrectableError (addr : Nat) (array : ErrorArray)
  /-- PATROL_SCRUB (R456). The patrol scrubber reads each line once per 2^36 ticks and corrects or marks it. -/
  | patrolScrub (addr : Nat) (found : ScrubResult)
  /-- LINK_TRAINING (R372). A link trains and both ends measure and fix D. -/
  | linkTraining (port : Nat) (x : Exchange) (far : Nat)
  /-- TIMEBASE_FLIT (R373). A TIMEBASE flit carries stamps used to measure delay and set the child's tick phase. -/
  | timebaseFlit (port : Nat) (beats : List (BitVec 576)) (parity : BitVec 576) (wander : Int)
  /-- GUARD_FLIT (R376). Arriving guard flits allow take-up and lanyard phase adjustment. -/
  | guardFlit (port : Nat) (guard : GuardFlit)
  /-- DATA_FLIT (R388). A DATA flit arrives, is CRC-checked and rebuilt, and is taken by a word of the engine or raises a fault. -/
  | dataFlit (port : Nat) (flit : Flit)
  /-- SIGNAL_FLIT (R388). A SIGNAL flit arrives and is landed as one arrival on a synchronisation word. -/
  | signalFlit (port : Nat) (flit : Flit)
  /-- NOTICE_FLIT (R402). A NOTICE arrives and is forwarded; the chip stops landing data. -/
  | noticeFlit (port : Nat) (flit : Flit)
  /-- MGMT_FLIT (R380). A CP management message carries ready notices, PST or flooded stops. -/
  | mgmtFlit (port : Nat) (flit : Flit)
  /-- LOSS_OF_LANE_LOCK (R398). Loss of lane lock on a trained link raises LINK_FAILURE with cause SIGNAL. -/
  | lossOfLaneLock (port : Nat)
  /-- BUFFER_LIMIT (R374). An elastic-buffer fill reaching 0 or 16 raises LINK_FAILURE with cause BUFFER. -/
  | bufferLimit (reached : BufferFill)
  /-- IDLE_FLIT (R368). An IDLE flit arrives on an unscheduled tick, its beats are CRC-checked and rebuilt, and a bad one raises LINK_FAILURE with cause FLIT or counts toward rail degradation. -/
  | idleFlit (port : Nat) (flit : Flit)
  /-- DIE_TO_DIE_BEAT (R370). A beat on a UCIe die-to-die link is checked, and two failing beats or a second degraded rail raise LINK_FAILURE with cause D2D and abort every pod kernel. -/
  | dieToDieBeat (pair : Nat) (flit : Flit)
  /-- TDISP_ERROR (R447). A context's TDI moves to ERROR: its launches abort with WINDOW_VIOLATION and its IDE key slots are wiped. -/
  | tdispError (ctx : Nat)
  /-- OTHER_COMMAND_CODE (R447). A management-queue entry whose command code is not in Table 15.4 completes with STATUS RESERVED_FIELD. -/
  | otherCommandCode (att code : Nat)
  /-- WRITE_CTXCFG (R447). Management command 1 writes CTXCFGk, WINn or LEASEn. -/
  | writeCtxcfg (att : Nat) (target : CfgTarget) (value : BitVec 256)
  /-- MDRAIN (R207). Freezes the task until every earlier M word has landed. -/
  | mdrain
  /-- LNCLR (R223). Returns every loop-nest level to its binding value. -/
  | lnclr
  /-- RETT (R260). Ends the handler and resumes the task according to HPC. -/
  | rett
  /-- YIELD (R272). Marks a pre-emption boundary and in E-mode yields to a ready slot. -/
  | yield
  /-- LEND (R386). Ends a loop iteration, jumping back or popping the loop. -/
  | lend
  /-- IDCODE (R439). TAP instruction returning the 32-bit ID code. -/
  | idcode
  /-- DBGDATA_READ (R440). Capture-DR of DBGDATA performs a scope-checked 8-byte debug read. -/
  | dbgdataRead
  /-- DBGSTAT (R439). TAP instruction reading port status; Update-DR clears ERR. -/
  | dbgstat
  /-- BYPASS (R439). TAP instruction selecting the one-bit bypass register. -/
  | bypass
  /-- GET_VERSION (R453). SPDM GET_VERSION request. -/
  | getVersion
  /-- GET_CAPABILITIES (R453). SPDM GET_CAPABILITIES request. -/
  | getCapabilities
  /-- NEGOTIATE_ALGORITHMS (R453). SPDM NEGOTIATE_ALGORITHMS request. -/
  | negotiateAlgorithms
  /-- GET_DIGESTS (R453). SPDM GET_DIGESTS request. -/
  | getDigests
  /-- END_SESSION (R453). SPDM END_SESSION request. -/
  | endSession
  /-- COLD_RESET (R452). Cold reset zeroes measurements, closes the debug port and wipes keys when RETIRED. -/
  | coldReset
  /-- DEBUG_STOP (R437). On STICK the gated masters stop under the armed scope. -/
  | debugStop
  /-- DBGCTL_CLOSE (R440). An M-level write of 1 to DBGCTL bit 0 closes the debug port. -/
  | dbgctlClose
  /-- ISSUE_BLOCK (R433). Each 32-tick block of an armed window yields one ISSUE record. -/
  | issueBlock
  /-- COUNTER_SAMPLE (R434). On each multiple of 2^PER all eight counters are read into a COUNTER record. -/
  | counterSample
  /-- LOCKSTEP_MISMATCH (R457). A CP lockstep mismatch halts both CP cores and freezes dispatch. -/
  | lockstepMismatch
  /-- CP_RESTART (R458). The restarted CP rebuilds its state, restarts pending entries and writes owed records. -/
  | cpRestart
  /-- SPLICE_STOP (R402). On tick S every chip stops the pod kernel, selects a checkpoint and switches detour set. -/
  | spliceStop
  /-- SPLICE_RESUME (R402). On tick R every chip starts the checkpoint's resume node. -/
  | spliceResume
  /-- SECURITY_BLOCK_REPLY (R273). The security block replies to a manager word and the task resumes. -/
  | securityBlockReply
  deriving DecidableEq, Repr

end Sys2Proof
end

