-- ==== Sys2Proof/WellFormed.lean ====
section
/-!
DEFINITION. Which words are well-formed: every register field names a register of its file and every
coded field holds a value its opcode's entry gives (R54 to R56, R63 to R67). A word that is not raises
RESERVED_FIELD at decode (R68). Events carry no encoding and are well-formed.
-/
namespace Sys2Proof

def pOk {w : Nat} (p : BitVec w) : Bool := p.toNat ≤ 47
def tOk {w : Nat} (t : BitVec w) : Bool := t.toNat ≤ 7
/-- link registers a0 to a7 (R383) -/
def aOk {w : Nat} (a : BitVec w) : Bool := a.toNat ≤ 7
/-- fields whose next register is also read must be 1 to 62 (R65, R246) -/
def pairOk {w : Nat} (a : BitVec w) : Bool := 1 ≤ a.toNat && a.toNat ≤ 62

/-- Every field holds a value its opcode gives it. -/
def Instr.wf (i : Instr) : Bool :=
  match i with
  | .add _ _ _ => true
  | .sub _ _ _ => true
  | .and _ _ _ => true
  | .or _ _ _ => true
  | .xor _ _ _ => true
  | .shl _ _ _ => true
  | .shr _ _ _ => true
  | .sha _ _ _ => true
  | .mul _ _ _ => true
  | .mulh _ _ _ s => decide (s.toNat ≤ 2)
  | .div _ _ _ s => decide (s.toNat ≤ 1)
  | .rem _ _ _ s => decide (s.toNat ≤ 1)
  | .min _ _ _ s => decide (s.toNat ≤ 1)
  | .max _ _ _ s => decide (s.toNat ≤ 1)
  | .clz _ _ => true
  | .popc _ _ => true
  | .addi _ _ _ => true
  | .andi _ _ _ => true
  | .ori _ _ _ => true
  | .xori _ _ _ => true
  | .shli _ _ _ => true
  | .shri _ _ _ => true
  | .shai _ _ _ => true
  | .li _ _ => true
  | .lih _ _ => true
  | .bfx _ _ _ => true
  | .bfi _ _ _ => true
  | .addsh _ _ _ _ => true
  | .cmpeq p _ _ => pOk p
  | .cmpne p _ _ => pOk p
  | .cmplt p _ _ s => pOk p && decide (s.toNat ≤ 1)
  | .cmple p _ _ s => pOk p && decide (s.toNat ≤ 1)
  | .widf _ imm => decide (imm.toNat ≤ 5)
  | .movs _ imm => decide (imm.toNat ≤ 13)
  | .movsw _ imm => decide (imm.toNat ≤ 13)
  | .sld _ _ _ _ _ => true
  | .sst _ _ _ _ => true
  | .fslot f _ _ => decide (f.toNat ≤ 7)
  | .shld h _ _ => decide (h.toNat ≤ 31)
  | .shst h _ _ => decide (h.toNat ≤ 31)
  | .shset h _ _ => decide (h.toNat ≤ 31)
  | .shget _ h _ => decide (h.toNat ≤ 31)
  | .bndset n _ _ _ => decide (n.toNat ≤ 15)
  | .pand d a b s => pOk d && pOk a && pOk b && decide (s.toNat ≤ 1)
  | .por d a b s => pOk d && pOk a && pOk b && decide (s.toNat ≤ 1)
  | .pxor d a b s => pOk d && pOk a && pOk b && decide (s.toNat ≤ 1)
  | .psetn p _ _ => pOk p
  | .pcnt _ p => pOk p
  | .pmovg _ p => pOk p
  | .pmovp p _ => pOk p
  | .pbr _ _ => true
  | .pbrg t _ _ => tOk t
  | .br p _ _ => pOk p
  | .call _ t => tOk t
  | .tmov d t s => decide (s.toNat ≤ 1) && tOk t && (decide (s.toNat = 1) || tOk d)
  | .exit _ => true
  | .vadd _ _ _ _ m => decide (m.toNat ≤ 1)
  | .vsub _ _ _ _ m => decide (m.toNat ≤ 1)
  | .vmul _ _ _ _ m => decide (m.toNat ≤ 1)
  | .vfma _ _ _ _ m => decide (m.toNat ≤ 1)
  | .vfms _ _ _ _ m => decide (m.toNat ≤ 1)
  | .vfnma _ _ _ _ m => decide (m.toNat ≤ 1)
  | .vmin _ _ _ _ m => decide (m.toNat ≤ 1)
  | .vmax _ _ _ _ m => decide (m.toNat ≤ 1)
  | .vdiv _ _ _ _ m => decide (m.toNat ≤ 1)
  | .vsqrt _ _ _ => true
  | .vrec _ _ _ => true
  | .vrsq _ _ _ => true
  | .vexp2 _ _ _ => true
  | .vlog2 _ _ _ => true
  | .vabs _ _ _ => true
  | .vneg _ _ _ => true
  | .vcvt _ _ _ _ => true
  | .vand _ _ _ m => decide (m.toNat ≤ 1)
  | .vor _ _ _ m => decide (m.toNat ≤ 1)
  | .vxor _ _ _ m => decide (m.toNat ≤ 1)
  | .vshl _ _ _ _ m => decide (m.toNat ≤ 1)
  | .vshr _ _ _ _ m => decide (m.toNat ≤ 1)
  | .vsha _ _ _ _ m => decide (m.toNat ≤ 1)
  | .vcmpeq p _ _ _ => pOk p
  | .vcmpne p _ _ _ => pOk p
  | .vcmplt p _ _ _ => pOk p
  | .vcmple p _ _ _ => pOk p
  | .vcmpun p _ _ _ => pOk p
  | .vsel _ _ _ _ => true
  | .vpred p => pOk p
  | .vbcast _ _ fs m => decide (m.toNat ≤ 2) && (decide (m.toNat ≠ 0) || decide (fs.toNat = 0))
  | .vlane _ _ _ _ => true
  | .viota _ _ m => decide (m.toNat ≤ 1)
  | .vperm _ _ _ m => decide (m.toNat ≤ 1)
  | .vrot _ _ _ _ _ => true
  | .vredsum _ _ _ m => decide (m.toNat ≤ 1)
  | .vredmax _ _ _ m => decide (m.toNat ≤ 1)
  | .vredmin _ _ _ m => decide (m.toNat ≤ 1)
  | .vscan _ _ _ m => decide (m.toNat ≤ 2)
  | .vld _ _ _ _ => true
  | .vst _ _ _ _ => true
  | .vlds _ _ _ _ => true
  | .vsts _ _ _ _ => true
  | .vlda _ _ _ _ => true
  | .vsta _ _ _ _ => true
  | .vrnd _ _ _ m => decide (m.toNat ≤ 1)
  | .vbnd _ _ b _ => decide (b.toNat ≤ 15)
  | .vscl _ _ _ _ m => decide (m.toNat ≤ 1)
  | .vclass _ _ _ => true
  | .mma _ _ _ _ _ _ => true
  | .mmas _ _ _ _ _ _ => true
  | .mldb _ _ _ _ _ => true
  | .mldbs shs _ _ _ _ => decide (shs.toNat ≠ 31)
  | .mzero _ => true
  | .mout _ _ => true
  | .mscale _ _ => true
  | .maddt _ _ => true
  | .mdrain => true
  | .mslotinv _ => true
  | .cpy _ _ _ _ => true
  | .cpym _ _ _ _ _ => true
  | .cpyv _ _ _ _ => true
  | .lnset _ _ lvl => decide (lvl.toNat ≤ 5)
  | .lnrun _ _ _ _ => true
  | .lnclr => true
  | .mcst _ _ _ _ => true
  | .nfill _ _ _ _ => true
  | .ncopy _ _ _ _ => true
  | .ncmp shs _ _ _ => decide (shs.toNat ≠ 31)
  | .nred _ _ _ _ => true
  | .cinit _ _ _ _ => true
  | .gath _ _ => true
  | .gbag _ _ => true
  | .gscat _ _ => true
  | .gsadd _ _ => true
  | .aadd _ _ _ wd => decide (2 ≤ wd.toNat)
  | .aand _ _ _ wd => decide (2 ≤ wd.toNat)
  | .aor _ _ _ wd => decide (2 ≤ wd.toNat)
  | .axor _ _ _ wd => decide (2 ≤ wd.toNat)
  | .amin _ _ _ wd _ => decide (2 ≤ wd.toNat)
  | .amax _ _ _ wd _ => decide (2 ≤ wd.toNat)
  | .afadd _ _ _ wd => (decide (wd.toNat = 1) || decide (wd.toNat = 2))
  | .aswap _ a _ wd => decide (2 ≤ wd.toNat) && pairOk a
  | .acas d a _ wd => decide (2 ≤ wd.toNat) && pairOk a && pairOk d
  | .qpush _ _ _ => true
  | .qpop _ _ _ => true
  | .swinit _ _ _ => true
  | .arrive _ _ _ => true
  | .waitg _ _ _ => true
  | .waitm _ _ _ => true
  | .testg p a _ => pOk p && pairOk a
  | .testm p a _ => pOk p && pairOk a
  | .align _ _ _ => true
  | .fence mask kind _ => decide (mask.toNat ≠ 0) && decide (kind.toNat ≠ 3)
  | .trap _ => true
  | .rett => true
  | .ftw _ _ _ => true
  | .ftr _ _ _ => true
  | .bfmt _ _ _ => true
  | .flowreq _ _ _ => true
  | .event _ _ => true
  | .wpset n _ _ => decide (n.toNat ≤ 3)
  | .icinv _ => true
  | .waitt _ _ _ => true
  | .fuserd _ _ _ => true
  | .keywipe _ imm => (decide (imm.toNat < 64) || decide (imm.toNat = 0x3FFF))
  | .keyld _ _ _ => true
  | .dbgunlk _ _ _ => true
  | .measure _ _ => true
  | .attest _ _ => true
  | .yield => true
  | .lat _ => true
  | .lsend ad an _ _ => aOk ad && aOk an
  | .lrecv ad an _ => aOk ad && aOk an
  | .lfwd an port => aOk an && decide (port.toNat ≤ 11)
  | .lrfwd ad an _ port => aOk ad && aOk an && decide (port.toNat ≤ 11)
  | .lradd ad an _ fc => aOk ad && aOk an && decide (fc.toNat ≤ 5)
  | .lsig ad an dir => aOk ad && aOk an && (if dir.toNat = 0 then decide (ad.toNat = 0) else decide (an.toNat = 0))
  | .lguard _ => true
  | .lloop ad _ => aOk ad
  | .lend => true
  | .lchk ad _ => aOk ad
  | .lhalt _ => true
  | .lset ad _ => aOk ad
  | .ladd ad aa _ => aOk ad && aOk aa
  | .ximm tgt _ => decide (tgt.toNat ≤ 6)
  | .xidle tgt _ => decide (tgt.toNat ≤ 6)
  | .xmod tgt _ => decide (tgt.toNat ≤ 6)
  | .extest _ => true
  | .samplePreload _ => true
  | .idcode => true
  | .dbgaddr _ => true
  | .dbgdataRead => true
  | .dbgdataWrite _ => true
  | .dbgstat => true
  | .bypass => true
  | .doorbell _ _ _ => true
  | .hwqPoll _ => true
  | .launchRecord _ => true
  | .launchLoad _ => true
  | .graphStart _ => true
  | .nodeLaunch _ => true
  | .nodeCopy _ => true
  | .nodeCond _ => true
  | .nodeLoop _ => true
  | .nodeWait _ => true
  | .waitNodeExpiry _ => true
  | .nodeSignal _ => true
  | .nodeEnd _ => true
  | .taskBind _ => true
  | .slotActivate _ => true
  | .taskRetire _ _ => true
  | .launchComplete _ => true
  | .writeCtxcfg _ _ _ => true
  | .acquireLease _ _ _ => true
  | .releaseLease _ _ => true
  | .preEmptOrRestore _ _ _ => true
  | .frameWrite _ => true
  | .restore _ => true
  | .readViolationLog _ _ _ => true
  | .advanceLifecycle _ _ => true
  | .tdispLock _ _ => true
  | .tdispStart _ _ => true
  | .tdispStop _ _ => true
  | .registerWrite _ _ _ => true
  | .atsCompletion _ _ _ => true
  | .priResponse _ _ _ => true
  | .atsInvalidation _ _ _ _ => true
  | .invalidationCompletion _ _ _ _ => true
  | .cxlMemRead _ _ => true
  | .cxlMemWrite _ _ _ _ => true
  | .hostLinkDown _ => true
  | .functionLevelReset _ => true
  | .getVersion => true
  | .getCapabilities => true
  | .negotiateAlgorithms => true
  | .getDigests => true
  | .getCertificate _ _ _ => true
  | .challenge _ _ => true
  | .getMeasurements _ _ => true
  | .keyExchange _ _ => true
  | .finish _ => true
  | .endSession => true
  | .keyProg _ _ _ => true
  | .kSetGo _ _ => true
  | .coldReset => true
  | .coolingSample _ _ _ => true
  | .zoneClockStop _ => true
  | .purgeEnd _ => true
  | .pulsesEnd _ => true
  | .rePrimeEnd _ => true
  | .verifyEnd _ => true
  | .heldLanding _ => true
  | .prime _ => true
  | .primeVerify _ => true
  | .close _ => true
  | .clearFailed _ => true
  | .forceEvacuation _ => true
  | .flowreqDecision _ _ => true
  | .grantStart _ => true
  | .grantEnd _ => true
  | .arm _ => true
  | .debugStop => true
  | .resume _ => true
  | .dbgctlClose => true
  | .bufferEnable _ _ => true
  | .recordWrite _ => true
  | .iswinArm _ => true
  | .issueBlock => true
  | .counterSample => true
  | .monitorPeriod _ => true
  | .softError _ _ => true
  | .uncorrectableError _ _ => true
  | .patrolScrub _ _ => true
  | .lockstepMismatch => true
  | .cpRestart => true
  | .linkTraining _ _ _ => true
  | .timebaseFlit _ _ _ _ => true
  | .guardFlit _ _ => true
  | .dataFlit _ _ => true
  | .signalFlit _ _ => true
  | .noticeFlit _ _ => true
  | .mgmtFlit _ _ => true
  | .lossOfLaneLock _ => true
  | .bufferLimit _ => true
  | .spliceStop => true
  | .spliceResume => true
  | .guardGap _ => true
  | .automaticGuard _ => true
  | .programStart _ => true
  | .programDeadline _ => true
  | .handlerEntry _ _ => true
  | .handlerDeadline _ => true
  | .waitDeadline _ _ => true
  | .weaveRelease _ => true
  | .waitSatisfied _ _ => true
  | .testReturn _ _ => true
  | .alignResume _ _ => true
  | .fenceComplete _ _ => true
  | .waittResume _ _ => true
  | .securityBlockReply => true
  | .chunkComplete _ _ => true
  | .arrival _ => true
  | .carriedWordIssue _ _ => true
  | .ticketedUpdate _ _ => true
  | .queueStep _ _ => true
  | .ftwPropagation _ _ => true
  | .unassignedPattern _ => true
  | .idleFlit _ _ => true
  | .dieToDieBeat _ _ => true
  | .tdispError _ => true
  | .bankAtomic _ _ => true
  | .otherCommandCode _ _ => true
  | .unsupportedRequest _ => true

/-- The places an instruction can stand: a word of a core stream, a word of link program memory, a
prefix, a TAP instruction, or an event or command that has no encoding. -/
inductive Place where
  | core | link | pre | tap | event
  deriving DecidableEq, Repr

def Instr.place (i : Instr) : Place :=
  match i with
  | .add _ _ _ => .core
  | .sub _ _ _ => .core
  | .and _ _ _ => .core
  | .or _ _ _ => .core
  | .xor _ _ _ => .core
  | .shl _ _ _ => .core
  | .shr _ _ _ => .core
  | .sha _ _ _ => .core
  | .mul _ _ _ => .core
  | .mulh _ _ _ _ => .core
  | .div _ _ _ _ => .core
  | .rem _ _ _ _ => .core
  | .min _ _ _ _ => .core
  | .max _ _ _ _ => .core
  | .clz _ _ => .core
  | .popc _ _ => .core
  | .addi _ _ _ => .core
  | .andi _ _ _ => .core
  | .ori _ _ _ => .core
  | .xori _ _ _ => .core
  | .shli _ _ _ => .core
  | .shri _ _ _ => .core
  | .shai _ _ _ => .core
  | .li _ _ => .core
  | .lih _ _ => .core
  | .bfx _ _ _ => .core
  | .bfi _ _ _ => .core
  | .addsh _ _ _ _ => .core
  | .cmpeq _ _ _ => .core
  | .cmpne _ _ _ => .core
  | .cmplt _ _ _ _ => .core
  | .cmple _ _ _ _ => .core
  | .widf _ _ => .core
  | .movs _ _ => .core
  | .movsw _ _ => .core
  | .sld _ _ _ _ _ => .core
  | .sst _ _ _ _ => .core
  | .fslot _ _ _ => .core
  | .shld _ _ _ => .core
  | .shst _ _ _ => .core
  | .shset _ _ _ => .core
  | .shget _ _ _ => .core
  | .bndset _ _ _ _ => .core
  | .pand _ _ _ _ => .core
  | .por _ _ _ _ => .core
  | .pxor _ _ _ _ => .core
  | .psetn _ _ _ => .core
  | .pcnt _ _ => .core
  | .pmovg _ _ => .core
  | .pmovp _ _ => .core
  | .pbr _ _ => .core
  | .pbrg _ _ _ => .core
  | .br _ _ _ => .core
  | .call _ _ => .core
  | .tmov _ _ _ => .core
  | .exit _ => .core
  | .vadd _ _ _ _ _ => .core
  | .vsub _ _ _ _ _ => .core
  | .vmul _ _ _ _ _ => .core
  | .vfma _ _ _ _ _ => .core
  | .vfms _ _ _ _ _ => .core
  | .vfnma _ _ _ _ _ => .core
  | .vmin _ _ _ _ _ => .core
  | .vmax _ _ _ _ _ => .core
  | .vdiv _ _ _ _ _ => .core
  | .vsqrt _ _ _ => .core
  | .vrec _ _ _ => .core
  | .vrsq _ _ _ => .core
  | .vexp2 _ _ _ => .core
  | .vlog2 _ _ _ => .core
  | .vabs _ _ _ => .core
  | .vneg _ _ _ => .core
  | .vcvt _ _ _ _ => .core
  | .vand _ _ _ _ => .core
  | .vor _ _ _ _ => .core
  | .vxor _ _ _ _ => .core
  | .vshl _ _ _ _ _ => .core
  | .vshr _ _ _ _ _ => .core
  | .vsha _ _ _ _ _ => .core
  | .vcmpeq _ _ _ _ => .core
  | .vcmpne _ _ _ _ => .core
  | .vcmplt _ _ _ _ => .core
  | .vcmple _ _ _ _ => .core
  | .vcmpun _ _ _ _ => .core
  | .vsel _ _ _ _ => .core
  | .vpred _ => .core
  | .vbcast _ _ _ _ => .core
  | .vlane _ _ _ _ => .core
  | .viota _ _ _ => .core
  | .vperm _ _ _ _ => .core
  | .vrot _ _ _ _ _ => .core
  | .vredsum _ _ _ _ => .core
  | .vredmax _ _ _ _ => .core
  | .vredmin _ _ _ _ => .core
  | .vscan _ _ _ _ => .core
  | .vld _ _ _ _ => .core
  | .vst _ _ _ _ => .core
  | .vlds _ _ _ _ => .core
  | .vsts _ _ _ _ => .core
  | .vlda _ _ _ _ => .core
  | .vsta _ _ _ _ => .core
  | .vrnd _ _ _ _ => .core
  | .vbnd _ _ _ _ => .core
  | .vscl _ _ _ _ _ => .core
  | .vclass _ _ _ => .core
  | .mma _ _ _ _ _ _ => .core
  | .mmas _ _ _ _ _ _ => .core
  | .mldb _ _ _ _ _ => .core
  | .mldbs _ _ _ _ _ => .core
  | .mzero _ => .core
  | .mout _ _ => .core
  | .mscale _ _ => .core
  | .maddt _ _ => .core
  | .mdrain => .core
  | .mslotinv _ => .core
  | .cpy _ _ _ _ => .core
  | .cpym _ _ _ _ _ => .core
  | .cpyv _ _ _ _ => .core
  | .lnset _ _ _ => .core
  | .lnrun _ _ _ _ => .core
  | .lnclr => .core
  | .mcst _ _ _ _ => .core
  | .nfill _ _ _ _ => .core
  | .ncopy _ _ _ _ => .core
  | .ncmp _ _ _ _ => .core
  | .nred _ _ _ _ => .core
  | .cinit _ _ _ _ => .core
  | .gath _ _ => .core
  | .gbag _ _ => .core
  | .gscat _ _ => .core
  | .gsadd _ _ => .core
  | .aadd _ _ _ _ => .core
  | .aand _ _ _ _ => .core
  | .aor _ _ _ _ => .core
  | .axor _ _ _ _ => .core
  | .amin _ _ _ _ _ => .core
  | .amax _ _ _ _ _ => .core
  | .afadd _ _ _ _ => .core
  | .aswap _ _ _ _ => .core
  | .acas _ _ _ _ => .core
  | .qpush _ _ _ => .core
  | .qpop _ _ _ => .core
  | .swinit _ _ _ => .core
  | .arrive _ _ _ => .core
  | .waitg _ _ _ => .core
  | .waitm _ _ _ => .core
  | .testg _ _ _ => .core
  | .testm _ _ _ => .core
  | .align _ _ _ => .core
  | .fence _ _ _ => .core
  | .trap _ => .core
  | .rett => .core
  | .ftw _ _ _ => .core
  | .ftr _ _ _ => .core
  | .bfmt _ _ _ => .core
  | .flowreq _ _ _ => .core
  | .event _ _ => .core
  | .wpset _ _ _ => .core
  | .icinv _ => .core
  | .waitt _ _ _ => .core
  | .fuserd _ _ _ => .core
  | .keywipe _ _ => .core
  | .keyld _ _ _ => .core
  | .dbgunlk _ _ _ => .core
  | .measure _ _ => .core
  | .attest _ _ => .core
  | .yield => .core
  | .lat _ => .link
  | .lsend _ _ _ _ => .link
  | .lrecv _ _ _ => .link
  | .lfwd _ _ => .link
  | .lrfwd _ _ _ _ => .link
  | .lradd _ _ _ _ => .link
  | .lsig _ _ _ => .link
  | .lguard _ => .link
  | .lloop _ _ => .link
  | .lend => .link
  | .lchk _ _ => .link
  | .lhalt _ => .link
  | .lset _ _ => .link
  | .ladd _ _ _ => .link
  | .ximm _ _ => .pre
  | .xidle _ _ => .pre
  | .xmod _ _ => .pre
  | .extest _ => .tap
  | .samplePreload _ => .tap
  | .idcode => .tap
  | .dbgaddr _ => .tap
  | .dbgdataRead => .tap
  | .dbgdataWrite _ => .tap
  | .dbgstat => .tap
  | .bypass => .tap
  | .doorbell _ _ _ => .event
  | .hwqPoll _ => .event
  | .launchRecord _ => .event
  | .launchLoad _ => .event
  | .graphStart _ => .event
  | .nodeLaunch _ => .event
  | .nodeCopy _ => .event
  | .nodeCond _ => .event
  | .nodeLoop _ => .event
  | .nodeWait _ => .event
  | .waitNodeExpiry _ => .event
  | .nodeSignal _ => .event
  | .nodeEnd _ => .event
  | .taskBind _ => .event
  | .slotActivate _ => .event
  | .taskRetire _ _ => .event
  | .launchComplete _ => .event
  | .writeCtxcfg _ _ _ => .event
  | .acquireLease _ _ _ => .event
  | .releaseLease _ _ => .event
  | .preEmptOrRestore _ _ _ => .event
  | .frameWrite _ => .event
  | .restore _ => .event
  | .readViolationLog _ _ _ => .event
  | .advanceLifecycle _ _ => .event
  | .tdispLock _ _ => .event
  | .tdispStart _ _ => .event
  | .tdispStop _ _ => .event
  | .registerWrite _ _ _ => .event
  | .atsCompletion _ _ _ => .event
  | .priResponse _ _ _ => .event
  | .atsInvalidation _ _ _ _ => .event
  | .invalidationCompletion _ _ _ _ => .event
  | .cxlMemRead _ _ => .event
  | .cxlMemWrite _ _ _ _ => .event
  | .hostLinkDown _ => .event
  | .functionLevelReset _ => .event
  | .getVersion => .event
  | .getCapabilities => .event
  | .negotiateAlgorithms => .event
  | .getDigests => .event
  | .getCertificate _ _ _ => .event
  | .challenge _ _ => .event
  | .getMeasurements _ _ => .event
  | .keyExchange _ _ => .event
  | .finish _ => .event
  | .endSession => .event
  | .keyProg _ _ _ => .event
  | .kSetGo _ _ => .event
  | .coldReset => .event
  | .coolingSample _ _ _ => .event
  | .zoneClockStop _ => .event
  | .purgeEnd _ => .event
  | .pulsesEnd _ => .event
  | .rePrimeEnd _ => .event
  | .verifyEnd _ => .event
  | .heldLanding _ => .event
  | .prime _ => .event
  | .primeVerify _ => .event
  | .close _ => .event
  | .clearFailed _ => .event
  | .forceEvacuation _ => .event
  | .flowreqDecision _ _ => .event
  | .grantStart _ => .event
  | .grantEnd _ => .event
  | .arm _ => .event
  | .debugStop => .event
  | .resume _ => .event
  | .dbgctlClose => .event
  | .bufferEnable _ _ => .event
  | .recordWrite _ => .event
  | .iswinArm _ => .event
  | .issueBlock => .event
  | .counterSample => .event
  | .monitorPeriod _ => .event
  | .softError _ _ => .event
  | .uncorrectableError _ _ => .event
  | .patrolScrub _ _ => .event
  | .lockstepMismatch => .event
  | .cpRestart => .event
  | .linkTraining _ _ _ => .event
  | .timebaseFlit _ _ _ _ => .event
  | .guardFlit _ _ => .event
  | .dataFlit _ _ => .event
  | .signalFlit _ _ => .event
  | .noticeFlit _ _ => .event
  | .mgmtFlit _ _ => .event
  | .lossOfLaneLock _ => .event
  | .bufferLimit _ => .event
  | .spliceStop => .event
  | .spliceResume => .event
  | .guardGap _ => .event
  | .automaticGuard _ => .event
  | .programStart _ => .event
  | .programDeadline _ => .event
  | .handlerEntry _ _ => .event
  | .handlerDeadline _ => .event
  | .waitDeadline _ _ => .event
  | .weaveRelease _ => .event
  | .waitSatisfied _ _ => .event
  | .testReturn _ _ => .event
  | .alignResume _ _ => .event
  | .fenceComplete _ _ => .event
  | .waittResume _ _ => .event
  | .securityBlockReply => .event
  | .chunkComplete _ _ => .event
  | .arrival _ => .event
  | .carriedWordIssue _ _ => .event
  | .ticketedUpdate _ _ => .event
  | .queueStep _ _ => .event
  | .ftwPropagation _ _ => .event
  | .unassignedPattern _ => .event
  | .idleFlit _ _ => .event
  | .dieToDieBeat _ _ => .event
  | .tdispError _ => .event
  | .bankAtomic _ _ => .event
  | .otherCommandCode _ _ => .event
  | .unsupportedRequest _ => .event

end Sys2Proof
end

