-- ==== Sys2Proof/Decode.lean ====
section
/-!
DEFINITION. The decoder of instruction words and, after it, the encoder (02, Tables 2.1 to 2.10; TAP
instruction codes, Table 14.9). Both work on the fields' numeric values: a field of `len` bits at bit
`lo` of a word is `fld n lo len`. A pattern that is no assigned opcode, or has a non-zero zero-field,
decodes to nothing; what it then raises is UNASSIGNED_PATTERN's (R68).
-/
namespace Sys2Proof

/-- The field of `len` bits at bit `lo`. -/
def fld (n lo len : Nat) : Nat := n / 2 ^ lo % 2 ^ len

/-- The same as a bit vector. -/
def bfld (n lo len : Nat) : BitVec len := BitVec.ofNat len (n / 2 ^ lo)

/-- The assigned words of engine S, by opcode (R63). -/
def decodeS (op n : Nat) : Option Instr :=
  match op with
  | 0 => if fld n 0 2 = 0 then some (.add (bfld n 14 6) (bfld n 8 6) (bfld n 2 6)) else none
  | 1 => if fld n 0 2 = 0 then some (.sub (bfld n 14 6) (bfld n 8 6) (bfld n 2 6)) else none
  | 2 => if fld n 0 2 = 0 then some (.and (bfld n 14 6) (bfld n 8 6) (bfld n 2 6)) else none
  | 3 => if fld n 0 2 = 0 then some (.or (bfld n 14 6) (bfld n 8 6) (bfld n 2 6)) else none
  | 4 => if fld n 0 2 = 0 then some (.xor (bfld n 14 6) (bfld n 8 6) (bfld n 2 6)) else none
  | 5 => if fld n 0 2 = 0 then some (.shl (bfld n 14 6) (bfld n 8 6) (bfld n 2 6)) else none
  | 6 => if fld n 0 2 = 0 then some (.shr (bfld n 14 6) (bfld n 8 6) (bfld n 2 6)) else none
  | 7 => if fld n 0 2 = 0 then some (.sha (bfld n 14 6) (bfld n 8 6) (bfld n 2 6)) else none
  | 8 => if fld n 0 2 = 0 then some (.mul (bfld n 14 6) (bfld n 8 6) (bfld n 2 6)) else none
  | 9 => some (.mulh (bfld n 14 6) (bfld n 8 6) (bfld n 2 6) (bfld n 0 2))
  | 10 => some (.div (bfld n 14 6) (bfld n 8 6) (bfld n 2 6) (bfld n 0 2))
  | 11 => some (.rem (bfld n 14 6) (bfld n 8 6) (bfld n 2 6) (bfld n 0 2))
  | 12 => some (.min (bfld n 14 6) (bfld n 8 6) (bfld n 2 6) (bfld n 0 2))
  | 13 => some (.max (bfld n 14 6) (bfld n 8 6) (bfld n 2 6) (bfld n 0 2))
  | 14 => if fld n 0 8 = 0 then some (.clz (bfld n 14 6) (bfld n 8 6)) else none
  | 15 => if fld n 0 8 = 0 then some (.popc (bfld n 14 6) (bfld n 8 6)) else none
  | 16 => some (.addi (bfld n 14 6) (bfld n 8 6) (bfld n 0 8))
  | 17 => some (.andi (bfld n 14 6) (bfld n 8 6) (bfld n 0 8))
  | 18 => some (.ori (bfld n 14 6) (bfld n 8 6) (bfld n 0 8))
  | 19 => some (.xori (bfld n 14 6) (bfld n 8 6) (bfld n 0 8))
  | 20 => if fld n 6 2 = 0 then some (.shli (bfld n 14 6) (bfld n 8 6) (bfld n 0 6)) else none
  | 21 => if fld n 6 2 = 0 then some (.shri (bfld n 14 6) (bfld n 8 6) (bfld n 0 6)) else none
  | 22 => if fld n 6 2 = 0 then some (.shai (bfld n 14 6) (bfld n 8 6) (bfld n 0 6)) else none
  | 23 => some (.li (bfld n 14 6) (bfld n 0 14))
  | 24 => some (.lih (bfld n 14 6) (bfld n 0 14))
  | 25 => if fld n 0 2 = 0 then some (.bfx (bfld n 14 6) (bfld n 8 6) (bfld n 2 6)) else none
  | 26 => if fld n 0 2 = 0 then some (.bfi (bfld n 14 6) (bfld n 8 6) (bfld n 2 6)) else none
  | 27 => some (.addsh (bfld n 14 6) (bfld n 8 6) (bfld n 2 6) (bfld n 0 2))
  | 28 => if fld n 0 2 = 0 then some (.cmpeq (bfld n 14 6) (bfld n 8 6) (bfld n 2 6)) else none
  | 29 => if fld n 0 2 = 0 then some (.cmpne (bfld n 14 6) (bfld n 8 6) (bfld n 2 6)) else none
  | 30 => some (.cmplt (bfld n 14 6) (bfld n 8 6) (bfld n 2 6) (bfld n 0 2))
  | 31 => some (.cmple (bfld n 14 6) (bfld n 8 6) (bfld n 2 6) (bfld n 0 2))
  | 32 => some (.widf (bfld n 14 6) (bfld n 0 14))
  | 33 => some (.movs (bfld n 14 6) (bfld n 0 14))
  | 34 => some (.movsw (bfld n 14 6) (bfld n 0 14))
  | 35 => if fld n 0 1 = 0 then some (.sld (bfld n 14 6) (bfld n 8 6) (bfld n 4 4) (bfld n 2 2) (bfld n 1 1)) else none
  | 36 => if fld n 0 2 = 0 then some (.sst (bfld n 14 6) (bfld n 8 6) (bfld n 4 4) (bfld n 2 2)) else none
  | 37 => some (.fslot (bfld n 14 6) (bfld n 8 6) (bfld n 0 8))
  | 38 => some (.shld (bfld n 14 6) (bfld n 8 6) (bfld n 0 8))
  | 39 => some (.shst (bfld n 14 6) (bfld n 8 6) (bfld n 0 8))
  | 40 => if fld n 4 4 = 0 then some (.shset (bfld n 14 6) (bfld n 8 6) (bfld n 0 4)) else none
  | 41 => if fld n 4 4 = 0 then some (.shget (bfld n 14 6) (bfld n 8 6) (bfld n 0 4)) else none
  | 42 => some (.bndset (bfld n 14 6) (bfld n 8 6) (bfld n 2 6) (bfld n 0 2))
  | 43 => some (.pand (bfld n 14 6) (bfld n 8 6) (bfld n 2 6) (bfld n 0 2))
  | 44 => some (.por (bfld n 14 6) (bfld n 8 6) (bfld n 2 6) (bfld n 0 2))
  | 45 => some (.pxor (bfld n 14 6) (bfld n 8 6) (bfld n 2 6) (bfld n 0 2))
  | 46 => some (.psetn (bfld n 14 6) (bfld n 8 6) (bfld n 0 8))
  | 47 => if fld n 0 8 = 0 then some (.pcnt (bfld n 14 6) (bfld n 8 6)) else none
  | 48 => if fld n 0 8 = 0 then some (.pmovg (bfld n 14 6) (bfld n 8 6)) else none
  | 49 => if fld n 0 8 = 0 then some (.pmovp (bfld n 14 6) (bfld n 8 6)) else none
  | 50 => some (.pbr (bfld n 17 3) (bfld n 0 17))
  | 51 => some (.pbrg (bfld n 14 6) (bfld n 8 6) (bfld n 0 8))
  | 52 => if fld n 0 9 = 0 then some (.br (bfld n 14 6) (bfld n 11 3) (bfld n 9 2)) else none
  | 53 => if fld n 0 8 = 0 then some (.call (bfld n 14 6) (bfld n 8 6)) else none
  | 54 => if fld n 2 6 = 0 then some (.tmov (bfld n 14 6) (bfld n 8 6) (bfld n 0 2)) else none
  | 55 => some (.exit (bfld n 0 20))
  | _ => none

/-- The assigned words of engine V, by opcode (R64). -/
def decodeV (op n : Nat) : Option Instr :=
  match op with
  | 0 => some (.vadd (bfld n 15 5) (bfld n 10 5) (bfld n 5 5) (bfld n 2 3) (bfld n 0 2))
  | 1 => some (.vsub (bfld n 15 5) (bfld n 10 5) (bfld n 5 5) (bfld n 2 3) (bfld n 0 2))
  | 2 => some (.vmul (bfld n 15 5) (bfld n 10 5) (bfld n 5 5) (bfld n 2 3) (bfld n 0 2))
  | 3 => some (.vfma (bfld n 15 5) (bfld n 10 5) (bfld n 5 5) (bfld n 2 3) (bfld n 0 2))
  | 4 => some (.vfms (bfld n 15 5) (bfld n 10 5) (bfld n 5 5) (bfld n 2 3) (bfld n 0 2))
  | 5 => some (.vfnma (bfld n 15 5) (bfld n 10 5) (bfld n 5 5) (bfld n 2 3) (bfld n 0 2))
  | 6 => some (.vmin (bfld n 15 5) (bfld n 10 5) (bfld n 5 5) (bfld n 2 3) (bfld n 0 2))
  | 7 => some (.vmax (bfld n 15 5) (bfld n 10 5) (bfld n 5 5) (bfld n 2 3) (bfld n 0 2))
  | 8 => some (.vdiv (bfld n 15 5) (bfld n 10 5) (bfld n 5 5) (bfld n 2 3) (bfld n 0 2))
  | 9 => if fld n 0 2 = 0 ∧ fld n 5 5 = 0 then some (.vsqrt (bfld n 15 5) (bfld n 10 5) (bfld n 2 3)) else none
  | 10 => if fld n 0 2 = 0 ∧ fld n 5 5 = 0 then some (.vrec (bfld n 15 5) (bfld n 10 5) (bfld n 2 3)) else none
  | 11 => if fld n 0 2 = 0 ∧ fld n 5 5 = 0 then some (.vrsq (bfld n 15 5) (bfld n 10 5) (bfld n 2 3)) else none
  | 12 => if fld n 0 2 = 0 ∧ fld n 5 5 = 0 then some (.vexp2 (bfld n 15 5) (bfld n 10 5) (bfld n 2 3)) else none
  | 13 => if fld n 0 2 = 0 ∧ fld n 5 5 = 0 then some (.vlog2 (bfld n 15 5) (bfld n 10 5) (bfld n 2 3)) else none
  | 14 => if fld n 0 2 = 0 ∧ fld n 5 5 = 0 then some (.vabs (bfld n 15 5) (bfld n 10 5) (bfld n 2 3)) else none
  | 15 => if fld n 0 2 = 0 ∧ fld n 5 5 = 0 then some (.vneg (bfld n 15 5) (bfld n 10 5) (bfld n 2 3)) else none
  | 16 => if fld n 0 2 = 0 ∧ fld n 8 2 = 0 then some (.vcvt (bfld n 15 5) (bfld n 10 5) (bfld n 5 3) (bfld n 2 3)) else none
  | 17 => if fld n 2 3 = 0 then some (.vand (bfld n 15 5) (bfld n 10 5) (bfld n 5 5) (bfld n 0 2)) else none
  | 18 => if fld n 2 3 = 0 then some (.vor (bfld n 15 5) (bfld n 10 5) (bfld n 5 5) (bfld n 0 2)) else none
  | 19 => if fld n 2 3 = 0 then some (.vxor (bfld n 15 5) (bfld n 10 5) (bfld n 5 5) (bfld n 0 2)) else none
  | 20 => some (.vshl (bfld n 15 5) (bfld n 10 5) (bfld n 5 5) (bfld n 2 3) (bfld n 0 2))
  | 21 => some (.vshr (bfld n 15 5) (bfld n 10 5) (bfld n 5 5) (bfld n 2 3) (bfld n 0 2))
  | 22 => some (.vsha (bfld n 15 5) (bfld n 10 5) (bfld n 5 5) (bfld n 2 3) (bfld n 0 2))
  | 23 => if fld n 0 1 = 0 then some (.vcmpeq (bfld n 14 6) (bfld n 9 5) (bfld n 4 5) (bfld n 1 3)) else none
  | 24 => if fld n 0 1 = 0 then some (.vcmpne (bfld n 14 6) (bfld n 9 5) (bfld n 4 5) (bfld n 1 3)) else none
  | 25 => if fld n 0 1 = 0 then some (.vcmplt (bfld n 14 6) (bfld n 9 5) (bfld n 4 5) (bfld n 1 3)) else none
  | 26 => if fld n 0 1 = 0 then some (.vcmple (bfld n 14 6) (bfld n 9 5) (bfld n 4 5) (bfld n 1 3)) else none
  | 27 => if fld n 0 1 = 0 then some (.vcmpun (bfld n 14 6) (bfld n 9 5) (bfld n 4 5) (bfld n 1 3)) else none
  | 28 => some (.vsel (bfld n 15 5) (bfld n 10 5) (bfld n 5 5) (bfld n 0 5))
  | 29 => if fld n 0 14 = 0 then some (.vpred (bfld n 14 6)) else none
  | 30 => if fld n 5 4 = 0 then some (.vbcast (bfld n 15 5) (bfld n 9 6) (bfld n 2 3) (bfld n 0 2)) else none
  | 31 => if fld n 2 3 = 0 then some (.vlane (bfld n 15 5) (bfld n 9 6) (bfld n 5 4) (bfld n 0 2)) else none
  | 32 => if fld n 5 10 = 0 then some (.viota (bfld n 15 5) (bfld n 2 3) (bfld n 0 2)) else none
  | 33 => if fld n 2 3 = 0 then some (.vperm (bfld n 15 5) (bfld n 10 5) (bfld n 5 5) (bfld n 0 2)) else none
  | 34 => if fld n 2 3 = 0 then some (.vrot (bfld n 15 5) (bfld n 10 5) (bfld n 5 5) (bfld n 1 1) (bfld n 0 1)) else none
  | 35 => if fld n 5 5 = 0 then some (.vredsum (bfld n 15 5) (bfld n 10 5) (bfld n 2 3) (bfld n 0 2)) else none
  | 36 => if fld n 5 5 = 0 then some (.vredmax (bfld n 15 5) (bfld n 10 5) (bfld n 2 3) (bfld n 0 2)) else none
  | 37 => if fld n 5 5 = 0 then some (.vredmin (bfld n 15 5) (bfld n 10 5) (bfld n 2 3) (bfld n 0 2)) else none
  | 38 => if fld n 5 5 = 0 then some (.vscan (bfld n 15 5) (bfld n 10 5) (bfld n 2 3) (bfld n 0 2)) else none
  | 39 => if fld n 0 2 = 0 then some (.vld (bfld n 15 5) (bfld n 9 6) (bfld n 5 4) (bfld n 2 3)) else none
  | 40 => if fld n 0 2 = 0 then some (.vst (bfld n 15 5) (bfld n 9 6) (bfld n 5 4) (bfld n 2 3)) else none
  | 41 => if fld n 0 2 = 0 then some (.vlds (bfld n 15 5) (bfld n 10 5) (bfld n 5 5) (bfld n 2 3)) else none
  | 42 => if fld n 0 2 = 0 then some (.vsts (bfld n 15 5) (bfld n 10 5) (bfld n 5 5) (bfld n 2 3)) else none
  | 43 => if fld n 0 2 = 0 then some (.vlda (bfld n 15 5) (bfld n 9 6) (bfld n 5 4) (bfld n 2 3)) else none
  | 44 => if fld n 0 2 = 0 then some (.vsta (bfld n 15 5) (bfld n 9 6) (bfld n 5 4) (bfld n 2 3)) else none
  | 45 => if fld n 2 3 = 0 then some (.vrnd (bfld n 15 5) (bfld n 10 5) (bfld n 5 5) (bfld n 0 2)) else none
  | 46 => if fld n 0 2 = 0 then some (.vbnd (bfld n 15 5) (bfld n 10 5) (bfld n 5 5) (bfld n 2 3)) else none
  | 47 => some (.vscl (bfld n 15 5) (bfld n 10 5) (bfld n 5 5) (bfld n 2 3) (bfld n 0 2))
  | 48 => if fld n 0 2 = 0 ∧ fld n 5 5 = 0 then some (.vclass (bfld n 15 5) (bfld n 10 5) (bfld n 2 3)) else none
  | _ => none

/-- The assigned words of engine M, by opcode (R65). -/
def decodeM (op n : Nat) : Option Instr :=
  match op with
  | 0 => if fld n 0 5 = 0 then some (.mma (bfld n 15 5) (bfld n 10 5) (bfld n 8 2) (bfld n 7 1) (bfld n 6 1) (bfld n 5 1)) else none
  | 1 => if fld n 0 5 = 0 then some (.mmas (bfld n 15 5) (bfld n 10 5) (bfld n 8 2) (bfld n 7 1) (bfld n 6 1) (bfld n 5 1)) else none
  | 2 => if fld n 0 7 = 0 then some (.mldb (bfld n 15 5) (bfld n 13 2) (bfld n 12 1) (bfld n 11 1) (bfld n 7 4)) else none
  | 3 => if fld n 0 7 = 0 then some (.mldbs (bfld n 15 5) (bfld n 13 2) (bfld n 12 1) (bfld n 11 1) (bfld n 7 4)) else none
  | 4 => if fld n 0 15 = 0 then some (.mzero (bfld n 15 5)) else none
  | 5 => if fld n 0 10 = 0 then some (.mout (bfld n 15 5) (bfld n 10 5)) else none
  | 6 => if fld n 0 10 = 0 then some (.mscale (bfld n 15 5) (bfld n 10 5)) else none
  | 7 => if fld n 0 10 = 0 then some (.maddt (bfld n 15 5) (bfld n 10 5)) else none
  | 8 => if fld n 0 20 = 0 then some (.mdrain) else none
  | 9 => if fld n 0 13 = 0 ∧ fld n 15 5 = 0 then some (.mslotinv (bfld n 13 2)) else none
  | _ => none

/-- The assigned words of engine C, by opcode (R65). -/
def decodeC (op n : Nat) (carried : Half) : Option Instr :=
  match op with
  | 0 => some (.cpy (bfld n 15 5) (bfld n 10 5) (bfld n 4 6) (bfld n 0 4))
  | 1 => some (.cpym (bfld n 15 5) (bfld n 10 5) (bfld n 4 6) (bfld n 0 4) carried)
  | 2 => some (.cpyv (bfld n 15 5) (bfld n 10 5) (bfld n 4 6) (bfld n 0 4))
  | 3 => some (.lnset (bfld n 14 6) (bfld n 8 6) (bfld n 0 8))
  | 4 => some (.lnrun (bfld n 15 5) (bfld n 10 5) (bfld n 4 6) (bfld n 0 4))
  | 5 => if fld n 0 20 = 0 then some (.lnclr) else none
  | 6 => some (.mcst (bfld n 15 5) (bfld n 10 5) (bfld n 4 6) (bfld n 0 4))
  | 7 => some (.nfill (bfld n 15 5) (bfld n 10 5) (bfld n 4 6) (bfld n 0 4))
  | 8 => some (.ncopy (bfld n 15 5) (bfld n 10 5) (bfld n 4 6) (bfld n 0 4))
  | 9 => some (.ncmp (bfld n 15 5) (bfld n 10 5) (bfld n 4 6) (bfld n 0 4))
  | 10 => some (.nred (bfld n 15 5) (bfld n 10 5) (bfld n 4 6) (bfld n 0 4))
  | 11 => some (.cinit (bfld n 15 5) (bfld n 10 5) (bfld n 4 6) (bfld n 0 4))
  | _ => none

/-- The assigned words of engine G, by opcode (R65). -/
def decodeG (op n : Nat) : Option Instr :=
  match op with
  | 0 => if fld n 0 4 = 0 ∧ fld n 14 6 = 0 then some (.gath (bfld n 8 6) (bfld n 4 4)) else none
  | 1 => if fld n 0 4 = 0 ∧ fld n 14 6 = 0 then some (.gbag (bfld n 8 6) (bfld n 4 4)) else none
  | 2 => if fld n 0 4 = 0 ∧ fld n 14 6 = 0 then some (.gscat (bfld n 8 6) (bfld n 4 4)) else none
  | 3 => if fld n 0 4 = 0 ∧ fld n 14 6 = 0 then some (.gsadd (bfld n 8 6) (bfld n 4 4)) else none
  | 4 => if fld n 0 2 = 0 then some (.aadd (bfld n 14 6) (bfld n 8 6) (bfld n 4 4) (bfld n 2 2)) else none
  | 5 => if fld n 0 2 = 0 then some (.aand (bfld n 14 6) (bfld n 8 6) (bfld n 4 4) (bfld n 2 2)) else none
  | 6 => if fld n 0 2 = 0 then some (.aor (bfld n 14 6) (bfld n 8 6) (bfld n 4 4) (bfld n 2 2)) else none
  | 7 => if fld n 0 2 = 0 then some (.axor (bfld n 14 6) (bfld n 8 6) (bfld n 4 4) (bfld n 2 2)) else none
  | 8 => if fld n 0 1 = 0 then some (.amin (bfld n 14 6) (bfld n 8 6) (bfld n 4 4) (bfld n 2 2) (bfld n 1 1)) else none
  | 9 => if fld n 0 1 = 0 then some (.amax (bfld n 14 6) (bfld n 8 6) (bfld n 4 4) (bfld n 2 2) (bfld n 1 1)) else none
  | 10 => if fld n 0 2 = 0 then some (.afadd (bfld n 14 6) (bfld n 8 6) (bfld n 4 4) (bfld n 2 2)) else none
  | 11 => if fld n 0 2 = 0 then some (.aswap (bfld n 14 6) (bfld n 8 6) (bfld n 4 4) (bfld n 2 2)) else none
  | 12 => if fld n 0 2 = 0 then some (.acas (bfld n 14 6) (bfld n 8 6) (bfld n 4 4) (bfld n 2 2)) else none
  | 13 => if fld n 0 4 = 12 then some (.qpush (bfld n 14 6) (bfld n 8 6) (bfld n 4 4)) else none
  | 14 => if fld n 0 4 = 12 then some (.qpop (bfld n 14 6) (bfld n 8 6) (bfld n 4 4)) else none
  | _ => none

/-- The assigned words of engine Y, by opcode (R66). -/
def decodeY (op n : Nat) : Option Instr :=
  match op with
  | 0 => if fld n 0 4 = 0 then some (.swinit (bfld n 14 6) (bfld n 8 6) (bfld n 4 4)) else none
  | 1 => if fld n 0 4 = 0 then some (.arrive (bfld n 14 6) (bfld n 8 6) (bfld n 4 4)) else none
  | 2 => some (.waitg (bfld n 14 6) (bfld n 8 6) (bfld n 0 8))
  | 3 => some (.waitm (bfld n 14 6) (bfld n 8 6) (bfld n 0 8))
  | 4 => some (.testg (bfld n 14 6) (bfld n 8 6) (bfld n 0 8))
  | 5 => some (.testm (bfld n 14 6) (bfld n 8 6) (bfld n 0 8))
  | 6 => some (.align (bfld n 14 6) (bfld n 8 6) (bfld n 0 8))
  | 7 => some (.fence (bfld n 4 16) (bfld n 2 2) (bfld n 0 2))
  | 8 => some (.trap (bfld n 0 20))
  | 9 => if fld n 0 20 = 0 then some (.rett) else none
  | 10 => some (.ftw (bfld n 14 6) (bfld n 8 6) (bfld n 0 8))
  | 11 => some (.ftr (bfld n 14 6) (bfld n 8 6) (bfld n 0 8))
  | 12 => some (.bfmt (bfld n 14 6) (bfld n 8 6) (bfld n 0 8))
  | 13 => if fld n 0 2 = 0 then some (.flowreq (bfld n 14 6) (bfld n 8 6) (bfld n 2 6)) else none
  | 14 => some (.event (bfld n 14 6) (bfld n 0 14))
  | 15 => if fld n 0 2 = 0 then some (.wpset (bfld n 14 6) (bfld n 8 6) (bfld n 2 6)) else none
  | 16 => if fld n 1 19 = 0 then some (.icinv (bfld n 0 1)) else none
  | 17 => some (.waitt (bfld n 14 6) (bfld n 8 6) (bfld n 0 8))
  | 18 => some (.fuserd (bfld n 14 6) (bfld n 8 6) (bfld n 0 8))
  | 19 => some (.keywipe (bfld n 14 6) (bfld n 0 14))
  | 20 => if fld n 0 2 = 0 then some (.keyld (bfld n 14 6) (bfld n 8 6) (bfld n 2 6)) else none
  | 21 => if fld n 0 2 = 0 then some (.dbgunlk (bfld n 14 6) (bfld n 8 6) (bfld n 2 6)) else none
  | 22 => if fld n 0 2 = 0 ∧ fld n 14 6 = 0 then some (.measure (bfld n 8 6) (bfld n 2 6)) else none
  | 23 => if fld n 0 2 = 0 ∧ fld n 14 6 = 0 then some (.attest (bfld n 8 6) (bfld n 2 6)) else none
  | 24 => if fld n 0 20 = 0 then some (.yield) else none
  | _ => none

/-- The assigned words of engine L, by opcode (R67). -/
def decodeL (op n : Nat) : Option Instr :=
  match op with
  | 0 => some (.lat (bfld n 0 20))
  | 1 => if fld n 0 6 = 0 then some (.lsend (bfld n 14 6) (bfld n 8 6) (bfld n 7 1) (bfld n 6 1)) else none
  | 2 => if fld n 0 6 = 0 ∧ fld n 7 1 = 0 then some (.lrecv (bfld n 14 6) (bfld n 8 6) (bfld n 6 1)) else none
  | 3 => if fld n 4 4 = 0 ∧ fld n 14 6 = 0 then some (.lfwd (bfld n 8 6) (bfld n 0 4)) else none
  | 4 => if fld n 4 2 = 0 ∧ fld n 7 1 = 0 then some (.lrfwd (bfld n 14 6) (bfld n 8 6) (bfld n 6 1) (bfld n 0 4)) else none
  | 5 => if fld n 3 3 = 0 ∧ fld n 7 1 = 0 then some (.lradd (bfld n 14 6) (bfld n 8 6) (bfld n 6 1) (bfld n 0 3)) else none
  | 6 => if fld n 1 7 = 0 then some (.lsig (bfld n 14 6) (bfld n 8 6) (bfld n 0 1)) else none
  | 7 => some (.lguard (bfld n 0 20))
  | 8 => some (.lloop (bfld n 14 6) (bfld n 0 14))
  | 9 => if fld n 0 20 = 0 then some (.lend) else none
  | 10 => some (.lchk (bfld n 14 6) (bfld n 0 14))
  | 11 => some (.lhalt (bfld n 0 20))
  | 12 => some (.lset (bfld n 14 6) (bfld n 0 14))
  | 13 => some (.ladd (bfld n 14 6) (bfld n 8 6) (bfld n 0 8))
  | _ => none

/-- The prefixes, by KIND (R57, Table 2.4); I must be zero. -/
def decodeX (n : Nat) : Option Instr :=
  match fld n 20 3 with
  | 0 => some (.ximm (bfld n 23 3) (bfld n 0 20))
  | 1 => some (.xidle (bfld n 23 3) (bfld n 0 20))
  | 2 => some (.xmod (bfld n 23 3) (bfld n 0 20))
  | _ => none

/-- Decode one word; CPYM takes the word after it as its carried word (R51, R70). The I field of L words
and prefixes must be zero (R57, R383). -/
def decode (w carried : Half) : Option Instr :=
  let n := w.toNat
  let op := fld n 20 6
  match fld n 29 3 with
  | 0 => decodeS op n
  | 1 => decodeV op n
  | 2 => decodeM op n
  | 3 => decodeC op n carried
  | 4 => decodeG op n
  | 5 => decodeY op n
  | 6 => if fld n 26 3 = 0 then decodeL op n else none
  | _ => if fld n 26 3 = 0 then decodeX n else none

/-- The idle count of a word (R31, R51). -/
def idleOf (w : Half) : Nat := fld w.toNat 26 3

/-- The E field of a word (R51). -/
def engineOf (w : Half) : Nat := fld w.toNat 29 3

/-- CPYM is followed by its carried word (R70). -/
def isCpym (w : Half) : Bool := fld w.toNat 29 3 = 3 && fld w.toNat 20 6 = 1

/-- The TAP instruction of an IR value (Table 14.9); every other value selects BYPASS. -/
def decodeTap (ir : Nat) : Instr :=
  match ir with
  | 0x00 => .extest 0
  | 0x01 => .samplePreload 0
  | 0x02 => .idcode
  | 0x10 => .dbgaddr 0
  | 0x11 => .dbgdataRead
  | 0x12 => .dbgstat
  | _ => .bypass

/-- The instruction read from an instruction whose bits are `w`: 32-bit words, the second of a CPYM
zero when the bits do not give it, and 8-bit TAP instruction codes. -/
def decodeTableWord (nbits w : Nat) : Option Instr :=
  if nbits = 8 then some (decodeTap (w % 256))
  else if nbits = 32 ∨ nbits = 64 then
    decode (BitVec.ofNat 32 w) (BitVec.ofNat 32 (w / 2 ^ 32))
  else none

/-! ### The encoder -/

/-- A field's value at bit `lo`. -/
def put {len : Nat} (x : BitVec len) (lo : Nat) : Nat := x.toNat * 2 ^ lo

/-- A word from its engine, idle count, opcode and payload (Table 2.1); a prefix has its target in the
upper bits of its payload (Table 2.4). -/
def mkWord (e idle op payload : Nat) : Half :=
  BitVec.ofNat 32 (e * 2 ^ 29 + idle * 2 ^ 26 + op * 2 ^ 20 + payload)

/-- Engine, opcode and payload of a word (Tables 2.6 to 2.10); an event has none. -/
def encodeParts (i : Instr) : Option (Nat × Nat × Nat) :=
  match i with
  | .add d a b => some (0, 0, put d 14 + put a 8 + put b 2)
  | .sub d a b => some (0, 1, put d 14 + put a 8 + put b 2)
  | .and d a b => some (0, 2, put d 14 + put a 8 + put b 2)
  | .or d a b => some (0, 3, put d 14 + put a 8 + put b 2)
  | .xor d a b => some (0, 4, put d 14 + put a 8 + put b 2)
  | .shl d a b => some (0, 5, put d 14 + put a 8 + put b 2)
  | .shr d a b => some (0, 6, put d 14 + put a 8 + put b 2)
  | .sha d a b => some (0, 7, put d 14 + put a 8 + put b 2)
  | .mul d a b => some (0, 8, put d 14 + put a 8 + put b 2)
  | .mulh d a b s => some (0, 9, put d 14 + put a 8 + put b 2 + put s 0)
  | .div d a b s => some (0, 10, put d 14 + put a 8 + put b 2 + put s 0)
  | .rem d a b s => some (0, 11, put d 14 + put a 8 + put b 2 + put s 0)
  | .min d a b s => some (0, 12, put d 14 + put a 8 + put b 2 + put s 0)
  | .max d a b s => some (0, 13, put d 14 + put a 8 + put b 2 + put s 0)
  | .clz d a => some (0, 14, put d 14 + put a 8)
  | .popc d a => some (0, 15, put d 14 + put a 8)
  | .addi d a imm => some (0, 16, put d 14 + put a 8 + put imm 0)
  | .andi d a imm => some (0, 17, put d 14 + put a 8 + put imm 0)
  | .ori d a imm => some (0, 18, put d 14 + put a 8 + put imm 0)
  | .xori d a imm => some (0, 19, put d 14 + put a 8 + put imm 0)
  | .shli d a imm => some (0, 20, put d 14 + put a 8 + put imm 0)
  | .shri d a imm => some (0, 21, put d 14 + put a 8 + put imm 0)
  | .shai d a imm => some (0, 22, put d 14 + put a 8 + put imm 0)
  | .li d imm => some (0, 23, put d 14 + put imm 0)
  | .lih d imm => some (0, 24, put d 14 + put imm 0)
  | .bfx d a b => some (0, 25, put d 14 + put a 8 + put b 2)
  | .bfi d a b => some (0, 26, put d 14 + put a 8 + put b 2)
  | .addsh d a b s => some (0, 27, put d 14 + put a 8 + put b 2 + put s 0)
  | .cmpeq p a b => some (0, 28, put p 14 + put a 8 + put b 2)
  | .cmpne p a b => some (0, 29, put p 14 + put a 8 + put b 2)
  | .cmplt p a b s => some (0, 30, put p 14 + put a 8 + put b 2 + put s 0)
  | .cmple p a b s => some (0, 31, put p 14 + put a 8 + put b 2 + put s 0)
  | .widf d imm => some (0, 32, put d 14 + put imm 0)
  | .movs d imm => some (0, 33, put d 14 + put imm 0)
  | .movsw g imm => some (0, 34, put g 14 + put imm 0)
  | .sld d a cls wd sx => some (0, 35, put d 14 + put a 8 + put cls 4 + put wd 2 + put sx 1)
  | .sst d a cls wd => some (0, 36, put d 14 + put a 8 + put cls 4 + put wd 2)
  | .fslot f a imm => some (0, 37, put f 14 + put a 8 + put imm 0)
  | .shld h a imm => some (0, 38, put h 14 + put a 8 + put imm 0)
  | .shst h a imm => some (0, 39, put h 14 + put a 8 + put imm 0)
  | .shset h a imm => some (0, 40, put h 14 + put a 8 + put imm 0)
  | .shget d h imm => some (0, 41, put d 14 + put h 8 + put imm 0)
  | .bndset n a g s => some (0, 42, put n 14 + put a 8 + put g 2 + put s 0)
  | .pand d a b s => some (0, 43, put d 14 + put a 8 + put b 2 + put s 0)
  | .por d a b s => some (0, 44, put d 14 + put a 8 + put b 2 + put s 0)
  | .pxor d a b s => some (0, 45, put d 14 + put a 8 + put b 2 + put s 0)
  | .psetn p a imm => some (0, 46, put p 14 + put a 8 + put imm 0)
  | .pcnt d p => some (0, 47, put d 14 + put p 8)
  | .pmovg d p => some (0, 48, put d 14 + put p 8)
  | .pmovp p a => some (0, 49, put p 14 + put a 8)
  | .pbr t o => some (0, 50, put t 17 + put o 0)
  | .pbrg t a imm => some (0, 51, put t 14 + put a 8 + put imm 0)
  | .br p t cond => some (0, 52, put p 14 + put t 11 + put cond 9)
  | .call d t => some (0, 53, put d 14 + put t 8)
  | .tmov d t s => some (0, 54, put d 14 + put t 8 + put s 0)
  | .exit code => some (0, 55, put code 0)
  | .vadd d a b fs m => some (1, 0, put d 15 + put a 10 + put b 5 + put fs 2 + put m 0)
  | .vsub d a b fs m => some (1, 1, put d 15 + put a 10 + put b 5 + put fs 2 + put m 0)
  | .vmul d a b fs m => some (1, 2, put d 15 + put a 10 + put b 5 + put fs 2 + put m 0)
  | .vfma d a b fs m => some (1, 3, put d 15 + put a 10 + put b 5 + put fs 2 + put m 0)
  | .vfms d a b fs m => some (1, 4, put d 15 + put a 10 + put b 5 + put fs 2 + put m 0)
  | .vfnma d a b fs m => some (1, 5, put d 15 + put a 10 + put b 5 + put fs 2 + put m 0)
  | .vmin d a b fs m => some (1, 6, put d 15 + put a 10 + put b 5 + put fs 2 + put m 0)
  | .vmax d a b fs m => some (1, 7, put d 15 + put a 10 + put b 5 + put fs 2 + put m 0)
  | .vdiv d a b fs m => some (1, 8, put d 15 + put a 10 + put b 5 + put fs 2 + put m 0)
  | .vsqrt d a fs => some (1, 9, put d 15 + put a 10 + put fs 2)
  | .vrec d a fs => some (1, 10, put d 15 + put a 10 + put fs 2)
  | .vrsq d a fs => some (1, 11, put d 15 + put a 10 + put fs 2)
  | .vexp2 d a fs => some (1, 12, put d 15 + put a 10 + put fs 2)
  | .vlog2 d a fs => some (1, 13, put d 15 + put a 10 + put fs 2)
  | .vabs d a fs => some (1, 14, put d 15 + put a 10 + put fs 2)
  | .vneg d a fs => some (1, 15, put d 15 + put a 10 + put fs 2)
  | .vcvt d a fsrc fs => some (1, 16, put d 15 + put a 10 + put fsrc 5 + put fs 2)
  | .vand d a b m => some (1, 17, put d 15 + put a 10 + put b 5 + put m 0)
  | .vor d a b m => some (1, 18, put d 15 + put a 10 + put b 5 + put m 0)
  | .vxor d a b m => some (1, 19, put d 15 + put a 10 + put b 5 + put m 0)
  | .vshl d a b fs m => some (1, 20, put d 15 + put a 10 + put b 5 + put fs 2 + put m 0)
  | .vshr d a b fs m => some (1, 21, put d 15 + put a 10 + put b 5 + put fs 2 + put m 0)
  | .vsha d a b fs m => some (1, 22, put d 15 + put a 10 + put b 5 + put fs 2 + put m 0)
  | .vcmpeq p a b fs => some (1, 23, put p 14 + put a 9 + put b 4 + put fs 1)
  | .vcmpne p a b fs => some (1, 24, put p 14 + put a 9 + put b 4 + put fs 1)
  | .vcmplt p a b fs => some (1, 25, put p 14 + put a 9 + put b 4 + put fs 1)
  | .vcmple p a b fs => some (1, 26, put p 14 + put a 9 + put b 4 + put fs 1)
  | .vcmpun p a b fs => some (1, 27, put p 14 + put a 9 + put b 4 + put fs 1)
  | .vsel d a b pn => some (1, 28, put d 15 + put a 10 + put b 5 + put pn 0)
  | .vpred p => some (1, 29, put p 14)
  | .vbcast d g fs m => some (1, 30, put d 15 + put g 9 + put fs 2 + put m 0)
  | .vlane va g nh nl => some (1, 31, put va 15 + put g 9 + put nh 5 + put nl 0)
  | .viota d fs m => some (1, 32, put d 15 + put fs 2 + put m 0)
  | .vperm d a b m => some (1, 33, put d 15 + put a 10 + put b 5 + put m 0)
  | .vrot d a k up hi => some (1, 34, put d 15 + put a 10 + put k 5 + put up 1 + put hi 0)
  | .vredsum d a fs m => some (1, 35, put d 15 + put a 10 + put fs 2 + put m 0)
  | .vredmax d a fs m => some (1, 36, put d 15 + put a 10 + put fs 2 + put m 0)
  | .vredmin d a fs m => some (1, 37, put d 15 + put a 10 + put fs 2 + put m 0)
  | .vscan d a fs m => some (1, 38, put d 15 + put a 10 + put fs 2 + put m 0)
  | .vld d g cls fs => some (1, 39, put d 15 + put g 9 + put cls 5 + put fs 2)
  | .vst v g cls fs => some (1, 40, put v 15 + put g 9 + put cls 5 + put fs 2)
  | .vlds d h g fs => some (1, 41, put d 15 + put h 10 + put g 5 + put fs 2)
  | .vsts v h g fs => some (1, 42, put v 15 + put h 10 + put g 5 + put fs 2)
  | .vlda d g cls fs => some (1, 43, put d 15 + put g 9 + put cls 5 + put fs 2)
  | .vsta v g cls fs => some (1, 44, put v 15 + put g 9 + put cls 5 + put fs 2)
  | .vrnd d a g m => some (1, 45, put d 15 + put a 10 + put g 5 + put m 0)
  | .vbnd d a b fs => some (1, 46, put d 15 + put a 10 + put b 5 + put fs 2)
  | .vscl d a b fs m => some (1, 47, put d 15 + put a 10 + put b 5 + put fs 2 + put m 0)
  | .vclass d a fs => some (1, 48, put d 15 + put a 10 + put fs 2)
  | .mma shc sha w nega negb noacc => some (2, 0, put shc 15 + put sha 10 + put w 8 + put nega 7 + put negb 6 + put noacc 5)
  | .mmas shc sha w nega negb noacc => some (2, 1, put shc 15 + put sha 10 + put w 8 + put nega 7 + put negb 6 + put noacc 5)
  | .mldb shs w bc trn cls => some (2, 2, put shs 15 + put w 13 + put bc 12 + put trn 11 + put cls 7)
  | .mldbs shs w bc trn cls => some (2, 3, put shs 15 + put w 13 + put bc 12 + put trn 11 + put cls 7)
  | .mzero shc => some (2, 4, put shc 15)
  | .mout shc shd => some (2, 5, put shc 15 + put shd 10)
  | .mscale shc shs => some (2, 6, put shc 15 + put shs 10)
  | .maddt shc shs => some (2, 7, put shc 15 + put shs 10)
  | .mdrain => some (2, 8, 0)
  | .mslotinv w => some (2, 9, put w 13)
  | .cpy shs shd gc cls => some (3, 0, put shs 15 + put shd 10 + put gc 4 + put cls 0)
  | .cpym shs shd gc cls _ => some (3, 1, put shs 15 + put shd 10 + put gc 4 + put cls 0)
  | .cpyv shs shd gc cls => some (3, 2, put shs 15 + put shd 10 + put gc 4 + put cls 0)
  | .lnset gstr gcnt lvl => some (3, 3, put gstr 14 + put gcnt 8 + put lvl 0)
  | .lnrun shs shd gc cls => some (3, 4, put shs 15 + put shd 10 + put gc 4 + put cls 0)
  | .lnclr => some (3, 5, 0)
  | .mcst shs shd gc cls => some (3, 6, put shs 15 + put shd 10 + put gc 4 + put cls 0)
  | .nfill shs shd gc cls => some (3, 7, put shs 15 + put shd 10 + put gc 4 + put cls 0)
  | .ncopy shs shd gc cls => some (3, 8, put shs 15 + put shd 10 + put gc 4 + put cls 0)
  | .ncmp shs shd gc cls => some (3, 9, put shs 15 + put shd 10 + put gc 4 + put cls 0)
  | .nred shs shd gc cls => some (3, 10, put shs 15 + put shd 10 + put gc 4 + put cls 0)
  | .cinit shs shd gc cls => some (3, 11, put shs 15 + put shd 10 + put gc 4 + put cls 0)
  | .gath ga cls => some (4, 0, put ga 8 + put cls 4)
  | .gbag ga cls => some (4, 1, put ga 8 + put cls 4)
  | .gscat ga cls => some (4, 2, put ga 8 + put cls 4)
  | .gsadd ga cls => some (4, 3, put ga 8 + put cls 4)
  | .aadd d a cls wd => some (4, 4, put d 14 + put a 8 + put cls 4 + put wd 2)
  | .aand d a cls wd => some (4, 5, put d 14 + put a 8 + put cls 4 + put wd 2)
  | .aor d a cls wd => some (4, 6, put d 14 + put a 8 + put cls 4 + put wd 2)
  | .axor d a cls wd => some (4, 7, put d 14 + put a 8 + put cls 4 + put wd 2)
  | .amin d a cls wd sx => some (4, 8, put d 14 + put a 8 + put cls 4 + put wd 2 + put sx 1)
  | .amax d a cls wd sx => some (4, 9, put d 14 + put a 8 + put cls 4 + put wd 2 + put sx 1)
  | .afadd d a cls wd => some (4, 10, put d 14 + put a 8 + put cls 4 + put wd 2)
  | .aswap d a cls wd => some (4, 11, put d 14 + put a 8 + put cls 4 + put wd 2)
  | .acas d a cls wd => some (4, 12, put d 14 + put a 8 + put cls 4 + put wd 2)
  | .qpush d q cls => some (4, 13, put d 14 + put q 8 + put cls 4 + 12)
  | .qpop d q cls => some (4, 14, put d 14 + put q 8 + put cls 4 + 12)
  | .swinit d a cls => some (5, 0, put d 14 + put a 8 + put cls 4)
  | .arrive d a cls => some (5, 1, put d 14 + put a 8 + put cls 4)
  | .waitg d a imm => some (5, 2, put d 14 + put a 8 + put imm 0)
  | .waitm d a imm => some (5, 3, put d 14 + put a 8 + put imm 0)
  | .testg p a imm => some (5, 4, put p 14 + put a 8 + put imm 0)
  | .testm p a imm => some (5, 5, put p 14 + put a 8 + put imm 0)
  | .align d a imm => some (5, 6, put d 14 + put a 8 + put imm 0)
  | .fence mask kind scope => some (5, 7, put mask 4 + put kind 2 + put scope 0)
  | .trap code => some (5, 8, put code 0)
  | .rett => some (5, 9, 0)
  | .ftw v a imm => some (5, 10, put v 14 + put a 8 + put imm 0)
  | .ftr d a imm => some (5, 11, put d 14 + put a 8 + put imm 0)
  | .bfmt v a imm => some (5, 12, put v 14 + put a 8 + put imm 0)
  | .flowreq d a b => some (5, 13, put d 14 + put a 8 + put b 2)
  | .event gs code => some (5, 14, put gs 14 + put code 0)
  | .wpset n a b => some (5, 15, put n 14 + put a 8 + put b 2)
  | .icinv m => some (5, 16, put m 0)
  | .waitt d a imm => some (5, 17, put d 14 + put a 8 + put imm 0)
  | .fuserd d a imm => some (5, 18, put d 14 + put a 8 + put imm 0)
  | .keywipe d imm => some (5, 19, put d 14 + put imm 0)
  | .keyld d a b => some (5, 20, put d 14 + put a 8 + put b 2)
  | .dbgunlk d a b => some (5, 21, put d 14 + put a 8 + put b 2)
  | .measure a b => some (5, 22, put a 8 + put b 2)
  | .attest a b => some (5, 23, put a 8 + put b 2)
  | .yield => some (5, 24, 0)
  | .lat imm => some (6, 0, put imm 0)
  | .lsend ad an rel inc => some (6, 1, put ad 14 + put an 8 + put rel 7 + put inc 6)
  | .lrecv ad an inc => some (6, 2, put ad 14 + put an 8 + put inc 6)
  | .lfwd an port => some (6, 3, put an 8 + put port 0)
  | .lrfwd ad an inc port => some (6, 4, put ad 14 + put an 8 + put inc 6 + put port 0)
  | .lradd ad an inc fc => some (6, 5, put ad 14 + put an 8 + put inc 6 + put fc 0)
  | .lsig ad an dir => some (6, 6, put ad 14 + put an 8 + put dir 0)
  | .lguard imm => some (6, 7, put imm 0)
  | .lloop ad imm => some (6, 8, put ad 14 + put imm 0)
  | .lend => some (6, 9, 0)
  | .lchk ad imm => some (6, 10, put ad 14 + put imm 0)
  | .lhalt code => some (6, 11, put code 0)
  | .lset ad imm => some (6, 12, put ad 14 + put imm 0)
  | .ladd ad aa imm => some (6, 13, put ad 14 + put aa 8 + put imm 0)
  | .ximm tgt pay => some (7, 0, put tgt 23 + put pay 0)
  | .xidle tgt pay => some (7, 1, put tgt 23 + put pay 0)
  | .xmod tgt pay => some (7, 2, put tgt 23 + put pay 0)
  | .extest _ => none
  | .samplePreload _ => none
  | .idcode => none
  | .dbgaddr _ => none
  | .dbgdataRead => none
  | .dbgdataWrite _ => none
  | .dbgstat => none
  | .bypass => none
  | .doorbell _ _ _ => none
  | .hwqPoll _ => none
  | .launchRecord _ => none
  | .launchLoad _ => none
  | .graphStart _ => none
  | .nodeLaunch _ => none
  | .nodeCopy _ => none
  | .nodeCond _ => none
  | .nodeLoop _ => none
  | .nodeWait _ => none
  | .waitNodeExpiry _ => none
  | .nodeSignal _ => none
  | .nodeEnd _ => none
  | .taskBind _ => none
  | .slotActivate _ => none
  | .taskRetire _ _ => none
  | .launchComplete _ => none
  | .writeCtxcfg _ _ _ => none
  | .acquireLease _ _ _ => none
  | .releaseLease _ _ => none
  | .preEmptOrRestore _ _ _ => none
  | .frameWrite _ => none
  | .restore _ => none
  | .readViolationLog _ _ _ => none
  | .advanceLifecycle _ _ => none
  | .tdispLock _ _ => none
  | .tdispStart _ _ => none
  | .tdispStop _ _ => none
  | .registerWrite _ _ _ => none
  | .atsCompletion _ _ _ => none
  | .priResponse _ _ _ => none
  | .atsInvalidation _ _ _ _ => none
  | .invalidationCompletion _ _ _ _ => none
  | .cxlMemRead _ _ => none
  | .cxlMemWrite _ _ _ _ => none
  | .hostLinkDown _ => none
  | .functionLevelReset _ => none
  | .getVersion => none
  | .getCapabilities => none
  | .negotiateAlgorithms => none
  | .getDigests => none
  | .getCertificate _ _ _ => none
  | .challenge _ _ => none
  | .getMeasurements _ _ => none
  | .keyExchange _ _ => none
  | .finish _ => none
  | .endSession => none
  | .keyProg _ _ _ => none
  | .kSetGo _ _ => none
  | .coldReset => none
  | .coolingSample _ _ _ => none
  | .zoneClockStop _ => none
  | .purgeEnd _ => none
  | .pulsesEnd _ => none
  | .rePrimeEnd _ => none
  | .verifyEnd _ => none
  | .heldLanding _ => none
  | .prime _ => none
  | .primeVerify _ => none
  | .close _ => none
  | .clearFailed _ => none
  | .forceEvacuation _ => none
  | .flowreqDecision _ _ => none
  | .grantStart _ => none
  | .grantEnd _ => none
  | .arm _ => none
  | .debugStop => none
  | .resume _ => none
  | .dbgctlClose => none
  | .bufferEnable _ _ => none
  | .recordWrite _ => none
  | .iswinArm _ => none
  | .issueBlock => none
  | .counterSample => none
  | .monitorPeriod _ => none
  | .softError _ _ => none
  | .uncorrectableError _ _ => none
  | .patrolScrub _ _ => none
  | .lockstepMismatch => none
  | .cpRestart => none
  | .linkTraining _ _ _ => none
  | .timebaseFlit _ _ _ _ => none
  | .guardFlit _ _ => none
  | .dataFlit _ _ => none
  | .signalFlit _ _ => none
  | .noticeFlit _ _ => none
  | .mgmtFlit _ _ => none
  | .lossOfLaneLock _ => none
  | .bufferLimit _ => none
  | .spliceStop => none
  | .spliceResume => none
  | .guardGap _ => none
  | .automaticGuard _ => none
  | .programStart _ => none
  | .programDeadline _ => none
  | .handlerEntry _ _ => none
  | .handlerDeadline _ => none
  | .waitDeadline _ _ => none
  | .weaveRelease _ => none
  | .waitSatisfied _ _ => none
  | .testReturn _ _ => none
  | .alignResume _ _ => none
  | .fenceComplete _ _ => none
  | .waittResume _ _ => none
  | .securityBlockReply => none
  | .chunkComplete _ _ => none
  | .arrival _ => none
  | .carriedWordIssue _ _ => none
  | .ticketedUpdate _ _ => none
  | .queueStep _ _ => none
  | .ftwPropagation _ _ => none
  | .unassignedPattern _ => none
  | .idleFlit _ _ => none
  | .dieToDieBeat _ _ => none
  | .tdispError _ => none
  | .bankAtomic _ _ => none
  | .otherCommandCode _ _ => none
  | .unsupportedRequest _ => none

/-- The words of an instruction with the given idle count. L words and prefixes carry none; CPYM is
followed by its carried word (R70); an event has no words. -/
def encode (idle : BitVec 3) (i : Instr) : List Half :=
  match encodeParts i with
  | none => []
  | some (e, op, payload) =>
    let w := mkWord e (if e < 6 then idle.toNat else 0) op payload
    match i with
    | .cpym _ _ _ _ carried => [w, carried]
    | _ => [w]

end Sys2Proof
end

