-- ==== Sys2Proof/Machine/Types.lean ====
section
/-!
DEFINITION. The pieces of state of one core: faults, prefixes and delivered words, task registers,
landings, freezes, engine operations, matrix operations (01, 06, 07, 08, 11). Plain data throughout.
-/
namespace Sys2Proof.Machine

/-- The fault codes of Table 11.1 (R334). -/
inductive FaultCode where
  | illegalOpcode | reservedField | engineMisplaced | formatIllegal | shapeMismatch | shapeRange
  | windowViolation | pageFault | alignFault | waitDeadline | boundTrap | poison | privilege
  | gatherRange | softError | watchpoint | powerLimit | thermal | zoneDry | linkFailure | slotEmpty
  | trapInsn | launchExceeds | xprefix | flowDenied
  deriving DecidableEq, Repr

/-- The latched prefixes of one target engine (R57 to R61): XIMM payloads in fetch order, an XIDLE
payload, an XMOD payload. -/
structure Pfx where
  ximm  : List (BitVec 20) := []
  xidle : Option (BitVec 20) := none
  xmod  : Option (BitVec 20) := none
  deriving DecidableEq, Repr

/-- One fault on its way to a task: its code, the address of HADDR, the word HPC and HWORD name, the
E field, whether an engine operation raised it (R335, R339), and the operation's table entry. -/
structure Raised where
  code  : FaultCode
  addr  : Word := 0
  idx   : WordIdx := 0
  word  : Half := 0
  async : Bool := false
  entry : Nat := 0
  /-- stream number and prefixes of the word (R58, R336), and the fork number of the operation (R343) -/
  seq   : Nat := 0
  pfx   : Pfx := {}
  fork  : Nat := 0
  /-- pod tick on which it arose (R360) -/
  tick  : Nat := 0
  /-- raised at a landing: the word has completed (R342, R499) -/
  landed : Bool := false
  /-- raised by a word that never issues: it is fetched again (R62) -/
  unissued : Bool := false
  deriving DecidableEq, Repr

/-- A word in a queue: its index, stream number, delivery cycle, prefixes, and for CPYM the carried
word (R27, R58, R70). `again` marks a word that issues at the next task cycle (R41, R248); `supp` is its
suppress-once flag, which it keeps until it completes or is discarded (R267). -/
structure QWord where
  word    : Half
  idx     : WordIdx
  seq     : Nat
  dcyc    : Nat
  pfx     : Pfx := {}
  carried : Half := 0
  again   : Bool := false
  supp    : Bool := false
  deriving DecidableEq, Repr

/-- The task slot states of Table 1.2, in its order. -/
inductive SlotSt where
  | empty | bound | active | standby | blocked | frozen | retiring
  deriving DecidableEq, Repr

/-- A bound register (Table 3.15). -/
structure Bound where
  lo  : Word := 0
  hi  : Word := 0
  act : BitVec 2 := 0
  deriving DecidableEq, Repr

/-- One level of a loop nest (R223). -/
structure LnLevel where
  count : Half := 1
  sstr  : Half := 0
  dstr  : Half := 0
  deriving DecidableEq, Repr

/-- The register files of a task slot (R20, Table 1.4); `tAt` is the issue cycle of the word that
last loaded each target register (R139). -/
structure Regs where
  g   : Vector Word 64
  p   : Vector Word 48
  v   : Vector (Vector Half 64) 32
  sh  : Vector Shape256 32
  t   : Vector WordIdx 8
  tAt : Vector (Option Nat) 8
  fs  : Vector Byte 8
  b   : Vector Bound 16
  vgp : Word
  deriving DecidableEq, Repr

def Regs.init : Regs where
  g   := Vector.replicate 64 0
  p   := Vector.replicate 48 0
  v   := Vector.replicate 32 (Vector.replicate 64 0)
  sh  := Vector.replicate 32 0
  t   := Vector.replicate 8 0
  tAt := Vector.replicate 8 none
  fs  := Vector.replicate 8 1
  b   := Vector.replicate 16 {}
  vgp := BitVec.allOnes 64

/-- One masked byte of a store: address, bits, and which of the eight bits are written (a nibble
store leaves the other nibble, R173). -/
structure MByte where
  addr : Nat
  bits : Byte
  mask : Byte := 0xFF
  deriving DecidableEq, Repr

/-- Where the bits of one element stand in memory: pieces of bit address, width in bits and place in
the element's container (one piece in packed layout, one per plane in planar layout; R184, R185). -/
abbrev Pieces := List (Nat × Nat × Nat)

/-- One element of a checked store: where it goes and its container bits (R113, R176). -/
structure Elem where
  pieces : Pieces
  bits   : Nat
  deriving DecidableEq, Repr

/-- A weight slot (R188, Table 6.3). `live` lists the live copy's containers by element number 256k + n of the
physical array, unlisted ones 0; the shadow copy is what a load in flight holds (R189); `pos` gives each kept value's
position 0 to 63 of a sparse slot. -/
structure WSlot where
  loaded  : Bool := false
  fmtNo   : Byte := 0
  fmt     : Word := 0
  k       : Nat := 0
  n       : Nat := 0
  sparse  : Nat := 0
  pair    : Bool := false
  pending : Bool := false
  live    : List (Nat × Nat) := []
  pos     : List (Nat × Nat) := []
  deriving DecidableEq, Repr

/-- What lands (R32, R37). -/
inductive Effect where
  | g (r : Nat) (v : Word)
  | p (r : Nat) (v mask : Word)
  | v (r : Nat) (lanes : List Half) (mask : Word)
  | sh (r : Nat) (v mask : Shape256)
  | t (r : Nat) (v : WordIdx)
  | fs (r : Nat) (v : Byte)
  | bnd (r : Nat) (b : Bound)
  | vgp (v : Word)
  | spec (n : Nat) (v : Word)
  | flags (f : Flags)
  | store (bytes : List MByte)
  | checked (fmt : Word) (bn : Nat) (elems : List Elem)
  | vbnd (r bn : Nat) (fmt : Word) (lanes : List Half) (mask : Word)
  | lnset (level : Nat) (x : LnLevel)
  | lnclr
  | wp (n : Nat) (v : BitVec 128)
  | ftab (e : Nat) (v : Word)
  | late (r : Nat) (target : Word)
  | sfmt (b : Nat) (v : Byte)
  | wload (w : Nat) (b : WSlot)
  | wclear (w : Nat) (pair : Bool)
  deriving DecidableEq, Repr

/-- A pending landing (R37): the task cycle it lands on, its stream number, the word that made it
(its index and bits, for a fault at the landing), its ordering class for a memory access (R291). -/
structure Landing where
  cyc  : Nat
  /-- issue cycle of the word -/
  iss  : Nat
  seq  : Nat
  idx  : WordIdx
  word : Half
  cls  : Option Nat
  /-- prefixes of the word, for its return to its queue after a fault at the landing (R58, R342) -/
  pfx  : Pfx := {}
  eff  : Effect
  deriving DecidableEq, Repr

/-- Where an ALIGN stands (R256, R498): pending stores landing; its arrival on the way; waiting for
the advance from G0; advanced on tick A. -/
inductive AlignAt where
  | draining | sent | met (g0 : Nat) | advanced (g0 tick : Nat)
  deriving DecidableEq, Repr

/-- The words that hold a task frozen (R40, R248). -/
inductive Hold where
  | waitg (comp : Word) (target : Nat)
  | waitm (comp : Word) (n : Nat)
  | testg (comp : Word) (target pd : Nat)
  | testm (comp : Word) (n pd : Nat)
  | align (comp : Word) (gd : Nat) (state : AlignAt)
  | fence (mask : BitVec 16) (kind scope : Nat)
  | swinit (comp init : Word)
  | waitt (target : Nat) (gd : Nat)
  | mdrain
  | weave
  | tableFull
  | secure
  deriving DecidableEq, Repr

/-- A freeze in force (R36): the word that holds it, the tick and core cycle its issue began the freeze,
the pod tick of its deadline, whether its slot was switched out on a parked operation (R254), the tick
delay of a value still on its way (a test's read, a write, a flush), and the task cycle of its issue. -/
structure Freeze where
  q        : QWord
  hold     : Hold
  iss      : Nat := 0
  start    : Nat
  cyc0     : Nat := 0
  deadline : Option Nat
  late     : Bool := false
  delay    : Nat := 0
  deriving DecidableEq, Repr

/-- A task slot or the handler slot (R15, R20, R23, R27 to R31). -/
structure Slot where
  st      : SlotSt
  /-- launch number: the HWQ whose entry runs -/
  launch  : Option Nat
  wid     : Word
  lidx    : Nat
  /-- rank among the slots' tasks: logical index, or position in the bound trace list (R325) -/
  rank    : Nat
  ctx     : Nat
  lvl     : BitVec 2
  dmode   : Bool
  regs    : Regs
  pc      : WordIdx
  rmode   : BitVec 3
  fstat   : BitVec 5
  bstat   : BitVec 16
  tdead   : Word
  hcause  : Word
  haddr   : Word
  hpc     : WordIdx
  hword   : Half
  lnLvl   : BitVec 3
  lnErr   : Bool
  ln      : Vector LnLevel 6
  /-- TSTAT.SUPP: does the word at HPC hold its suppress-once flag (R25)? -/
  supp    : Bool
  fcode   : Byte
  wp      : Vector (BitVec 128) 4
  queues  : Vector (List QWord) 6
  /-- issue cycle of each queue's previous word + 1 (R31) -/
  qnext   : Vector Nat 6
  latch   : Vector Pfx 8
  tc      : Nat
  dnext   : Nat
  /-- a delivered BR, CALL or EXIT has not issued: nothing is delivered (R30, R71) -/
  stall   : Bool
  /-- a CPYM fetched, its carried word not (R70) -/
  half    : Option QWord
  seqNext : Nat
  landings : List Landing
  freeze  : Option Freeze
  /-- words that froze the task on the same cycle and are later in stream order -/
  behind  : List Freeze
  /-- the fault raised on the present cycle -/
  flt     : Option Raised
  /-- the pod tick and core cycle of its freeze boundary (R41) -/
  fltAt   : Nat × Nat
  /-- faults waiting for the task (R343, R499), oldest first -/
  waiting : List Raised
  exited  : Bool
  xcode   : BitVec 20
  /-- first core cycle on which the next task cycle may run -/
  startAt : Nat
  /-- first pod tick on which the next task cycle may run (R318, R256, R270) -/
  startTick : Nat
  /-- handler slot: the slot it serves (R15), and the fault it was entered for -/
  hserve  : Nat
  hfault  : Option Raised
  /-- handler slot: pod tick on which its first word issued (R344) -/
  hstart  : Option Nat
  /-- ready to run again when STANDBY or BLOCKED (R325, R353) -/
  ready   : Bool
  /-- handler slot: issue cycle of a RETT that waits for the handler's operations (R260) -/
  leaving : Option Nat
  /-- a YIELD has issued on the present cycle (R272) -/
  yielding : Bool
  /-- stream numbers of the words that have raised BOUND_TRAP, which each does once (R114, R206) -/
  trapSeqs : List Nat
  /-- PCIe destinations that writes of the task's operations to SPACE 4 have reached since its last release at system scope: attachment,
  and 0 for its host port or a peer device's number + 1 (R258) -/
  flushTo : List (Nat × Nat)
  /-- writes of engine operations that a release which the task has acquired makes visible to it: core, fork number, and the number
  of writes of the core's operations up to which it is so (R294, R295) -/
  knows  : List (Nat × Nat × Nat)
  /-- ALIGNs that are to issue again and have made their arrival: stream number, what they waited for (R50, R248, R256) -/
  arrived : List (Nat × Hold)
  deriving DecidableEq, Repr

def Slot.init : Slot where
  st := .empty
  launch := none
  wid := 0
  lidx := 0
  rank := 0
  ctx := 0
  lvl := 0
  dmode := false
  regs := Regs.init
  pc := 0
  rmode := 0
  fstat := 0
  bstat := 0
  tdead := 0
  hcause := 0
  haddr := 0
  hpc := 0
  hword := 0
  lnLvl := 0
  lnErr := false
  ln := Vector.replicate 6 {}
  supp := false
  fcode := 0
  wp := Vector.replicate 4 0
  queues := Vector.replicate 6 []
  qnext := Vector.replicate 6 0
  latch := Vector.replicate 8 {}
  tc := 0
  dnext := 0
  stall := false
  half := none
  seqNext := 0
  landings := []
  freeze := none
  behind := []
  flt := none
  fltAt := (0, 0)
  waiting := []
  exited := false
  xcode := 0
  startAt := 0
  startTick := 0
  hserve := 0
  hfault := none
  hstart := none
  ready := false
  leaving := none
  yielding := false
  trapSeqs := []
  flushTo := []
  knows := []
  arrived := []

/-- The park states of Table 11.7 (R351). -/
inductive PState where
  | run | xlate | parked | stopped | frozen | done
  deriving DecidableEq, Repr

/-- The kinds of engine operation (R42, R211, R246). -/
inductive OpKind where
  | cpy | cpym | cpyv | lnrun | mcst | nfill | ncopy | ncmp | nred | cinit
  | gath | gbag | gscat | gsadd
  | aadd | aand | aor | axor | amin | amax | afadd | aswap | acas
  | qpush | qpop | arrive | ftw | flowreq
  deriving DecidableEq, Repr

/-- What CPYM captures of its carried word (R221): the word, its shapes and valid counts. -/
structure Carried where
  word : Half
  csh  : Shape256
  ash  : Shape256
  cv   : Nat
  av   : Nat
  /-- the carried word has issued; its last row lands on this core cycle -/
  lands : Option Nat := none
  deriving DecidableEq, Repr

/-- What a byte of a core's memory, by its package address, held before a write of an unjoined operation; the place of that
write among those of its core, which bytes of one access share (R134, R288, R289). -/
structure Old where
  key   : Nat
  byte  : Byte
  stamp : Nat
  deriving DecidableEq, Repr

/-- An engine operation in the engine table (R42 to R46, R352). -/
structure Op where
  entry  : Nat
  /-- fork number: the order of forking on the core -/
  fork   : Nat
  kind   : OpKind
  slot   : Nat
  launch : Option Nat
  lidx   : Nat
  ctx    : Nat
  word   : Half
  wpc    : WordIdx
  seq    : Nat
  /-- task cycle of issue -/
  iss    : Nat := 0
  cls    : Nat
  mode   : Rounding
  xpay   : BitVec 20 := 0
  comp   : Word := 0
  hasComp : Bool := false
  sh1    : Shape256 := 0
  sh2    : Shape256 := 0
  sh3    : Shape256 := 0
  v1     : Nat := 0
  v2     : Nat := 0
  v3     : Nat := 0
  /-- latched entries: number and contents, of source, destination and second source -/
  f1     : Nat × Word := (0, 0)
  f2     : Nat × Word := (0, 0)
  f3     : Nat × Word := (0, 0)
  grec   : BitVec 512 := 0
  ln     : List LnLevel := []
  /-- captured register values: an operand, a second operand, an address, a return address -/
  x1     : Word := 0
  x2     : Word := 0
  addr   : Word := 0
  ret    : Word := 0
  width  : Nat := 0
  sext   : Bool := false
  dmode  : Bool := false
  /-- source containers taken at issue or fork (MCST, a weight slot) by byte offset -/
  taken  : List (Nat × Byte) := []
  carried : Option Carried := none
  resume : Nat := 0
  wps    : List (BitVec 128) := []
  supp   : Bool := false
  pst    : PState := .run
  flags  : Flags := 0
  bstat  : BitVec 16 := 0
  trap   : Option Word := none
  deadline : Option Nat := none
  delay  : Nat := 0
  /-- pod tick on which the operation acts (MCST landing, R227) -/
  atTick : Option Nat := none
  /-- translation requests answered Success for the present chunk (R349), the address a translation is asked for, and the one last
  refused (Table 11.9) -/
  tries  : Nat := 0
  xaddr  : Word := 0
  faddr  : Word := 0
  /-- its last completion update has been made: a join may take it (R43) -/
  finished : Bool := false
  /-- effective rows that have contributed in the present domain (R235) -/
  seen   : List Nat := []
  /-- accumulator tags at the fork, before and after the fork set its destination's (R93) -/
  tags1  : BitVec 1024 := 0
  tags2  : BitVec 1024 := 0
  /-- do its source and destination ranges meet (R219); what the bytes it has written held before, newest write first,
  where its own reads or its task's loads before the join may meet them (R134, R177, R219) -/
  overlap : Bool := false
  olds   : List Old := []
  /-- bound register captured by CPYV (R220) -/
  bnd    : Bound := {}
  bn     : Nat := 0
  /-- the access the refused translation is for, and whether its Page Request has gone out (R349) -/
  needR  : Bool := false
  needW  : Bool := false
  asked  : Bool := false
  /-- the group index of its Page Request (R349) -/
  group  : Nat := 0
  /-- pages translated for the present step, with the access permitted (R348) -/
  xl     : List (Nat × Bool × Bool) := []
  deriving DecidableEq, Repr

/-- A row of an operand or accumulator read by a matrix operation: row number and containers. -/
abbrev RowRead := Nat × List Nat

/-- The kinds of matrix-unit operation (R191). -/
inductive MatKind where
  | mma | mldb | mzero | mscale | maddt | mout | slotinv
  deriving DecidableEq, Repr

/-- A matrix operation in flight (R38, R199): everything captured at issue, the rows read since. -/
structure MatOp where
  kind   : MatKind
  slot   : Nat
  launch : Option Nat
  idx    : WordIdx
  word   : Half
  seq    : Nat
  pfx    : Pfx := {}
  /-- task cycle and core cycle of issue -/
  iss    : Nat := 0
  t0     : Nat
  /-- twice the rows consumed per cycle (R199) -/
  rate2  : Nat := 2
  /-- accumulator, A or source or destination, and metadata shapes -/
  csh    : Shape256 := 0
  ash    : Shape256 := 0
  msh    : Shape256 := 0
  cv     : Nat := 0
  av     : Nat := 0
  /-- entry of A, of the source or of the destination -/
  fa     : Nat × Word := (0, 0)
  intPath : Bool := false
  nega   : Bool := false
  negb   : Bool := false
  noacc  : Bool := false
  /-- tags of the rows at issue, row by row -/
  tags   : List Bool := []
  wslot  : Nat := 0
  b      : WSlot := {}
  trn    : Bool := false
  keep   : Nat := 0
  bn     : Option Nat := none
  /-- the bound register as it stood when the kernel was aborted, for rows that land after it (R324) -/
  bnd    : Option Bound := none
  mode   : Rounding := .rne
  rows   : List RowRead := []
  mrows  : List RowRead := []
  flags  : Flags := 0
  /-- core whose scratchpad the source rows are read from (weave loads, R197) -/
  srcCore : Nat := 0
  /-- ordering class of the leader's word in a weave load (R197) -/
  wcls   : Option Nat := none
  /-- valid count of the metadata shape (R187); of a weave load the pod ticks since its release, which time it (R197) -/
  mv     : Nat := 0
  age    : Option Nat := none
  /-- a CPYM's engine-table entry when this is its carried word -/
  forOp  : Option Nat := none
  deriving DecidableEq, Repr

/-- A translation-cache entry (Table 11.6). -/
structure TEntry where
  pasid : BitVec 20
  size  : BitVec 2
  rd    : Bool
  wr    : Bool
  host  : BitVec 2
  vpn   : BitVec 52
  ppn   : BitVec 52
  deriving DecidableEq, Repr

/-- A core (R3, R15). -/
structure Core where
  slots  : Vector Slot 4
  hslot  : Slot
  /-- number of the present core cycle -/
  cyc    : Nat
  /-- launch queue: launch number, WID, logical index, rank (R320) -/
  lq     : List (Nat × Word × Nat × Nat)
  /-- context whose state stands on the core (R464), and the launches bound here once (R92) -/
  owner  : Option Nat
  bound1 : List Nat
  sfmt   : Vector Byte 16
  /-- the core's copy of format-table entries 32 to 255, the sequence number each last took, and
  own writes not yet numbered or propagated writes held (R261, R262) -/
  ftab   : Vector Word 224
  ftseq  : Vector Nat 224
  ftheld : List (Nat × Nat × Word)
  acctag : BitVec 1024
  ws     : Vector WSlot 4
  ops    : List Op
  forkNo : Nat
  mats   : List MatOp
  /-- first core cycle after the last MMA or MMAS window (R200) -/
  mmaEnd : Nat
  tlb    : List TEntry
  dirtyS : BitVec 640
  dirtyA : BitVec 2048
  dirtyW : BitVec 4
  /-- clock stops: by the cooling controller, by a debug stop, by a thermal trip (R39) -/
  coolStop  : Bool
  debugStop : Bool
  tripStop  : Bool
  /-- multicast landings held while the core's clock is stopped (R417) -/
  held   : List (Nat × List MByte)
  throttle : BitVec 3
  /-- pod tick on which the core's clock stopped -/
  stopAt : Nat
  /-- queues that issued a word on the present tick (R433) -/
  issued : BitVec 6
  /-- format-table and bank-format writes on their way, by slot; they land on a core cycle, which no freeze holds
  (R261, R264, R297) -/
  formats : List (Nat × Landing)
  /-- writes made in the core's memory by operations not yet joined (R288) -/
  writes : Nat
  /-- a task stood frozen as the tick began and has run no task cycle since (R434) -/
  cold   : Bool
  /-- the bytes that the core's own timed stores have written on a tick, over which no multicast landing of the tick goes (R228) -/
  stored : Nat × List MByte
  deriving DecidableEq, Repr

def Core.init : Core where
  slots := Vector.replicate 4 Slot.init
  hslot := { Slot.init with lvl := 1 }
  cyc := 0
  lq := []
  owner := none
  bound1 := []
  sfmt := Vector.replicate 16 1
  ftab := Vector.replicate 224 0
  ftseq := Vector.replicate 224 0
  ftheld := []
  acctag := 0
  ws := Vector.replicate 4 {}
  ops := []
  forkNo := 0
  mats := []
  mmaEnd := 0
  tlb := []
  dirtyS := 0
  dirtyA := 0
  dirtyW := 0
  coolStop := false
  debugStop := false
  tripStop := false
  held := []
  throttle := 0
  stopAt := 0
  issued := 0
  formats := []
  writes := 0
  cold := false
  stored := (0, [])

/-- What a context frame holds of one pre-empted launch on one core (R327, R354 to R356): the slots and park records
behind the record bytes written, the shared state where the area holds it, and the launch-queue entries' owner. -/
structure SavedCore where
  launch  : Nat
  core    : Nat
  shared  : Bool
  slots   : List (Nat × Slot)
  ops     : List Op
  records : List (Nat × List Byte)
  sfmt    : Vector Byte 16
  ws      : Vector WSlot 4
  acctag  : BitVec 1024
  deriving DecidableEq, Repr

/-- A translation that the CP keeps (R474): its key, DIGEST, the granted resources and the SVAL bytes; code, entry points, format entries. -/
structure Translated where
  digest : Nat
  granted : Nat
  svals  : List Byte
  code   : List Half
  entries : List WordIdx
  fmts   : List (Nat × Word)
  deriving DecidableEq, Repr

/-- A context (R21, R446): CTXCFGk, windows, multicast windows, HCFG, format table, violation log. -/
structure Ctx where
  cfg   : BitVec 256
  win   : Vector (BitVec 128) 16
  mwin  : Vector (BitVec 128) 16
  hcfg  : Word
  ftab  : Vector Word 224
  /-- numbers given to FTWs of the context (R262) -/
  ftNo  : Nat
  vlog  : Vector (BitVec 256) 16
  vlogN : Nat
  /-- SEQ of the last frame image (R355) -/
  frameSeq : Nat
  /-- pre-empted launches in its frame -/
  saved  : List SavedCore
  /-- translations kept for the context, newest first (R474) -/
  xlats : List Translated
  deriving DecidableEq, Repr

/-- Reset values of Table 15.3: LSPAD 16, LACC 960, LSLOT 0xF, LPRIO 7, LFLOW 64, the rest 0. -/
def ctxcfgReset : BitVec 256 :=
  ((16#256) <<< 128) ||| ((960#256) <<< 133) ||| ((15#256) <<< 143) ||| ((7#256) <<< 147)
    ||| ((64#256) <<< 150)

def Ctx.init : Ctx where
  cfg := ctxcfgReset
  win := Vector.replicate 16 0
  mwin := Vector.replicate 16 0
  hcfg := 0
  ftab := Vector.replicate 224 0
  ftNo := 0
  vlog := Vector.replicate 16 0
  vlogN := 0
  frameSeq := 0
  saved := []
  xlats := []

/-- The issuing context of the word being executed (R41): core, slot (0 to 3, 4 the handler slot),
the word as it stood in its queue, and the task cycle it issues on; `held` the words of the task that stand frozen. -/
structure Who where
  core : Nat
  slot : Nat
  q    : QWord
  cyc  : Nat
  /-- link engine whose program word is executed, for L words and their prefixes (R381) -/
  link : Nat := 0
  held : List Freeze := []
  deriving DecidableEq, Repr

end Sys2Proof.Machine
end

