-- ==== Sys2Proof/Machine/Memory.lean ====
section
/-!
DEFINITION. Memory as a list of cells in one canonical form (addresses strictly rising, no zero byte listed;
an unlisted byte reads zero: assumption log 5), and the places of bits in it (R6, R184, R185). One list holds
every space of the package by package address (Table 9.1).
-/
namespace Sys2Proof.Machine

abbrev Memory := List Host.Cell

/-- The byte at an address. -/
def Memory.get : Memory → Nat → Byte
  | [], _ => 0
  | (k, b) :: t, a => if k = a then b else Memory.get t a

/-- The cells but for those at one address. -/
def Memory.drop : Memory → Nat → Memory
  | [], _ => []
  | (k, b) :: t, a => if k = a then Memory.drop t a else (k, b) :: Memory.drop t a

/-- A cell put in its place in rising order. -/
def Memory.insert : Memory → Nat → Byte → Memory
  | [], a, v => [(a, v)]
  | (k, b) :: t, a, v => if a < k then (a, v) :: (k, b) :: t else (k, b) :: Memory.insert t a v

/-- Write one byte; a zero is not listed. -/
def Memory.set (m : Memory) (a : Nat) (v : Byte) : Memory :=
  if v = 0 then m.drop a else (m.drop a).insert a v

/-- Strictly rising from a lower bound, with no zero byte. -/
def Memory.wfFrom : Nat → Memory → Bool
  | _, [] => true
  | lo, (k, b) :: t => decide (lo ≤ k) && b != 0 && Memory.wfFrom (k + 1) t

/-- The canonical form. -/
def Memory.wf (m : Memory) : Bool := Memory.wfFrom 0 m

/-- The value of bytes in little-endian order (R6). -/
def leNat : List Byte → Nat
  | [] => 0
  | b :: t => b.toNat + 256 * leNat t

/-- The n low bytes of a value in little-endian order (R6). -/
def bytesLE : Nat → Nat → List Byte
  | 0, _ => []
  | n + 1, x => BitVec.ofNat 8 x :: bytesLE n (x / 256)

def Memory.bytes (m : Memory) (a n : Nat) : List Byte := (List.range n).map fun i => m.get (a + i)

def Memory.nat (m : Memory) (a n : Nat) : Nat := leNat (m.bytes a n)

/-- Write bytes upward from an address. -/
def Memory.write : Memory → Nat → List Byte → Memory
  | m, _, [] => m
  | m, a, b :: t => Memory.write (m.set a b) (a + 1) t

/-- Write the bits a mask names, leaving the byte's others (R173). -/
def Memory.setMasked (m : Memory) (x : MByte) : Memory :=
  m.set x.addr ((m.get x.addr &&& ~~~x.mask) ||| (x.bits &&& x.mask))

def Memory.writeMasked (m : Memory) (xs : List MByte) : Memory := xs.foldl Memory.setMasked m

/-- Bits w at a bit address: a nibble, one bit, or whole bytes. -/
def Memory.bitsAt (m : Memory) (ba w : Nat) : Nat :=
  if w < 8 then (m.get (ba / 8)).toNat / 2 ^ (ba % 8) % 2 ^ w else m.nat (ba / 8) (w / 8)

/-- The container bits whose pieces are given. -/
def Memory.gather (m : Memory) (ps : Pieces) : Nat :=
  ps.foldl (fun acc (ba, w, at_) => acc + m.bitsAt ba w * 2 ^ at_) 0

/-- One piece of a store as masked bytes. -/
def scatterPiece (ba w x : Nat) : List MByte :=
  if w < 8 then
    [{ addr := ba / 8, bits := BitVec.ofNat 8 (x % 2 ^ w * 2 ^ (ba % 8)),
       mask := BitVec.ofNat 8 ((2 ^ w - 1) * 2 ^ (ba % 8)) }]
  else (bytesLE (w / 8) x).mapIdx fun i b => { addr := ba / 8 + i, bits := b }

/-- Container bits as the masked bytes of its pieces. -/
def scatter (ps : Pieces) (bits : Nat) : List MByte :=
  ps.flatMap fun (ba, w, at_) => scatterPiece ba w (bits / 2 ^ at_)

/-- The byte addresses pieces touch. -/
def piecesBytes (ps : Pieces) : List Nat :=
  ps.flatMap fun (ba, w, _) => (List.range ((w + 7) / 8)).map (ba / 8 + ·)

/-- The lowest byte address of an element. -/
def piecesLow (ps : Pieces) : Nat :=
  match piecesBytes ps with
  | [] => 0
  | a :: t => t.foldl min a

def bytesToMasked (a : Nat) (bs : List Byte) : List MByte :=
  bs.mapIdx fun i b => { addr := a + i, bits := b }

/-! ### Addresses (Table 9.1, R281) -/

def scratchSize : Nat := 0x50000
def accBase : Nat := 0x100000
def accEnd : Nat := 0x200000
def imemBase : Nat := 0x200000
def imemEnd : Nat := 0x220000
def sharedEnd : Nat := 0x100000000
def hbmBase : Nat := 0x1000000000
def hbmEnd : Nat := 0x7000000000
def aliasStart : Nat := 0x8000000000
def mgmtBase : Nat := 0xF000000000
def mgmtEnd : Nat := 0xF100000000

/-- The package address of a core-local address (Table 9.1). -/
def localAddr (core a : Nat) : Nat := aliasStart + core * 0x1000000 + a

/-- The core and core-local address an alias address names. -/
def aliasOf (a : Nat) : Option (Nat × Nat) :=
  if aliasStart ≤ a ∧ a < aliasStart + 64 * 0x1000000 then
    some ((a - aliasStart) / 0x1000000, (a - aliasStart) % 0x1000000)
  else none

/-- The package address of link program memory of engine n, 8,192 words (R381). -/
def linkProgAddr (n : Nat) : Nat := 0xF000020000 + n * 0x10000 + 0x8000

/-- Host and pool memory is keyed by virtual address and PASID (R183). -/
def hostKey (pasid : BitVec 20) (a : Nat) : Nat := pasid.toNat * 2 ^ 64 + a

end Sys2Proof.Machine
end

