-- ==== Sys2Proof/Machine/State.lean ====
section
/-!
DEFINITION. The state of one Quovan Q64 package, as plain data, and the state after reset: the cores and
contexts of Types.lean with everything outside them (09 to 15). The model's own bookkeeping fields say
so.
-/
namespace Sys2Proof.Machine

/-- The machine stops with a fault in no case: every exception of Table 11.1 is taken (R334). Nobody
raises this constructor; it stands for the interface only, and is safe. -/
inductive Fault where
  /-- raised by nobody (safe) -/
  | never
  deriving DecidableEq, Repr

/-- Why the model gives no meaning. -/
inductive Refusal where
  /-- an instruction that has no meaning yet, by its mnemonic: raised by its arm of `exec` (safe) -/
  | notModelled (mnemonic : String)
  deriving DecidableEq, Repr

/-- Where an entry in process stands (R313, Table 10.3): steps 1 to 5 are one CP action; held at step 7;
loaded and running (with the tick of its first issue); ended, its record owed. -/
inductive JobAt where
  | taken | held | running | ended
  deriving DecidableEq, Repr

/-- A COPY node that runs (R331, R458): what it copies, the bytes that have moved, NEXT, and the tick before which it does not complete. -/
structure NodeCopy where
  src  : Nat
  dst  : Nat
  len  : Nat
  pos  : Nat := 0
  next : Nat
  until_ : Nat
  deriving DecidableEq, Repr

/-- What a graph does now (R331): waits for a node's start tick; runs a LAUNCH node, whose NEXT it holds; waits in a WAIT
node since its start tick, with the PRED, COUNT, ARG and NEXT it read there; runs a COPY node. -/
inductive GraphAt where
  | starting (tick : Nat) | launching (next : Nat) | waiting (start pred count arg next : Nat) | copying (copy : NodeCopy)
  deriving DecidableEq, Repr

/-- A graph entry in process (R330). -/
structure Graph where
  node : Nat
  doing : GraphAt
  comp : Word
  deriving DecidableEq, Repr

/-- The chosen and patched code form of a launch (R314, R461 to R470). -/
structure Form where
  rev    : Nat := 0
  xlat   : Bool := false
  entry  : WordIdx := 0
  code   : List Half := []
  data   : List Byte := []
  /-- patch sites and the SVAL bytes read at step 4, for step 8 (R468, R469) -/
  sites  : List Nat := []
  svals  : List Byte := []
  fmts   : List (Nat × Word) := []
  hcfg   : Word := 0
  /-- link programs of this chip for the detour set, as the launch was loaded: engine, words -/
  links  : List (Nat × List Half) := []
  pod    : Bool := false
  /-- the bound-register image (R311) -/
  bounds : List Bound := []
  deriving DecidableEq, Repr

/-- An HWQ entry in process (R309 to R332), named by its HWQ number; `rec` is its launch record, of the
LAUNCH node's when a graph runs one. -/
structure Job where
  n       : Nat
  ctx     : Nat
  record  : BitVec 2048
  prio    : Nat
  vis     : Nat
  /-- the visibility tick of its HWQ entry -/
  hqAt    : Nat := 0
  stage   : JobAt
  graph   : Option Graph := none
  form    : Form := {}
  /-- the launch holds a reservation of flow and power (R316), and the envelope it was admitted with (R424) -/
  admitted : Bool := false
  limit    : Nat := 0
  /-- CMASK, or the context's core mask where it is 0 (Table 10.2); the usable cores of it (R422) -/
  mask    : Word := 0
  cores   : List Nat := []
  /-- dynamic placement: next logical index to give out; discarded tasks to run again (R421) -/
  next    : Nat := 0
  again   : List Nat := []
  /-- tasks given out to run again, which bind without their groups (R421) -/
  rerun   : List Nat := []
  /-- it has been loaded (R323); of a bound trace that breaks co-residency, the tick since which no task of it can be bound
  (R322) -/
  ran     : Bool := false
  /-- a pod launch whose ready notice has gone out (R380) -/
  announced : Bool := false
  stuck   : Option Nat := none
  /-- static placement: tasks given to each core so far -/
  given   : List (Nat × Nat) := []
  /-- bound trace: WIDs not yet queued, per core; recorded trace: placements made, per core -/
  lists   : List (Nat × List Word) := []
  made    : List (Nat × List Word) := []
  /-- retired tasks: all below `low`, and those of `high` (R238) -/
  low     : Nat := 0
  high    : List Nat := []
  nz      : Nat := 0
  xcode   : BitVec 20 := 0
  xlidx   : Option Nat := none
  xwid    : Word := 0
  /-- status of an ended entry, and its tick -/
  status  : Nat := 0
  etick   : Nat := 0
  /-- first tick of issue in D-mode (R318, R380) -/
  startTick : Nat := 0
  /-- tasks with a ticketed update or queue step applied (R421) -/
  ticketed : List Nat := []
  /-- stopped for a splice, with nothing saved (R402) -/
  saved   : Bool := false
  /-- cores on which a request to pre-empt is in progress, cores whose state is in the frame (R326, R327), and whether a
  restore is requested -/
  preq    : List Nat := []
  gone    : List Nat := []
  rreq    : Bool := false
  /-- power at the samples of the last 1,250,000 ticks, in 1/720,720 watt, newest first (R425, R426) -/
  watts   : List Nat := []
  /-- launch-queue entries returned to the dispatcher, per core (R327) -/
  back    : List (Nat × (Nat × Word × Nat × Nat)) := []
  deriving DecidableEq, Repr

/-- An update on its way through a bank ALU to a synchronisation word (R250): an arrival or not, a byte
amount, an initialisation; the first tick on which it applies; the (core, slot) of the ALIGN or SWINIT that made it. -/
structure SyncUpd where
  addr  : Nat
  init  : Option Word := none
  arr   : Bool := false
  bytes : Int := 0
  due   : Nat := 0
  src   : Option (Nat × Nat) := none
  /-- landed by a link engine (R388); a core of the die it comes from (R420); the slot and class of the operation whose completion
  update it is (R291) -/
  link  : Bool := false
  core  : Nat := 0
  op    : Option (Nat × Nat) := none
  /-- the fault that the operation raises where it meets a poisoned line (R455) -/
  by_   : Option Raised := none
  deriving DecidableEq, Repr

/-- The banks (R284): of each object released, what its release made visible (R294): core, fork number, number of writes; the engine
accesses that wait for a bank, in order of arrival: core, fork number, banks; the lines that bank ALUs have updated on a tick: tick,
bank, line, bytes. -/
structure Banks where
  released : List (Nat × List (Nat × Nat × Nat)) := []
  waiting  : List (Nat × Nat × List Nat) := []
  alu      : List (Nat × Nat × Nat × Nat) := []
  deriving DecidableEq, Repr

/-- What hosts show the device of their memory: translations they have given, which stand until invalidated, so that two names of one
page are known (R219, R347); model: the writes that hosts make to their own memory, by tick: attachment, PASID, address, bytes (R301). -/
structure HostSide where
  pages  : List TEntry := []
  writes : List (Nat × Nat × BitVec 20 × Nat × List Byte) := []
  deriving DecidableEq, Repr

/-- A cooling zone (R407 to R418): the fields of its table row that it holds, and its recovery. OWNER
and RESV are computed from the demands (R413). -/
structure Zone where
  minf  : Nat := 1
  maxf  : Nat := 16
  vpos  : Nat := 0
  state : Nat := 0
  att   : Nat := 0
  cause : Bool := false
  flowm : Nat := 0
  tmax  : Nat := 0
  ttick : Nat := 0
  /-- the last sample met a trap condition (R416) -/
  bad   : Bool := false
  /-- its masters are clock-stopped (R417) -/
  halted : Bool := false
  /-- which phase of priming or evacuation runs, and the tick on which it ends: 0 none, 1 stop pending, 2 purge,
  3 pulses, 4 re-prime, 5 verify, 6 prime, 7 prime verify, 8 next attempt pending (R412, R418) -/
  phase : Nat := 0
  until_ : Nat := 0
  deriving DecidableEq, Repr

/-- A flow grant (R415). -/
structure Grant where
  id    : Nat
  core  : Nat
  launch : Nat
  lidx  : Nat
  units : Nat
  start : Nat
  stop  : Option Nat
  active : Bool
  deriving DecidableEq, Repr

/-- Cooling and power registers (R411, R424) and zones. -/
structure Cooling where
  zones  : Vector Zone 80
  qtot   : Nat := 0
  twarn  : Nat := 1360
  tlim   : Nat := 1520
  grants : List Grant := []
  nextId : Nat := 0
  plim   : Nat := 1200
  pnow   : Nat := 0
  ecnt   : Word := 0
  /-- consecutive samples over PLIM with every E-mode core at level 7 (R426), in samples -/
  beyond   : Nat := 0
  /-- power of the last 100 samples, newest first, for the average over 1,250,000 ticks (R424) -/
  history : List Nat := []
  /-- model: what the sensors of the zones, and the rails of the cores and of the dies' uncores, show now (R408, R425) -/
  sensors : List ZoneReading := []
  rails   : List Nat := []
  uncore  : List Nat := []
  deriving DecidableEq, Repr

/-- A trace buffer (R429, Table 14.3) and its queue of records (R430). -/
structure Buf where
  base  : BitVec 48 := 0
  size  : Nat := 0
  mode  : Bool := false
  en    : Bool := false
  stop  : Bool := false
  wptr  : Nat := 0
  wraps : Half := 0
  ovf   : Half := 0
  lost  : Half := 0
  queue : List (List Word) := []
  deriving DecidableEq, Repr

/-- A monitor (R435). -/
structure Monitor where
  w0   : Word := 0
  w1   : Word := 0
  mn   : Int := 0x7FFFFFFFFFFFFFFF
  mx   : Int := -0x8000000000000000
  cnt  : Nat := 0
  bins : Vector Nat 16 := Vector.replicate 16 0
  deriving DecidableEq, Repr

/-- Trace, counters, monitors, debug stop and debug port (14). -/
structure Debug where
  bufs   : Vector Buf 8
  trsel  : Word := 0
  isStart : Word := 0
  isCluster : Nat := 0
  isBlocks : Nat := 0
  isArm  : Bool := false
  isSamples : List Half := []
  /-- blocks of the window written -/
  isDone : Nat := 0
  ctper  : Nat := 0
  cton   : Bool := false
  ctr    : Vector Word 8
  /-- the counts of the eight counters -/
  ctval  : Vector Nat 8
  mons   : Vector Monitor 4
  stick  : Word := 0
  scope  : BitVec 2 := 0
  armed  : Bool := false
  stopped : Bool := false
  cmask  : Word := 0
  /-- reference ticks spent in the stop in force (R438) -/
  ref    : Nat := 0
  /-- reference ticks in all on which the pod tick has been held (R437) -/
  held   : Nat := 0
  /-- reference tick on which the stop in force ends -/
  resumeAt : Option Nat := none
  ir     : Byte := 0x02
  dr     : Word := 0
  dbgaddr : Word := 0
  err    : Bool := false
  bsr    : Word := 0
  open_  : Bool := false
  pscope : BitVec 4 := 0
  deriving DecidableEq, Repr

/-- A key slot's contents (R449). -/
structure Key where
  key    : BitVec 256
  hbm    : Bool
  stream : Option (Nat × Nat) := none
  deriving DecidableEq, Repr

/-- The SPDM responder (R453). -/
structure Spdm where
  versioned : Bool := false
  capable   : Bool := false
  negotiated : Bool := false
  handshake : Bool := false
  session   : Bool := false
  wrapKey   : Option (BitVec 256) := none
  exchanges : Nat := 0
  deriving DecidableEq, Repr

/-- What waits for the security block, which serves one arrival order (R273, R453): a manager word, by core and
slot, or an SPDM request. -/
inductive SecItem where
  | word (core slot : Nat)
  | spdm (i : Instr)
  deriving DecidableEq, Repr

/-- The security block (R273 to R278, R448 to R453). -/
structure Security where
  fuses  : Vector Word 12
  /-- the fuse shadow registers, loaded from the fuses at reset (R274) -/
  shadow : Vector Word 12
  keys   : Vector (Option Key) 64
  meas   : Vector (BitVec 384) 8
  nonce  : Option (BitVec 256) := none
  /-- the boot ROM and the CP firmware have made their measurements (R452); a lifecycle advance has taken the nonce (R448, R497) -/
  booted : Bool := false
  advanced : Bool := false
  hreg   : Vector (BitVec 128) 16
  /-- regions whose slot was wiped: reads poison (R451) -/
  hwiped : BitVec 16 := 0
  /-- ranges whose data stands under a wiped key, and the 512-byte granules of them written whole since (R451) -/
  stale  : List (Nat × Nat) := []
  rewritten : List Nat := []
  /-- IDE streams in the Insecure state, and streams in use (R449, R451) -/
  insecure : List Nat := []
  streams : List (Nat × Nat) := []
  spdm   : Spdm := {}
  /-- what waits for the security block, in arrival order (R273, R453) -/
  queue  : List SecItem := []
  draws  : Nat := 0
  deriving DecidableEq, Repr

/-- One open loop of a link program (R386). -/
structure LLoopEntry where
  n : Nat
  p : Word
  b0 : Word
  start : Nat
  i : Nat
  deriving DecidableEq, Repr

/-- What a timed word does at its execution tick (R388 to R392). -/
inductive LinkAct where
  | send | recv | fwd (port : Nat) | rfwd (port : Nat) | radd (fc : Nat) (mode : Rounding)
  | sigSend | sigLand | guard | chk (k : Nat) | halt (code : BitVec 20)
  deriving DecidableEq, Repr

/-- A decoded timed word (R381): its index, execution tick, count of ticks, captured address and operand. -/
structure Timed where
  act  : LinkAct
  wpc  : Nat
  tick : Nat
  n    : Nat
  ad   : Word
  an   : Word
  deriving DecidableEq, Repr

/-- What a link engine lands (R388). -/
inductive LandKind where
  | data (bytes : List Byte)
  | add (fc : Nat) (mode : Rounding) (bytes : List Byte)
  | signal (amount : Int)
  deriving DecidableEq, Repr

/-- A landing on its way (R388): its tick, address, and the index of the word that took the flit. -/
structure LinkLand where
  tick : Nat
  addr : Nat
  wpc  : Nat
  kind : LandKind
  deriving DecidableEq, Repr

/-- A link engine and its port (R364, R378, R381, R397). -/
structure Link where
  ldly  : Nat := 0
  up    : Bool := false
  run   : Bool := false
  deg   : Bool := false
  fill  : Nat := 8
  hcode : BitVec 20 := 0
  code  : Nat := 0
  cause : Nat := 0
  wpc   : Nat := 0
  ftick : Nat := 0
  lflags : Flags := 0
  /-- stopped by a fault of its own; by a violation, whose decode state stands for inspection (R399) -/
  frozen : Bool := false
  inspect : Bool := false
  /-- program: its length in words (0 when halted), origin, deadline tick, decode index, tick of the next decode -/
  len   : Nat := 0
  origin : Nat := 0
  deadline : Nat := 0
  pc    : Nat := 0
  decAt : Nat := 0
  started : Bool := false
  a     : Vector Word 8
  b     : Word := 0
  c     : Word := 0
  stack : List LLoopEntry := []
  latch : Pfx := {}
  lhor  : Nat := 0
  timed : List Timed := []
  lastExec : Nat := 0
  lands : List LinkLand := []
  /-- flits to send: first-beat tick, KIND, payload bytes -/
  sends : List (Nat × Nat × List Byte) := []
  /-- one more than the tick of the last flit taken, or found bad -/
  tookAt : Nat := 0
  /-- first tick of the last guard interval (R375) -/
  guard : Nat := 0
  /-- failed beats: rail and tick (R369); degraded rails -/
  fails : List (Nat × Nat) := []
  degRails : List Nat := []
  /-- last TIMEBASE stamp received and its arrival tick; phase error in 1/64 tick (R373); take-up or phase step of
  the present guard interval made (R376) -/
  stamp : Word := 0
  stampAt : Nat := 0
  phase : Int := 0
  taken : Bool := false
  /-- the delay measured as it trained, in 1/64 tick (R372); has the chip's tick been taken from a stamp of the port since (R371)? -/
  rho   : Nat := 0
  locked : Bool := false
  /-- management messages that wait for a tick without a scheduled flit (R380) -/
  mgmt  : List (List Byte) := []
  deriving DecidableEq, Repr

def Link.init : Link := { a := Vector.replicate 8 0 }

/-- A link engine's read or landing at a bank (R395): the bank, its tick, whether it read, and the address a land-and-add wrote. -/
structure BankUse where
  bank : Nat
  tick : Nat
  read : Bool
  add  : Option Nat
  deriving DecidableEq, Repr

/-- A NOTICE in force on the chip (R402, R404) and the tick from which it stops landing. -/
structure Pending where
  notice : Notice
  start  : Nat
  deriving DecidableEq, Repr

/-- The pod fabric (12). -/
structure Fabric where
  podcfg : BitVec 256 := 0
  eng    : Vector Link 12
  /-- recorded checkpoints: number, tick, resume node (R391, R402) -/
  ckpts  : List (Nat × Nat × Word) := []
  notices : List Pending := []
  /-- NOTICEs already forwarded: F, link, kind (R402) -/
  seen   : List (Nat × Nat × Bool) := []
  /-- stopped for a splice: R and the resume node; the last tick S stopped on, and its F -/
  splice : Option (Nat × Nat) := none
  lastS  : Nat := 0
  lastF  : Nat := 0
  /-- origin tick R of a continuation whose pod launch has not been loaded yet, and the HWQ whose graph runs it -/
  cont   : Option (Nat × Nat) := none
  /-- pod launch in force: its HWQ; chips whose ready notice has come; PST (R380) -/
  podJob : Option Nat := none
  /-- the last pod launch, its part on this chip over (R402) -/
  past   : Option Job := none
  ready  : List Nat := []
  pst    : Option Nat := none
  /-- banks of the link-engine flits of the last ticks (R395) -/
  banks  : List BankUse := []
  /-- failed die-to-die beats: die pair, rail, tick; degraded rails (R370) -/
  d2dFails : List (Nat × Nat × Nat) := []
  d2dDeg : List (Nat × Nat) := []
  deriving DecidableEq, Repr

/-- The command processor's own state (10, 15). -/
structure Cp where
  /-- HWQ registers that are not all zero, by number (R308) -/
  hwqs   : List (Nat × BitVec 256) := []
  /-- management queue registers of the four attachments (R447) -/
  mgmt   : Vector (BitVec 256) 4
  jobs   : List Job := []
  leases : Vector (BitVec 128) 64
  halted : Bool := false
  /-- tick of the mismatch being recovered, and of the one before (R457, R459) -/
  mmTick : Option Nat := none
  mmPrev : Option Nat := none
  fatal  : Bool := false
  /-- PRI stopped by a Response Failure, per attachment (R349); page requests outstanding -/
  priOff : Vector Bool 4
  /-- page requests that the host of each attachment lets the device keep outstanding (R349) -/
  priAlloc : Vector Nat 4
  pages  : Nat := 0
  /-- the Page Request Groups that stand unanswered: attachment, group index (R349) -/
  groups : List (Nat × Nat) := []
  /-- invalidations taken, not yet completed: attachment, PASID, base, length (R350) -/
  invals : List (Nat × BitVec 20 × Nat × Nat) := []
  /-- ATS stopped by a function-level reset, per attachment (R460) -/
  atsOff : Vector Bool 4
  /-- does a host port run as two ×8 links, as strapped at cold reset (R442)? -/
  twoLinks : Vector Bool 2
  /-- work the halted CP owes: violation-log entries by context, arrays of cores to be zeroed (R454, R457) -/
  owedLog : List (Nat × BitVec 256) := []
  owedZero : List (Nat × CoreArray) := []
  /-- retired lines stay poisoned (R455) -/
  retired : List Nat := []
  /-- lines that have had an uncorrectable error (R455) -/
  erred : List Nat := []
  /-- per die: count of marked lines and the last one's address (R455) -/
  errCnt : Vector Nat 4
  errAddr : Vector Nat 4
  deriving DecidableEq, Repr

/-- What the package sends out (model's own record, newest last). -/
inductive Out where
  | msix (att vec : Nat)
  | flit (port kind tick : Nat) (beats : List (BitVec 576))
  | ats (core entry : Nat) (pasid : BitVec 20) (addr : Word)
  | pri (core entry group : Nat) (pasid : BitVec 20) (addr : Word) (rd wr : Bool)
  | invalidated (att : Nat)
  | cxl (att : Nat) (data : Option (List Byte))
  | mgmt (att code status : Nat) (extra : List Byte)
  | spdm (code : Nat) (ok : Bool) (bytes : List Byte)
  | report (code unit : Nat)
  | flush (att dest : Nat)
  | tdo (bits : Word)
  deriving DecidableEq, Repr

/-- The package. -/
structure State where
  /-- pod tick (R2) -/
  tick   : Nat
  /-- model: phase of the present tick, cores whose turn in it is not over, events due now, agents still to act, stimuli by tick -/
  phase  : Nat
  turn   : Nat
  inbox  : List Instr
  todo   : List Nat
  script : List (Nat × Instr)
  /-- model: issuing context -/
  who    : Who
  /-- model: counter of free values; delays of engine operations, in ticks, to be used in order -/
  free   : Nat
  lat    : List Nat
  out    : List Out
  /-- package memory (shared memory, HBM, core-local stores through their alias, link program
  memories), and host or pool memory keyed by virtual address + 2^64 × PASID -/
  mem    : Memory
  hostMem : Memory
  /-- addresses of poisoned 64-byte lines (R455); lines of host memory returning poison (R361) -/
  poison : List Nat
  hostPoison : List Nat
  cores  : Vector Core 64
  ctxs   : Vector Ctx 64
  cp     : Cp
  sync   : List SyncUpd
  banks  : Banks
  hosts  : HostSide
  cool   : Cooling
  dbg    : Debug
  sec    : Security
  fab    : Fabric
  deriving DecidableEq, Repr

/-- The state after reset. Values the spec gives no reset for are named in assumption log 4. -/
def State.reset : State where
  tick := 0
  phase := 0
  turn := 0
  inbox := []
  todo := []
  script := []
  who := { core := 0, slot := 0, q := { word := 0, idx := 0, seq := 0, dcyc := 0 }, cyc := 0 }
  free := 0
  lat := []
  out := []
  mem := []
  hostMem := []
  poison := []
  hostPoison := []
  cores := Vector.replicate 64 Core.init
  ctxs := Vector.replicate 64 Ctx.init
  cp := { mgmt := Vector.replicate 4 0, leases := Vector.replicate 64 0,
          priOff := Vector.replicate 4 false, atsOff := Vector.replicate 4 false, twoLinks := Vector.replicate 2 true, priAlloc := Vector.replicate 4 512, errCnt := Vector.replicate 4 0,
          errAddr := Vector.replicate 4 0 }
  sync := []
  banks := {}
  hosts := {}
  cool := { zones := Vector.replicate 80 {} }
  dbg := { bufs := Vector.replicate 8 {}, ctr := Vector.replicate 8 0,
           ctval := Vector.replicate 8 0, mons := Vector.replicate 4 {} }
  sec := { fuses := Vector.replicate 12 0 |>.setIfInBounds 4 1, shadow := Vector.replicate 12 0 |>.setIfInBounds 4 1, keys := Vector.replicate 64 none,
           meas := Vector.replicate 8 0, hreg := Vector.replicate 16 0 }
  fab := { eng := Vector.replicate 12 Link.init }

end Sys2Proof.Machine
end

