-- ==== Sys2Proof/Machine/Ops.lean ====
section
/-!
DEFINITION. The named operations over cores, slots, registers and memory that every meaning uses: accessors,
prefixes and immediates (R57 to R62), grants and windows (R131, R286), watchpoints (R266), landings (R32, R37),
raising a fault, taking it and returning from it (R339 to R344), kernel abort (R324), joins (R43).
-/
namespace Sys2Proof.Machine
open Host (Outcome)

abbrev Step := Outcome State Fault Refusal

/-- What a word does: a fault, or the state it leaves. -/
abbrev Verdict := Except Raised State

/-! ### Accessors -/

def State.core (s : State) (c : Nat) : Core := s.cores[c]?.getD Core.init

def State.setCore (s : State) (c : Nat) (k : Core) : State :=
  { s with cores := s.cores.setIfInBounds c k }

def State.updCore (s : State) (c : Nat) (f : Core → Core) : State := s.setCore c (f (s.core c))

/-- Slot n of a core; number 4 is the handler slot (R15). -/
def Core.slot (k : Core) (n : Nat) : Slot :=
  if n = 4 then k.hslot else k.slots[n]?.getD Slot.init

def Core.setSlot (k : Core) (n : Nat) (x : Slot) : Core :=
  if n = 4 then { k with hslot := x } else { k with slots := k.slots.setIfInBounds n x }

def State.slot (s : State) (c n : Nat) : Slot := (s.core c).slot n

def State.setSlot (s : State) (c n : Nat) (x : Slot) : State :=
  s.setCore c ((s.core c).setSlot n x)

def State.updSlot (s : State) (c n : Nat) (f : Slot → Slot) : State := s.setSlot c n (f (s.slot c n))

/-- The slot whose word is being executed. -/
def State.cur (s : State) : Slot := s.slot s.who.core s.who.slot

def State.updCur (s : State) (f : Slot → Slot) : State := s.updSlot s.who.core s.who.slot f

def State.updMe (s : State) (f : Core → Core) : State := s.updCore s.who.core f

def State.me (s : State) : Core := s.core s.who.core

def State.ctx (s : State) (k : Nat) : Ctx := s.ctxs[k]?.getD Ctx.init

def State.updCtx (s : State) (k : Nat) (f : Ctx → Ctx) : State :=
  { s with ctxs := s.ctxs.setIfInBounds k (f (s.ctx k)) }

def State.job (s : State) (n : Nat) : Option Job := s.cp.jobs.find? (·.n == n)

/-- The zone of a core (R407). -/
def zoneOf (c : Nat) : Nat := 20 * (c / 16) + c % 16

def State.updJob (s : State) (n : Nat) (f : Job → Job) : State :=
  let jobs := s.cp.jobs.map fun j => if j.n == n then f j else j
  { s with cp := { s.cp with jobs := jobs } }

/-- Is the word being executed one of the handler slot? -/
def State.inHandler (s : State) : Bool := s.who.slot == 4

/-- The slot of the interrupted task when a handler word is executed, else the issuing slot. -/
def State.taskSlot (s : State) : Nat := if s.inHandler then s.cur.hserve else s.who.slot

/-! ### Registers (R20): g0 reads zero and p0 reads all ones; writes to them are ignored -/

def Regs.readG (r : Regs) (n : Nat) : Word := if n = 0 then 0 else r.g[n]?.getD 0

def Regs.writeG (r : Regs) (n : Nat) (v : Word) : Regs :=
  if n = 0 then r else { r with g := r.g.setIfInBounds n v }

def Regs.readP (r : Regs) (n : Nat) : Word := if n = 0 then BitVec.allOnes 64 else r.p[n]?.getD 0

def Regs.writeP (r : Regs) (n : Nat) (v mask : Word) : Regs :=
  if n = 0 then r
  else { r with p := r.p.setIfInBounds n ((r.readP n &&& ~~~mask) ||| (v &&& mask)) }

def Regs.readV (r : Regs) (n : Nat) : Vector Half 64 := r.v[n]?.getD (Vector.replicate 64 0)

/-- Lane n of a list, zero beyond it. -/
def lane (xs : List Half) (n : Nat) : Half := xs[n]?.getD 0

def Regs.writeV (r : Regs) (n : Nat) (xs : List Half) (mask : Word) : Regs :=
  let lanes := (r.readV n).mapIdx fun i old => if mask.getLsbD i then lane xs i else old
  { r with v := r.v.setIfInBounds n lanes }

def Regs.readSh (r : Regs) (n : Nat) : Shape256 := r.sh[n]?.getD 0
def Regs.readT (r : Regs) (n : Nat) : WordIdx := r.t[n]?.getD 0
def Regs.readFs (r : Regs) (n : Nat) : Nat := (r.fs[n]?.getD 0).toNat
def Regs.readB (r : Regs) (n : Nat) : Bound := r.b[n]?.getD {}

def State.g {w : Nat} (s : State) (n : BitVec w) : Word := s.cur.regs.readG n.toNat
def State.p {w : Nat} (s : State) (n : BitVec w) : Word := s.cur.regs.readP n.toNat
def State.v {w : Nat} (s : State) (n : BitVec w) : List Half := (s.cur.regs.readV n.toNat).toList
def State.sh {w : Nat} (s : State) (n : BitVec w) : Shape256 := s.cur.regs.readSh n.toNat

/-! ### Landings (R32) -/

/-- A result of the word being executed, to land L cycles after its issue. -/
def State.land (s : State) (L : Nat) (e : Effect) (cls : Option Nat := none) : State :=
  let l : Landing := { cyc := s.who.cyc + L, iss := s.who.cyc, seq := s.who.q.seq, idx := s.who.q.idx,
                       word := s.who.q.word, cls := cls, pfx := s.who.q.pfx, eff := e }
  s.updCur fun t => { t with landings := t.landings ++ [l] }

/-- A result of the word being executed that changes what its core decodes under: it lands on the next core cycle, whether or
not the task is frozen by then (R37, R297). -/
def State.landFormat (s : State) (e : Effect) : State :=
  let l : Landing := { cyc := s.me.cyc + 1, iss := s.who.cyc, seq := s.who.q.seq, idx := s.who.q.idx,
                       word := s.who.q.word, cls := none, pfx := s.who.q.pfx, eff := e }
  s.updMe fun k => { k with formats := k.formats ++ [(s.who.slot, l)] }

/-- The flags of the word, landing with its result (R102). -/
def State.landFlags (s : State) (L : Nat) (f : Flags) : State :=
  if f = 0 then s else s.land L (.flags f)

/-! ### Prefixes and immediates (R57 to R62) -/

/-- What prefixes an opcode takes: the rounding override, the modifiers of PAY[19:4], an XIMM. -/
structure PfxRule where
  rounds : Bool := false
  mods   : BitVec 16 → Bool := fun m => m == 0
  ximm   : Bool := false

/-- The value of an immediate of n bits under up to two XIMM payloads, first fetched first (R59); none
where it is wider than 48 bits and no sign copy. -/
def immediate (xs : List (BitVec 20)) (n : Nat) (sx : Bool) (imm : Nat) : Option Word :=
  match xs with
  | [] => some (if sx then BitVec.ofInt 64 (signedOf n imm) else BitVec.ofNat 64 imm)
  | _ =>
    let width := 20 * xs.length + n
    let c := xs.foldl (fun (a : Nat) (x : BitVec 20) => a * 2 ^ 20 + x.toNat) 0 * 2 ^ n + imm
    let top := c / 2 ^ 47
    if decide (width > 48) && !(top == 0 || top == 2 ^ (width - 47) - 1) then none
    else some (BitVec.ofInt 64 (signedOf (min 48 width) (c % 2 ^ min 48 width)))

/-- XMOD's parts: the rounding override and the modifiers (R61). -/
def Pfx.override (p : Pfx) : Nat := ((p.xmod.getD 0).extractLsb' 0 4).toNat
def Pfx.mods (p : Pfx) : BitVec 16 := (p.xmod.getD 0).extractLsb' 4 16

/-- The rounding mode of the word (R61, R99). -/
def State.mode (s : State) : Rounding := roundingWith s.cur.rmode s.who.q.pfx.override

/-- The decode fault of a word at its issue, if any: RESERVED_FIELD before XPREFIX (R62, R69, R117). -/
def decodeFault (i : Instr) (rule : PfxRule) (immOk : Bool) (q : QWord) : Option FaultCode :=
  if !i.wf then some .reservedField
  else if q.pfx.xidle.isSome && idleOf q.word != 0 then some .reservedField
  else if q.pfx.override > 5 || (q.pfx.override > 0 && !rule.rounds) then some .reservedField
  else if !rule.mods q.pfx.mods then some .reservedField
  else if !q.pfx.ximm.isEmpty && !rule.ximm then some .xprefix
  else if !immOk then some .xprefix
  else none

/-! ### Raising a fault (R41, R336) -/

/-- The number of the queue a word's E field names (R27). -/
def queueOf (w : Half) : Nat := engineOf w

/-- Put a word back at the head of its queue, to issue on a task cycle: the next one for a word that faulted (R41); the
boundary's own for a frozen word, which holds the next task cycle until it completes (R248, Table 1.10). -/
def Slot.putBack (t : Slot) (q : QWord) (cyc : Nat) : Slot :=
  let e := queueOf q.word
  let q1 := { q with dcyc := cyc, again := true }
  { t with queues := t.queues.setIfInBounds e (q1 :: t.queues[e]?.getD []) }

/-- An ALIGN whose arrival is on its way or has been made, which no second issue makes again (R50, R256). -/
def Freeze.arrival (z : Freeze) : Option (Nat × Hold) :=
  match z.hold with
  | .align _ _ .draining => none
  | .align .. => some (z.q.seq, z.hold)
  | _ => none

/-- Every freezing word that has not completed goes back to its queue (R248); an ALIGN's arrival stands. -/
def Slot.putFrozen (t : Slot) (cyc : Nat) : Slot :=
  let zs := t.freeze.toList ++ t.behind
  let back := zs.foldl (fun t z => t.putBack z.q cyc) t
  { back with freeze := none, behind := [], arrived := zs.filterMap Freeze.arrival ++ t.arrived }

/-- The first word that holds the task frozen holds it no more; a later one of its cycle may. -/
def Slot.release (t : Slot) : Slot :=
  match t.behind with
  | [] => { t with freeze := none }
  | z :: rest => { t with freeze := some z, behind := rest }

/-- A fault takes its place at a boundary: of those of one boundary the word earliest in stream order stands, and the
others issue again (R336); one raised at a landing, whose word has completed, waits instead (R499). -/
def Slot.takeFault (t : Slot) (f : Raised) (at_ : Nat × Nat) : Slot :=
  match t.flt with
  | none => { t with flt := some f, fltAt := at_ }
  | some g =>
    if g.landed && decide (f.seq < g.seq) then { t with flt := some f, waiting := t.waiting ++ [g] }
    else if f.landed then { t with waiting := t.waiting ++ [f] }
    else t

/-- A fault of the word being executed, with what names the word (R41). -/
def State.faultOf (s : State) (f : Raised) : Raised :=
  { f with idx := s.who.q.idx, word := s.who.q.word, seq := s.who.q.seq, tick := s.tick }

/-- A synchronous fault of the word being executed: the word does not complete, and the first fault of the
cycle in stream order stands (R41, R336). -/
def State.raise (s : State) (f : Raised) : State :=
  s.updCur fun t => (t.putBack s.who.q (s.who.cyc + 1)).takeFault (s.faultOf f) (s.tick, s.me.cyc)

/-- Has a word at an index, unissued or not completed, its suppress-once flag set (R25, R267)? -/
def Slot.flagged (t : Slot) (i : WordIdx) : Bool :=
  t.queues.toList.any fun xs => xs.any fun q => q.supp && q.idx == i

/-- The word completes: its suppress-once flag goes with it, and SUPP clears (R267). A word that freezes its task has not
completed. -/
def State.finish (s : State) : State :=
  if s.cur.freeze.isNone && s.cur.supp && s.who.q.idx == s.cur.hpc then s.updCur fun t => { t with supp := false } else s

/-- A word of a core stream: decode faults, then its level (R5, R336), then what the word itself does. -/
def coreWord (i : Instr) (rule : PfxRule) (lvl : Nat) (s : State) (body : Verdict)
    (immOk : Bool := true) : Step :=
  match decodeFault i rule immOk s.who.q with
  | some code => .next (s.raise { code := code })
  | none =>
    if s.cur.lvl.toNat < lvl then .next (s.raise { code := .privilege })
    else match body with
      | .error f => .next (s.raise f)
      | .ok s' => .next s'.finish

/-- The first fault of a list of checks in order. -/
def firstFault : List (Option Raised) → Option Raised
  | [] => none
  | some f :: _ => some f
  | none :: t => firstFault t

def faultIf (b : Bool) (code : FaultCode) (addr : Word := 0) : Option Raised :=
  if b then some { code := code, addr := addr } else none

/-- What a word does once its checks have passed. -/
def checked (f : Option Raised) (done : State) : Verdict :=
  match f with
  | some r => .error r
  | none => .ok done

/-! ### Launch record fields (Table 10.2) -/

def rfield (r : BitVec 2048) (lo len : Nat) : Nat := r.toNat / 2 ^ lo % 2 ^ len

def Job.spadb (j : Job) : Nat := rfield j.record 48 8
def Job.accr (j : Job) : Nat := rfield j.record 176 16
def Job.hpart (j : Job) : Bool := rfield j.record 19 1 == 1
def Job.slotMask (j : Job) : Nat := rfield j.record 20 4
def Job.dmode (j : Job) : Bool := rfield j.record 16 1 == 1
def Job.trace (j : Job) : Nat := rfield j.record 17 2
def Job.cor (j : Job) : Nat := rfield j.record 27 3
def Job.cmask (j : Job) : Nat := j.mask.toNat
def Job.flow (j : Job) : Nat := rfield j.record 1040 8
def Job.power (j : Job) : Nat := rfield j.record 1048 16
def Job.width (j : Job) (i : Nat) : Nat := rfield j.record (128 + 8 * i) 8
def Job.extent (j : Job) (i : Nat) : Nat := rfield j.record (192 + 64 * i) 64

/-! ### Grants (R131, R190, R312) -/

/-- The job a slot's task belongs to; a handler's is that of the task it serves. -/
def State.jobOfSlot (s : State) (c n : Nat) : Option Job :=
  (s.slot c n).launch.bind s.job

/-- Is a core-local byte granted: to the launch, or at level H its handler partition (R131)? -/
def byteGranted (j : Option Job) (h : Bool) (a : Nat) : Bool :=
  let sp := (j.map Job.spadb).getD 0
  let ac := (j.map Job.accr).getD 0
  decide (a < sp * 0x5000) && decide (a < scratchSize)
    || decide (accBase ≤ a ∧ a < accBase + ac * 1024)
    || h && decide (0x1F0000 ≤ a ∧ a < accEnd)

/-- First byte of n not granted to slot (c, n) (R131). -/
def State.ungranted (s : State) (c n : Nat) (a len : Nat) : Option Nat :=
  ((List.range len).map (a + ·)).find? fun x => !byteGranted (s.jobOfSlot c n) (n == 4) x

/-- Is a weight slot granted at the slot's level (R190, R209)? -/
def State.slotGranted (s : State) (c n w : Nat) : Bool :=
  match s.jobOfSlot c n with
  | none => false
  | some j => if n == 4 then w == 3 && j.hpart
    else j.slotMask.testBit w && !(w == 3 && j.hpart)

/-! ### Windows (R285, R286) -/

inductive Access where
  | read | write | alu | object
  deriving DecidableEq, Repr

/-- Does one window grant a byte (Table 9.2)? -/
def winGrants (w : BitVec 128) (acc : Access) (a : Nat) : Bool :=
  w.getLsbD 115 && decide ((w.extractLsb' 0 48).toNat ≤ a ∧ a ≤ (w.extractLsb' 64 48).toNat) &&
  match acc with
  | .read => w.getLsbD 112
  | .write => w.getLsbD 113
  | .alu => w.getLsbD 112 && w.getLsbD 113 && w.getLsbD 114
  | .object => w.getLsbD 112 && w.getLsbD 113

/-- First byte of n no window of the context grants (R286). -/
def Ctx.outside (x : Ctx) (acc : Access) (a len : Nat) : Option Nat :=
  ((List.range len).map (a + ·)).find? fun b => !x.win.toList.any (winGrants · acc b)

/-! ### Watchpoints (R265, R266) -/

/-- Lowest byte of an access that an armed watchpoint matches: space 0 core-local, 1 package, 2 host. -/
def wpHit (wps : List (BitVec 128)) (write : Bool) (spc a len : Nat) : Option Nat :=
  ((List.range len).map (a + ·)).find? fun b => wps.any fun w =>
    let lo := (w.extractLsb' 0 64).toNat
    let n := (w.extractLsb' 64 32).toNat
    (w.getLsbD (if write then 97 else 96)) && (w.extractLsb' 98 2).toNat == spc
      && decide (lo ≤ b ∧ b < lo + n)

/-- WATCHPOINT of a timed access, unless the word's suppress-once flag is set (R132, R267); words of the
handler slot are not checked (R341). -/
def State.watch (s : State) (write : Bool) (a len : Nat) : Option Raised :=
  if s.inHandler || s.who.q.supp then none
  else (wpHit s.cur.wp.toList write 0 a len).map fun b =>
    { code := .watchpoint, addr := BitVec.ofNat 64 b }

/-- WINDOW_VIOLATION of a timed access outside the granted ranges (R131); instruction memory may be read
where `imem` holds. -/
def State.grantFault (s : State) (imem : Bool) (a len : Nat) : Option Raised :=
  if imem && decide (imemBase ≤ a ∧ a + len ≤ imemEnd) then none
  else (s.ungranted s.who.core s.who.slot a len).map fun b =>
    { code := .windowViolation, addr := BitVec.ofNat 64 b }

/-- An access of n bytes lies wholly in one range of Table 4.10. -/
def oneRange (imem : Bool) (a len : Nat) : Bool :=
  decide (a + len ≤ scratchSize) || decide (accBase ≤ a ∧ a + len ≤ accEnd)
    || imem && decide (imemBase ≤ a ∧ a + len ≤ imemEnd)

/-- The checks of a timed core-local access (R132): watchpoint, alignment, grant. -/
def State.localChecks (s : State) (write imem : Bool) (a len align : Nat) : Option Raised :=
  firstFault [s.watch write a len,
    faultIf (a % align != 0) .alignFault (BitVec.ofNat 64 a),
    if oneRange imem a len then s.grantFault imem a len
    else faultIf true .windowViolation (BitVec.ofNat 64 a)]

/-! ### Core-local memory -/

def State.localBytes (s : State) (c a n : Nat) : List Byte := s.mem.bytes (localAddr c a) n
def State.localNat (s : State) (c a n : Nat) : Nat := s.mem.nat (localAddr c a) n

/-- Set the dirty bit of the granule of a written byte (R328). -/
def Core.dirty (k : Core) (a : Nat) : Core :=
  if a < scratchSize then { k with dirtyS := k.dirtyS ||| ((1 : BitVec 640) <<< (a / 512)) }
  else if accBase ≤ a ∧ a < accEnd then
    { k with dirtyA := k.dirtyA ||| ((1 : BitVec 2048) <<< ((a - accBase) / 512)) }
  else k

/-- Write masked bytes of core-local memory (R173, R328). -/
def State.writeLocal (s : State) (c : Nat) (xs : List MByte) : State :=
  let s := s.updCore c fun k => xs.foldl (fun k x => k.dirty x.addr) k
  { s with mem := s.mem.writeMasked (xs.map fun x => { x with addr := localAddr c x.addr }) }

/-- The word of instruction memory at an index (R52). -/
def State.imem (s : State) (c : Nat) (i : WordIdx) : Half :=
  BitVec.ofNat 32 (s.localNat c (imemBase + 4 * i.toNat) 4)

/-! ### Format entries (R83, R261) -/

/-- The contents of an entry on a core: the presets, then the core's copy of the context's table. -/
def Core.entry (k : Core) (n : Nat) : Word := if n < 32 then presetEntry n else k.ftab[n - 32]?.getD 0

def Core.fmt (k : Core) (n : Nat) : Fmt := fmtOfBits (k.entry n)

/-- May the entry be used by the vector unit and the engines (R83, R89)? -/
def Core.entryOk (k : Core) (n : Nat) : Bool := entryLegal n (k.fmt n)

/-- The entry number a bank's SFMT holds (R92). -/
def Core.sfmtNo (k : Core) (bank : Nat) : Nat := (k.sfmt[bank]?.getD 0).toNat

/-- The entry number of an accumulator row's tag: 1 (F32) or 10 (S32) (R93). -/
def Core.rowEntry (k : Core) (row : Nat) : Nat := if k.acctag.getLsbD row then 10 else 1

/-- Set the tags of rows (R93). -/
def Core.setTags (k : Core) (rows : List Nat) (s32 : Bool) : Core :=
  let one : BitVec 1024 := 1
  let tags := rows.foldl (fun t r => if s32 then t ||| (one <<< r) else t &&& ~~~(one <<< r)) k.acctag
  { k with acctag := tags }

/-! ### Freezes (R36, R248) -/

/-- The word being executed freezes its task. -/
def State.freezeOn (s : State) (h : Hold) (deadline : Option Nat) : State :=
  let z : Freeze :=
    { q := s.who.q, hold := h, iss := s.who.cyc, start := s.tick, cyc0 := s.me.cyc, deadline := deadline }
  s.updCur fun t => { t with freeze := some z }

/-- The pod tick of a deadline of dl ticks, 0 selecting TDEAD (R66, R248). -/
def State.deadlineOf (s : State) (dl : Word) : Nat :=
  s.tick + (if dl = 0 then s.cur.tdead.toNat else dl.toNat)

/-! ### Free values -/

/-- A fresh 64-bit free value, and the state whose counter has advanced. -/
def State.fresh (s : State) : Word × State :=
  (Config.freeWord s.free, { s with free := s.free + 1 })

def State.freshBool (s : State) : Bool × State :=
  (Config.freeBool s.free, { s with free := s.free + 1 })

/-! ### Loads before a join (R43, R134, R177, R288 to R295) -/

/-- Does one slot's word stand under the task of another: a slot itself, the handler and the task it serves? -/
def Core.sameTask (k : Core) (n m : Nat) : Bool :=
  n == m || (n == 4 && m == k.hslot.hserve) || (m == 4 && n == k.hslot.hserve)

/-- What the bytes that operations not yet joined by a slot's task have written held before. -/
def Core.olds (k : Core) (n : Nat) : List Old := (k.ops.filter fun o => k.sameTask n o.slot).flatMap (·.olds)

/-- A test on the old values of the operations of a slot's task: those that fail it go. -/
def Core.keepOlds (k : Core) (n : Nat) (keep : Old → Bool) : Core :=
  { k with ops := k.ops.map fun o => if k.sameTask n o.slot then { o with olds := o.olds.filter keep } else o }

/-- Ticks since the first issue of a launch. -/
def State.sinceStart (s : State) (launch : Option Nat) : Nat :=
  s.tick - ((launch.bind s.job).map (·.startTick)).getD 0

/-- An old-or-new read: by a free value, in D-mode one that the inputs of the launch decide (R306). -/
def State.raceOld (s : State) (dmode : Bool) (launch : Option Nat) (c seq key : Nat) : Bool × State :=
  if dmode then (Config.raceBool (s.sinceStart launch) c seq key, s) else s.freshBool

/-- A load on its way through the writes of unjoined operations: the memory it reads, the bytes whose newer value it has taken,
and the writes it has thereby seen. -/
structure LoadPick where
  mem    : Memory
  st     : State
  closed : List Nat := []
  seen   : List Nat := []

/-- One write, newest first. A load takes the old value of all its bytes or none; it has seen a write of which one byte has a
newer value it took (R288, R289). -/
def LoadPick.step (p : LoadPick) (olds : List Old) (keys : List Nat) (stamp : Nat) : LoadPick :=
  let mine := olds.filter (·.stamp == stamp)
  let take := { p with closed := mine.map (·.key) ++ p.closed, seen := stamp :: p.seen }
  if mine.any fun x => p.closed.contains x.key then take
  else match mine.find? fun x => keys.contains x.key with
    | none => p
    | some x =>
      let r := p.st.raceOld p.st.cur.dmode p.st.cur.launch p.st.who.core p.st.who.q.seq x.key
      if r.1 then { p with mem := mine.foldl (fun m y => m.set y.key y.byte) p.mem, st := r.2 }
      else { take with st := r.2 }

/-- What a load of core-local bytes reads: memory, but bytes that unjoined operations have written may be older, back to what
they held before the first of those writes. A write that it has seen stays seen (R288). -/
def State.loadMem (s : State) (addrs : List Nat) : Memory × State :=
  let olds := s.me.olds s.who.slot
  if olds.isEmpty then (s.mem, s)
  else
    let keys := addrs.map (localAddr s.who.core)
    let p := ((List.range s.me.writes).reverse).foldl (fun p n => p.step olds keys n) ({ mem := s.mem, st := s } : LoadPick)
    (p.mem, p.st.updMe (·.keepOlds s.who.slot fun x => !p.seen.contains x.stamp))

/-- An operation's write of bytes of a memory, at keys of which some are to be kept, is noted with what they held: as one access,
or byte by byte (Table 9.3). -/
def State.noteWrite (s : State) (c : Nat) (o : Op) (m : Memory) (whole : Bool) (keys : List (Nat × Nat)) : State × Op :=
  if keys.isEmpty then (s, o)
  else
    let n := (s.core c).writes
    let olds := keys.mapIdx fun i x => ({ key := x.1, byte := m.get x.2, stamp := if whole then n else n + i } : Old)
    (s.updCore c fun k => { k with writes := n + if whole then 1 else keys.length },
      { o with olds := olds.reverse ++ o.olds })

/-- An operation's access to bytes of its core's memory as one unit. -/
def State.keepOlds (s : State) (c : Nat) (o : Op) (addrs : List Nat) : State × Op :=
  s.noteWrite c o s.mem true (addrs.map fun a => (localAddr c a, localAddr c a))

/-- A write that is visible to a task whatever operations are unjoined leaves no older value of its bits (R290, R296). -/
def Old.patch (x : Old) (ys : List MByte) : Old :=
  ys.foldl (fun x y => if y.addr == x.key then { x with byte := (x.byte &&& ~~~y.mask) ||| (y.bits &&& y.mask) } else x) x

/-- A timed store of slot n, or a landing every task sees, reaches core c's memory, older values of its bits being over for the
operations a test selects. -/
def State.storeSeen (s : State) (c : Nat) (sel : Core → Op → Bool) (xs : List MByte) : State :=
  let ys := xs.map fun x => { x with addr := localAddr c x.addr }
  (s.writeLocal c xs).updCore c fun k => { k with
    ops := k.ops.map fun o => if o.olds.isEmpty || !sel k o then o else { o with olds := o.olds.map (·.patch ys) } }

/-- A write of one unit that is visible to every task leaves no older value of its bytes in any core's memory (R289). -/
def State.overOlds (s : State) (xs : List MByte) : State :=
  let hit := xs.any fun x => (aliasOf x.addr).isSome
  if !hit then s
  else { s with cores := s.cores.map fun (k : Core) =>
    if k.ops.all (·.olds.isEmpty) then k else { k with ops := k.ops.map fun o => { o with olds := o.olds.map (·.patch xs) } } }

/-! ### Releases and acquires (R294, R295) -/

/-- What one set of writes adds to another. -/
def joinKnown (xs ys : List (Nat × Nat × Nat)) : List (Nat × Nat × Nat) :=
  ys.foldl (fun a y => if a.contains y then a else y :: a) xs

/-- A release to an object, by its package address, of writes of operations that the engine tables still hold. -/
def State.releaseTo (s : State) (obj : Nat) (writes : List (Nat × Nat × Nat)) : State :=
  let live := fun (x : Nat × Nat × Nat) => (s.core x.1).ops.any fun o => o.fork == x.2.1
  let all := writes.filter live
  if all.isEmpty then s
  else
    let old := (s.banks.released.lookup obj).getD []
    { s with banks := { s.banks with
      released := (obj, (joinKnown old all).filter live) :: s.banks.released.filter (·.1 != obj) } }

/-- An acquire by a slot's task from an object: what was released to it is visible to the task from now on, so that its loads meet no older
value of what those writes wrote (R295). -/
def State.acquireFrom (s : State) (c n obj : Nat) : State :=
  match s.banks.released.lookup obj with
  | none => s
  | some xs =>
    let k := s.core c
    let older := fun (y : Old) => k.ops.any fun o => k.sameTask n o.slot &&
      xs.any (fun x => x.1 == c && x.2.1 == o.fork && o.olds.any fun z => z.key == y.key && decide (z.stamp < x.2.2) && decide (y.stamp ≤ z.stamp))
    (s.setCore c (k.keepOlds n fun y => !older y)).updSlot c n fun t => { t with knows := joinKnown t.knows xs }

/-! ### Joins (R43, R102) -/

/-- Every access of the operations a test selects, and of those of their classes forked before them, comes before what the task
does next: it sees no value older than their writes (R291, R292). -/
def Core.seeWrites (k : Core) (n : Nat) (hit : Op → Bool) : Core :=
  let before := fun (o : Op) => hit o || k.ops.any fun x => hit x && x.slot == o.slot && x.cls == o.cls && decide (o.fork < x.fork)
  let seen := (k.ops.filter before).flatMap (·.olds)
  if seen.isEmpty then k
  else k.keepOlds n fun x => !seen.any fun y => y.key == x.key && decide (x.stamp ≤ y.stamp)

/-- Join finished operations of a slot that a test selects: their flags and bound hits reach FSTAT and
BSTAT, their writes are visible, and completed ones leave the table. -/
def State.joinWhere (s : State) (c n : Nat) (sel : Op → Bool) : State :=
  let hit := fun (o : Op) => o.slot == n && o.finished && sel o
  let k := (s.core c).seeWrites n hit
  let fl := k.ops.foldl (fun f o => if hit o then f ||| o.flags else f) (0 : Flags)
  let bs := k.ops.foldl (fun f o => if hit o then f ||| o.bstat else f) (0 : BitVec 16)
  let ops := k.ops.filterMap fun o =>
    if hit o then (if o.pst = .done then none else some { o with flags := 0, bstat := 0 }) else some o
  let s := s.setCore c { k with ops := ops }
  s.updSlot c n fun t => { t with fstat := t.fstat ||| fl, bstat := t.bstat ||| bs }

/-! ### Entries of the engine table (R44) -/

/-- Entries held: operations neither complete nor released. -/
def Core.held_ (k : Core) : List Op := k.ops.filter (·.pst != .done)

/-- The lowest free entry number. -/
def Core.freeEntry (k : Core) : Option Nat :=
  (List.range 64).find? fun e => !k.held_.any (·.entry == e)

def Core.opAt (k : Core) (e : Nat) : Option Op := k.held_.find? (·.entry == e)

def Core.updOp (k : Core) (e : Nat) (f : Op → Op) : Core :=
  { k with ops := k.ops.map fun o => if o.entry == e && o.pst != .done then f o else o }

/-- Free an entry with no further access or update (Table 11.3). -/
def Core.releaseOp (k : Core) (e : Nat) : Core :=
  { k with ops := k.ops.filter fun o => !(o.entry == e && o.pst != .done) }

/-! ### Routing, handler entry and return (R337 to R344) -/

def FaultCode.toNat : FaultCode → Nat
  | .illegalOpcode => 0x01 | .reservedField => 0x02 | .engineMisplaced => 0x03
  | .formatIllegal => 0x04 | .shapeMismatch => 0x05 | .shapeRange => 0x06
  | .windowViolation => 0x07 | .pageFault => 0x08 | .alignFault => 0x09 | .waitDeadline => 0x0A
  | .boundTrap => 0x0B | .poison => 0x0C | .privilege => 0x0D | .gatherRange => 0x0E
  | .softError => 0x0F | .watchpoint => 0x10 | .powerLimit => 0x11 | .thermal => 0x12
  | .zoneDry => 0x13 | .linkFailure => 0x14 | .slotEmpty => 0x15 | .trapInsn => 0x16
  | .launchExceeds => 0x17 | .xprefix => 0x18 | .flowDenied => 0x19

/-- Does a fault of a task go to the handler (R338)? -/
def routed (hcfg : Word) (t : Slot) (f : Raised) : Bool :=
  hcfg.getLsbD 15 && hcfg.getLsbD (32 + f.code.toNat)
    && (!t.dmode || ((!f.async || f.code == .watchpoint)
          && f.code != .waitDeadline && f.code != .poison))
    && !(f.async && t.st == .retiring)

/-- HCAUSE of a fault (Table 1.7). -/
def hcauseOf (f : Raised) : Word :=
  BitVec.ofNat 64 (f.code.toNat + engineOf f.word * 0x100 + (if f.async then 0x800 else 0))

/-- A violation freezes a slot, with its cause recorded (R359). -/
def Slot.freezeBy (t : Slot) (f : Raised) : Slot :=
  { t with st := .frozen, hcause := hcauseOf f, haddr := f.addr, hpc := f.idx, hword := f.word }

/-- The order in which words of a task issue: by task cycle, and on one cycle by stream number (R31, R252, R257). -/
def issuedBefore (iss seq iss' seq' : Nat) : Bool := decide (iss < iss') || (iss == iss' && decide (seq < seq'))

/-- Core cycle on which the last row or switch of a matrix operation lands (R33, R199, R204 to R208). -/
def MatOp.last (m : MatOp) : Nat :=
  let rows := (m.ash.extractLsb' 48 16).toNat
  let crows := (m.csh.extractLsb' 48 16).toNat
  match m.kind with
  | .mma => m.t0 + 40 + (2 * rows + m.rate2 - 1) / m.rate2 - 1
  | .mldb => m.t0 + 16 + rows
  | .mzero => m.t0 + 4 + crows - 1
  | .mscale | .maddt => m.t0 + 8 + crows - 1
  | .mout => m.t0 + 9 + crows - 1
  | .slotinv => m.t0 + 1

/-- The core cycle as a matrix operation counts it: that of its core, but for a weave load one a pod tick (R197). -/
def MatOp.clock (m : MatOp) (cyc : Nat) : Nat :=
  match m.age with
  | some n => m.t0 + n
  | none => cyc

/-- The core cycle on which it ends, as far as its core knows on the present one. -/
def MatOp.ends (m : MatOp) (cyc : Nat) : Nat := cyc + (m.last - m.clock cyc)

/-- Has a matrix operation memory accesses still to perform on a core cycle or later: the operand rows of a load, else every row
of its accumulator or destination as well (R199, R290)? -/
def MatOp.accessing (m : MatOp) (now : Nat) : Bool :=
  match m.kind with
  | .mldb => decide (m.clock now < m.t0 + (m.ash.extractLsb' 48 16).toNat)
  | .slotinv => false
  | _ => decide (now ≤ m.last)

/-- First core cycle after every matrix operation of a slot has landed (R38). -/
def Core.matsEnd (k : Core) (n : Nat) : Nat :=
  k.mats.foldl (fun a m => if m.slot == n then max a (m.ends k.cyc + 1) else a) 0

/-- Core cycle on which the last matrix word of a slot lands; no word of the task issues before it once a freeze has ended
(R38). A carried word of a CPYM is not among them: its operation joins as any other (R221). -/
def Core.matsLast (k : Core) (n : Nat) : Nat :=
  k.mats.foldl (fun a m => if m.slot == n && m.forOp.isNone then max a (m.ends k.cyc) else a) 0

/-- The handler slot as an entry leaves it (R339, R340): registers at reset, b0 to b15 zero, TDEAD of the
task, the fault's values, and its first word on core cycle max(b + 4, L + 1). -/
def handlerSlot (t : Slot) (n : Nat) (f : Raised) (hcfg : Word) (b L1 : Nat) : Slot :=
  { Slot.init with
    st := .active, lvl := 1, launch := t.launch, wid := t.wid, lidx := t.lidx, rank := t.rank,
    ctx := t.ctx, dmode := t.dmode, tdead := t.tdead, pc := hcfg.extractLsb' 0 15
    hcause := hcauseOf f, haddr := f.addr, hpc := f.idx, hword := f.word
    hserve := n, hfault := some f, startAt := max (b + 4) L1, supp := t.supp, fcode := t.fcode }

/-- TAKING AN EXCEPTION (R339). The slot becomes BLOCKED (or stays FROZEN by a violation, R359), FCODE takes
the code, a freezing word that has not completed goes back to its queue (R248), to issue on the next task cycle beside a
word that faulted on its own; and the handler slot starts. -/
def State.enterHandler (s : State) (c n : Nat) (f : Raised) (b : Nat) : State :=
  let t := s.slot c n
  let hcfg := (s.ctx t.ctx).hcfg
  let t1 := t.putFrozen (if f.async || f.landed then t.tc - 1 else t.tc)
  let t2 := { t1 with
    st := if t.st = .frozen then .frozen else .blocked
    supp := t1.flagged f.idx, ready := false, flt := none, fcode := BitVec.ofNat 8 f.code.toNat
    hcause := hcauseOf f, haddr := f.addr, hpc := f.idx, hword := f.word }
  let s1 := s.setSlot c n t2
  s1.setSlot c 4 (handlerSlot t2 n f hcfg b ((s.core c).matsEnd n))

/-- Remove the word a fault names from the head of its queue, with its prefixes (Table 8.7). -/
def Slot.discardWord (t : Slot) (idx : WordIdx) (w : Half) : Slot :=
  let e := queueOf w
  match t.queues[e]?.getD [] with
  | q :: rest => if q.idx == idx then { t with queues := t.queues.setIfInBounds e rest } else t
  | [] => t

/-- A discarded BR, CALL or EXIT lets delivery go on (R30). -/
def stallsStream (w : Half) : Bool := engineOf w == 0 && (fld w.toNat 20 6 == 0x34
  || fld w.toNat 20 6 == 0x35 || fld w.toNat 20 6 == 0x37)

/-- Discard every delivered, unissued word and latched prefix, and deliver from an index with the bubble of a
taken branch (Table 8.7, R30). -/
def Slot.restartAt (t : Slot) (pc : WordIdx) : Slot :=
  { t with queues := Vector.replicate 6 [], latch := Vector.replicate 8 {}, half := none
           stall := false, pc := pc, dnext := t.tc + 3, arrived := [] }

/-- The word at the head of its queue that a fault names takes its suppress-once flag (R260, R267). -/
def Slot.flagWord (t : Slot) (f : Raised) : Slot :=
  let e := queueOf f.word
  match t.queues[e]?.getD [] with
  | q :: rest =>
    if q.idx == f.idx then { t with queues := t.queues.setIfInBounds e ({ q with supp := true } :: rest) } else t
  | [] => t

/-- A word that has completed goes back to the head of its queue with its prefixes, to issue on the next task cycle (R342); its new
issue may raise BOUND_TRAP again (R114). -/
def Slot.issueAgain (t : Slot) (f : Raised) : Slot :=
  { t.putBack { word := f.word, idx := f.idx, seq := f.seq, dcyc := t.tc, pfx := f.pfx } t.tc with
    trapSeqs := t.trapSeqs.filter (· != f.seq) }

/-- The task's side of a RETT (Table 8.7 for synchronous faults, Table 11.3 for asynchronous ones); a word that faulted at its
landing issues again (R342). -/
def Slot.resumeBy (t : Slot) (f : Raised) (hpc : WordIdx) : Slot :=
  if hpc = f.idx then
    if f.unissued then { t with pc := f.idx, dnext := t.tc, half := none }
    else if f.async then t
    else if f.landed then t.issueAgain f
    else if f.code = .watchpoint then t.flagWord f
    else t
  else if hpc = f.idx + 1 then
    if f.async || f.landed then t
    else if f.unissued then { t with pc := f.idx + 1, dnext := t.tc, half := none }
    else
      let t1 := t.discardWord f.idx f.word
      if stallsStream f.word then { t1 with stall := false, dnext := t.tc } else t1
  else t.restartAt hpc

/-- Release operations; one that has nothing left to perform is done (R220). -/
def Core.dropOps (k : Core) (sel : Op → Bool) : Core :=
  let go := fun (o : Op) =>
    if sel o then (if o.finished then some { o with pst := .done, trap := none } else none) else some o
  { k with ops := k.ops.filterMap go }

/-- The operation's side of a RETT (Table 11.3): resumed at its stop point, or released. A CPYV stopped after
its last update is ended either way (R220). -/
def Core.resumeOp (k : Core) (f : Raised) (hpc : WordIdx) : Core :=
  if !f.async then k
  else if hpc = f.idx then
    let go := fun (o : Op) =>
      if o.entry == f.entry && o.pst == .stopped then
        (if o.finished then { o with pst := .done, trap := none }
         else { o with pst := .run, supp := o.supp || f.code == .watchpoint, tries := 0 })
      else o
    { k with ops := k.ops.map go }
  else k.dropOps fun o => o.entry == f.entry && o.pst == .stopped

/-- RETURN FROM EXCEPTION (R260, R342): the interrupted task resumes by HPC, on core cycle max(x + 4, M + 1),
where x is the issue cycle of RETT. -/
def State.returnFromHandler (s : State) (c x : Nat) : State :=
  let k := s.core c
  let h := k.hslot
  let f := h.hfault.getD { code := .illegalOpcode }
  let t := k.slot h.hserve
  let t0 := t.resumeBy f h.hpc
  let t1 := { t0 with
    st := if t.exited then .retiring else .active
    startAt := max (x + 4) (k.matsEnd 4)
    hpc := f.idx, supp := t0.flagged f.idx }
  s.setCore c ((k.resumeOp f h.hpc).setSlot h.hserve t1)

/-- Is an operation of the interrupted task released by a handler's EXIT: stopped on the fault served or on a waiting one that
is discarded with it, frozen by a violation, or a CPYM of a FROZEN slot whose carried word has not issued (R145, R221, R359)? -/
def Op.releasedBy (o : Op) (t : Slot) : Bool :=
  o.pst == .frozen || o.pst == .stopped
    || t.st == .frozen && o.kind == .cpym && ((o.carried.map fun w => w.lands.isNone).getD false)

/-- HANDLER EXIT (R145): the interrupted task is RETIRING with the EXIT's code, its stopped operations are
released, its undelivered words do not issue and faults waiting for it are discarded. It runs on from the next core cycle. -/
def State.exitFromHandler (s : State) (c : Nat) (code : BitVec 20) : State :=
  let k := s.core c
  let h := k.hslot
  let t := k.slot h.hserve
  let k1 := k.dropOps fun o => o.slot == h.hserve && o.releasedBy t
  s.setCore c (k1.setSlot h.hserve { t with
    st := .retiring, exited := true, xcode := code, queues := Vector.replicate 6 [],
    latch := Vector.replicate 8 {}, half := none, stall := true, waiting := [], flt := none,
    freeze := none, behind := [], startAt := max t.startAt (k.cyc + 1) })

/-! ### Kernel abort (R324) -/

/-- A slot of the launch, emptied. -/
def clearSlot (n : Nat) (t : Slot) : Slot := if t.launch == some n then Slot.init else t

/-- A checked matrix result of an aborted launch lands under the bound register as the abort finds it (R113, R324). -/
def MatOp.keepBound (m : MatOp) (k : Core) (n : Nat) : MatOp :=
  if m.launch == some n then { m with bnd := m.bn.map fun b => (k.slot m.slot).regs.readB b } else m

/-- What an abort does on one core: slots EMPTY with nothing saved, operations cancelled, queue entries gone;
matrix operations already issued still land. -/
def Core.abortLaunch (k : Core) (n : Nat) : Core :=
  { k with
    mats := k.mats.map fun m => m.keepBound k n
    slots := k.slots.map (clearSlot n)
    hslot := if k.hslot.launch == some n then { Slot.init with lvl := 1 } else k.hslot
    ops := k.ops.filter fun o => o.launch != some n
    lq := k.lq.filter fun e => e.1 != n }

/-- The pod launch in force is over. Notices of chips that are ready after its PST are for the next one (R380). -/
def Fabric.freed (x : Fabric) : Fabric :=
  { x with podJob := none, pst := none, ready := if x.pst.isSome then x.ready else [] }

/-- Every task of the launch stops on this tick; the entry ends with the fault code, its flow and power are
released, and the reported task is the one given (R323, R324). -/
def State.abort (s : State) (n : Nat) (code : FaultCode) (task : Option (Nat × Word)) : State :=
  match s.job n with
  | none => s
  | some j =>
    if j.stage = .ended then
      match task, j.xlidx with
      | some (i, w), some i0 =>
        if j.status != 0 && j.etick == s.tick && i < i0 then
          s.updJob n fun j => { j with xlidx := some i, xwid := w } else s
      | _, _ => s
    else
      let waiting := s.sec.queue.filter fun x => match x with
        | .word c i => (s.slot c i).launch != some n
        | .spdm _ => true
      let s1 : State := { s with
        cores := s.cores.map fun k => Core.abortLaunch k n
        cool := { s.cool with grants := s.cool.grants.filter fun (x : Grant) => x.launch != n }
        sec := { s.sec with queue := waiting }
        fab := if s.fab.podJob == some n then s.fab.freed
               else s.fab }
      s1.updJob n fun j => { j with
        stage := .ended, admitted := false, status := code.toNat, etick := s.tick
        xcode := 0, xlidx := task.map (·.1)
        xwid := match task with | some (_, w) => w | none => BitVec.allOnes 64
        lists := [], saved := false, back := [], preq := [], gone := [], rreq := false }

/-- Abort of the launch a slot's task belongs to, naming that task (R323). -/
def State.abortSlot (s : State) (c n : Nat) (code : FaultCode) : State :=
  let t := s.slot c n
  match t.launch with
  | some l => s.abort l code (some (t.lidx, t.wid))
  | none => s.setSlot c n Slot.init

/-! ### Counters and reference time (R434, R437) -/

/-- Is a unit within its event's range (Table 14.6)? -/
def unitOk (evt unit : Nat) : Bool :=
  decide (unit < if evt ≤ 7 then 64 else if evt = 8 then 4 else if evt ≤ 12 then 12 else 4)

/-- Does a counter take an event of a unit? -/
def counts (cfg : Word) (evt unit : Nat) : Bool :=
  (cfg.extractLsb' 0 8).toNat == evt && (cfg.getLsbD 15 || (cfg.extractLsb' 8 7).toNat == unit)

/-- An event of a unit happens n times; counters are read while ON = 1 only, and start from 0 with it. -/
def State.count (s : State) (evt unit n : Nat) : State :=
  if !s.dbg.cton || n == 0 || !unitOk evt unit then s
  else
    let add := fun (k : Fin 8) (x : Nat) => if counts (s.dbg.ctr[k]) evt unit then (x + n) % 2 ^ 64 else x
    { s with dbg := { s.dbg with ctval := Vector.ofFn fun k => add k (s.dbg.ctval[k]) } }

/-- Is the pod tick held by a stop of scope 1 or 2 (R437)? -/
def State.gated (s : State) : Bool := s.dbg.stopped && s.dbg.scope != 0

/-- The reference tick, which no stop holds. -/
def State.refTick (s : State) : Nat := s.tick + s.dbg.held

/-- CP work stands still while it is halted (R457). -/
def State.cpRuns (s : State) : Bool := !s.cp.halted && !s.cp.fatal

/-! ### Outputs -/

def State.emit (s : State) (o : Out) : State := { s with out := s.out ++ [o] }

end Sys2Proof.Machine
end

