-- ==== Sys2Proof/Machine/Operands.lean ====
section
/-!
DEFINITION. Operand forms: shape records (R182 to R187), completion values (R214), work-identifier fields
(R11), shape field selectors (R137), special registers (R23 to R26).
-/
namespace Sys2Proof.Machine

/-! ### Shape records (Table 6.1) -/

structure Shape where
  raw   : Shape256
  base  : Nat
  space : Nat
  rows  : Nat
  cols  : Nat
  rstr  : Int
  cstr  : Nat
  fmt   : Nat
  vreg  : Nat
  trn   : Bool
  pln   : Bool
  pstr  : Nat
  /-- the address of R183, plus a loop nest's offset (R224) -/
  addr  : Int
  deriving DecidableEq, Repr

def shapeOf (x : Shape256) : Shape :=
  let f := fun lo len => (x.extractLsb' lo len).toNat
  let space := f 32 3
  { raw := x, base := f 0 32, space := space, rows := f 48 16, cols := f 64 16
    rstr := signedOf 24 (f 80 24), cstr := f 104 8, fmt := f 112 8, vreg := f 120 6
    trn := x.getLsbD 126, pln := x.getLsbD 127, pstr := f 128 32
    addr := if 2 ≤ space ∧ space ≤ 4 then ((f 128 32 * 2 ^ 32 + f 0 32 : Nat) : Int) else (f 0 32 : Nat) }

/-- The valid-row count (R187). -/
def Shape.validBy (h : Shape) (r : Regs) : Nat :=
  if h.vreg = 0 then h.rows else min (r.readG h.vreg).toNat h.rows

/-- Bit address of element (i, j) in packed layout (R184); cb is the container's width in bits. -/
def Shape.bitAddr (h : Shape) (cb i j : Nat) : Int :=
  if h.trn then 8 * (h.addr + j * h.rstr) + (cb * i * h.cstr : Nat)
  else 8 * (h.addr + i * h.rstr) + (cb * j * h.cstr : Nat)

/-- Bit address of plane p of element (i, j) in planar layout (R185). -/
def Shape.planeAddr (h : Shape) (p i j : Nat) : Int :=
  if h.trn then 8 * (h.addr + p * h.pstr + j * h.rstr + (i / 8 : Nat)) + (i % 8 : Nat)
  else 8 * (h.addr + p * h.pstr + i * h.rstr + (j / 8 : Nat)) + (j % 8 : Nat)

/-- Where element (i, j) stands; `planes` counts the planes read or written (R96, R185). -/
def Shape.pieces (h : Shape) (cb planes i j : Nat) : Pieces :=
  if h.pln then (List.range planes).map fun p => ((h.planeAddr p i j).toNat, 1, 7 - p)
  else [((h.bitAddr cb i j).toNat, cb, 0)]

/-- The address range of a space (Table 9.1, R183, R218). -/
def spaceRange (space : Nat) : Nat × Nat :=
  match space with
  | 0 => (0, scratchSize)
  | 1 => (accBase, accEnd)
  | 2 => (0, sharedEnd)
  | 3 => (hbmBase, hbmEnd)
  | 4 => (0, 2 ^ 64)
  | 5 => (0, 0x40000)
  | _ => (0, 0)

/-- The corners of a shape: its extreme elements, since every stride acts linearly (R184, R185). -/
def Shape.corners (h : Shape) : List (Nat × Nat) :=
  [(0, 0), (h.rows - 1, 0), (0, h.cols - 1), (h.rows - 1, h.cols - 1)]

/-- First and last bit address of an element. -/
def Shape.bitsOf (h : Shape) (cb planes i j : Nat) : List Int :=
  if h.pln then [h.planeAddr 0 i j, h.planeAddr (planes - 1) i j]
  else [h.bitAddr cb i j, h.bitAddr cb i j + ((cb - 1 : Nat) : Int)]

/-- Does the extent lie in a range (the address row of Table 6.2)? -/
def Shape.within (h : Shape) (cb planes : Nat) (r : Nat × Nat) : Bool :=
  h.corners.all fun (i, j) => (h.bitsOf cb planes i j).all fun b =>
    decide (8 * (r.1 : Int) ≤ b) && decide (b < 8 * (r.2 : Int))

/-- Table 6.2 but for its address row and the KIND of a planar shape's format; `window` for the destination
of MCST, whose FMT names its entry (R227). -/
def Shape.fieldsOk (h : Shape) (spaces : List Nat) (window : Bool := false) : Bool :=
  (h.raw.extractLsb' 35 13).toNat == 0 && (h.raw.extractLsb' 160 96).toNat == 0
    && spaces.contains h.space
    && h.rows != 0 && h.cols != 0 && h.cstr != 0
    && (h.fmt == 0 || window || !(h.space == 0 || h.space == 1))
    && (!h.pln || (h.space == 0 && h.cstr == 1))
    && (!(h.space == 2 || h.space == 3) || decide (h.addr < 2 ^ 48))
    && (h.space != 5 || decide (h.base < 0x40000))

/-- The rows of the accumulator an accumulator shape lies in (R194). -/
def Shape.accRow (h : Shape) (i : Nat) : Nat := ((h.addr + i * h.rstr - accBase) / 1024).toNat

/-- The format entry number of a shape on a core (R92, R94); an accumulator shape's is its first row's tag. -/
def Shape.entryNo (h : Shape) (k : Core) : Nat :=
  match h.space with
  | 0 => k.sfmtNo (h.base / 0x5000)
  | 1 => k.rowEntry (h.accRow 0)
  | _ => h.fmt

/-- A shape with its resolved entry. -/
structure Operand where
  sh    : Shape
  no    : Nat
  word  : Word
  e     : Fmt
  cb    : Nat
  /-- planes read and written (R185) -/
  rp    : Nat
  wp    : Nat
  valid : Nat
  deriving DecidableEq, Repr

def Operand.of (sh : Shape) (no : Nat) (word : Word) (valid : Nat) : Operand :=
  let e := fmtOfBits word
  { sh := sh, no := no, word := word, e := e, cb := containerBits e.tw, rp := e.pl + 1
    wp := e.sp + 1, valid := valid }

/-- The operand of a shape on a core. -/
def Shape.operand (h : Shape) (k : Core) (r : Regs) : Operand :=
  let no := h.entryNo k
  .of h no (k.entry no) (h.validBy r)

def Operand.readPieces (o : Operand) (i j : Nat) : Pieces := o.sh.pieces o.cb o.rp i j
def Operand.writePieces (o : Operand) (i j : Nat) : Pieces := o.sh.pieces o.cb o.wp i j

/-- The byte addresses of row i (all its elements), reading or writing. -/
def Operand.rowBytes (o : Operand) (write : Bool) (i : Nat) : List Nat :=
  (List.range o.sh.cols).flatMap fun j =>
    piecesBytes (if write then o.writePieces i j else o.readPieces i j)

/-- The byte addresses of the rows below the valid count. -/
def Operand.validBytes (o : Operand) (write : Bool) : List Nat :=
  (List.range o.valid).flatMap (o.rowBytes write)

/-- The byte addresses of the whole extent. -/
def Operand.allBytes (o : Operand) (write : Bool) : List Nat :=
  (List.range o.sh.rows).flatMap (o.rowBytes write)

/-- A bank crossing (R92): a byte of the extent in a bank whose SFMT names another entry. -/
def Operand.crosses (o : Operand) (k : Core) (write : Bool) : Bool :=
  o.sh.space == 0 && (o.allBytes write).any fun a => k.sfmtNo (a / 0x5000) != o.no

/-- A planar shape needs a nested format (Table 6.2). -/
def Operand.planarOk (o : Operand) : Bool := !o.sh.pln || o.e.kind == .nested

/-- The address row of Table 6.2. -/
def Operand.inSpace (o : Operand) (write : Bool) : Bool :=
  o.sh.within o.cb (if write then o.wp else o.rp) (spaceRange o.sh.space)

/-- Is the entry legal in every engine (R89, R94)? -/
def Operand.legal (o : Operand) : Bool := entryLegal o.no o.e

/-- First byte of a list that meets a test. -/
def firstByte (xs : List Nat) (bad : Nat → Bool) : Option Nat :=
  (xs.filter bad).foldl (fun m a => match m with | none => some a | some b => some (min a b)) none

/-- WATCHPOINT and ALIGN_FAULT (by elements) of a timed word's accesses to scratchpad or accumulator bytes (R132, R193). -/
def State.extentWatch (s : State) (write : Bool) (bytes : List Nat) (misaligned : Option Nat) : Option Raised :=
  firstFault [
    if s.inHandler || s.who.q.supp then none
    else (firstByte bytes fun b => (wpHit s.cur.wp.toList write 0 b 1).isSome).map fun b =>
      { code := .watchpoint, addr := BitVec.ofNat 64 b },
    misaligned.map fun a => { code := .alignFault, addr := BitVec.ofNat 64 a }]

/-- WINDOW_VIOLATION of its accesses (R131). -/
def State.extentGrant (s : State) (bytes : List Nat) : Option Raised :=
  (firstByte bytes fun b =>
      !byteGranted (s.jobOfSlot s.who.core s.who.slot) (s.who.slot == 4) b).map fun b =>
    { code := .windowViolation, addr := BitVec.ofNat 64 b }

/-- The accesses of a timed word to scratchpad or accumulator bytes: WATCHPOINT, ALIGN_FAULT, WINDOW_VIOLATION. -/
def State.extentChecks (s : State) (write : Bool) (bytes : List Nat) (misaligned : Option Nat) :
    Option Raised :=
  firstFault [s.extentWatch write bytes misaligned, s.extentGrant bytes]

/-- The lowest element address that is no multiple of its container size; 4-bit containers are exempt (R194). -/
def Operand.misaligned (o : Operand) : Option Nat :=
  if o.sh.pln || decide (o.cb ≤ 8) then none
  else
    let addrs := (List.range o.valid).flatMap fun i => (List.range o.sh.cols).map fun j =>
      (o.sh.bitAddr o.cb i j / 8).toNat
    firstByte addrs fun a => a % (o.cb / 8) != 0

/-! ### Work identifiers (R11, R13) -/

def Job.fieldOff (j : Job) (i : Nat) : Nat := ((List.range i).map j.width).foldl (· + ·) 0

/-- The value of field i of a WID (R11). -/
def Job.field (j : Job) (wid : Word) (i : Nat) : Nat :=
  wid.toNat / 2 ^ j.fieldOff i % 2 ^ j.width i

def Job.tasks (j : Job) : Nat := ((List.range 6).map j.extent).foldl (· * ·) 1

/-- The WID of a logical index (R13): one division per field. -/
def Job.widOf (j : Job) (lidx : Nat) : Word :=
  let r := (List.range 6).foldl (fun (acc : Nat × Nat) i =>
    (acc.1 / j.extent i, acc.2 + acc.1 % j.extent i * 2 ^ j.fieldOff i)) (lidx, 0)
  BitVec.ofNat 64 r.2

/-- The logical index of a WID (R13). -/
def Job.lidxOf (j : Job) (wid : Word) : Nat :=
  (List.range 6).reverse.foldl (fun acc i => j.field wid i + j.extent i * acc) 0

/-- Is a WID one of the launch's (R13)? -/
def Job.hasWid (j : Job) (wid : Word) : Bool :=
  ((List.range 6).all fun i => decide (j.field wid i < j.extent i))
    && decide (wid.toNat < 2 ^ j.fieldOff 6)

/-! ### Shape field selectors (R137, Table 4.11) -/

/-- Low bit and width of a selector's field; 15 is apart. -/
def shapeField (sel : Nat) : Nat × Nat :=
  match sel with
  | 0 => (0, 64)
  | 1 => (64, 64)
  | 2 => (128, 64)
  | 3 => (192, 64)
  | 4 => (0, 32)
  | 5 => (32, 3)
  | 6 => (48, 16)
  | 7 => (64, 16)
  | 8 => (80, 24)
  | 9 => (104, 8)
  | 10 => (112, 8)
  | 11 => (120, 6)
  | 12 => (126, 1)
  | 13 => (127, 1)
  | _ => (128, 32)

/-- The value and mask that SHSET merges (R137). -/
def shapeMerge (sel : Nat) (x : Word) : Shape256 × Shape256 :=
  if sel = 15 then
    (BitVec.ofNat 256 (x.toNat % 2 ^ 32 + x.toNat / 2 ^ 32 * 2 ^ 128),
     BitVec.ofNat 256 ((2 ^ 32 - 1) * (1 + 2 ^ 128)))
  else
    let (lo, len) := shapeField sel
    (BitVec.ofNat 256 (x.toNat % 2 ^ len * 2 ^ lo), BitVec.ofNat 256 ((2 ^ len - 1) * 2 ^ lo))

/-- What SHGET reads: zero-extended, but RSTR sign-extended (R137). -/
def shapeGet (sel : Nat) (h : Shape256) : Word :=
  if sel = 15 then BitVec.ofNat 64 ((h.extractLsb' 0 32).toNat + (h.extractLsb' 128 32).toNat * 2 ^ 32)
  else
    let (lo, len) := shapeField sel
    let x := h.toNat / 2 ^ lo % 2 ^ len
    if sel = 8 then BitVec.ofInt 64 (signedOf 24 x) else BitVec.ofNat 64 x

/-! ### Completion values (Table 7.2, R214) -/

def compAddr (c : Word) : Nat := (c.extractLsb' 0 48).toNat
/-- Shared memory rather than the issuing core's scratchpad. -/
def compShared (c : Word) : Bool := c.getLsbD 62
/-- A chunk bitmap rather than a synchronisation word. -/
def compBitmap (c : Word) : Bool := c.getLsbD 63

/-- The package address of the object. -/
def compPackage (core : Nat) (c : Word) : Nat :=
  if compShared c then compAddr c else localAddr core (compAddr c)

/-- The extent in bytes: 32, or that of a bitmap of n bits (R214). -/
def compLen (c : Word) (n : Nat) : Nat := if compBitmap c then (n + 7) / 8 else 32

/-- The form of a completion value (R214): reserved bits, place. -/
def compShape (c : Word) (n : Nat) : Option Raised :=
  faultIf ((c.extractLsb' 48 14).toNat != 0
    || decide ((if compShared c then sharedEnd else scratchSize) < compAddr c + compLen c n)) .shapeRange

/-- Alignment and grant of a completion object (R214). -/
def State.compAccess (s : State) (c : Word) (n : Nat) : Option Raised :=
  let a := compAddr c
  let len := compLen c n
  let viol := if compShared c then (s.ctx s.cur.ctx).outside .object a len
    else s.ungranted s.who.core s.who.slot a len
  firstFault [
    faultIf (a % (if compBitmap c then 8 else 32) != 0) .alignFault (BitVec.ofNat 64 a),
    viol.map fun b => { code := .windowViolation, addr := BitVec.ofNat 64 b }]

/-- The checks of R214 at issue, in order. -/
def State.compChecks (s : State) (c : Word) (n : Nat) : Option Raised :=
  firstFault [compShape c n, s.compAccess c n]

/-! ### Poison (R305, R361, R455) -/

/-- Does a lease in state 2 cover a byte (R305)? -/
def State.leasePoison (s : State) (a : Nat) : Bool :=
  s.cp.leases.toList.any fun l => (l.extractLsb' 114 2).toNat == 2
    && decide ((l.extractLsb' 0 48).toNat ≤ a ∧ a ≤ (l.extractLsb' 64 48).toNat)

/-- First and last byte of HREG n (Table 15.6). -/
def State.hregRange (s : State) (n : Nat) : Nat × Nat :=
  let r := s.sec.hreg[n]?.getD 0
  ((r.extractLsb' 0 48).toNat, (r.extractLsb' 64 48).toNat)

/-- Is a byte in an enabled region whose key slot was wiped (R451)? -/
def State.regionWiped (s : State) (a : Nat) : Bool :=
  (List.range 16).any fun n =>
    let r := s.hregRange n
    s.sec.hwiped.getLsbD n && decide (r.1 ≤ a ∧ a ≤ r.2)

/-- Data of a wiped region reads as poison, until written again in whole granules (R451). -/
def State.regionPoison (s : State) (a : Nat) : Bool :=
  s.regionWiped a || (s.sec.stale.any (fun r => decide (r.1 ≤ a ∧ a ≤ r.2))
    && !s.sec.rewritten.contains (a / 512 * 512))

/-- Does a read of a package byte return poison? -/
def State.poisoned (s : State) (a : Nat) : Bool :=
  s.leasePoison a || s.poison.contains (a / 64 * 64) || s.regionPoison a

/-! ### Special registers (R23 to R26, Table 1.5) -/

/-- Operations forked and not complete (PEND of Table 1.6). -/
def Core.pending (k : Core) (n : Nat) : Nat := (k.held_.filter (·.slot == n)).length

/-- TSTAT (Table 1.6). Whose operations PEND counts in a handler the table does not say; here the handler's own, and not those of the
task it serves: DESIGN CHOICE (log 27). -/
def State.tstat (s : State) (c n : Nat) : Word :=
  let t := s.slot c n
  let task := if n = 4 then t.hserve else n
  let hw3 := ((s.jobOfSlot c n).map Job.hpart).getD false
  BitVec.ofNat 64 (t.lvl.toNat + (if t.dmode then 4 else 0) + 8 * task + (if n = 4 then 32 else 0)
    + (if (if n = 4 then (s.slot c task).supp else t.supp) then 64 else 0) + (if hw3 then 128 else 0)
    + 256 * (s.slot c task).fcode.toNat + 65536 * (s.core c).pending n)

/-- LNSTAT (Table 1.7, R225). -/
def State.lnstat (s : State) (c n : Nat) : Word :=
  let t := s.slot c n
  let mine := (s.core c).held_.filter fun o => o.slot == n && o.kind == .lnrun
  let park := mine.any fun o => o.pst == .parked
  BitVec.ofNat 64 (t.lnLvl.toNat + (if mine.isEmpty then 0 else 8) + (if park then 16 else 0)
    + (if t.lnErr then 32 else 0))

/-- The value MOVS reads from a special register (Table 1.5). -/
def State.readSpecial (s : State) (n : Nat) : Word :=
  let t := s.cur
  match n with
  | 0 => BitVec.ofNat 64 s.tick
  | 1 => t.wid
  | 2 => BitVec.ofNat 64 s.who.core
  | 3 => BitVec.ofNat 64 t.ctx
  | 4 => s.tstat s.who.core s.who.slot
  | 5 => t.rmode.setWidth 64
  | 6 => t.fstat.setWidth 64
  | 7 => t.bstat.setWidth 64
  | 8 => t.tdead
  | 9 => t.hcause
  | 10 => t.haddr
  | 11 => t.hpc.setWidth 64
  | 12 => t.hword.setWidth 64
  | _ => s.lnstat s.who.core s.who.slot

/-- Is a special register readable at a level (Table 1.5)? -/
def specReadable (n lvl : Nat) : Bool := !(decide (9 ≤ n ∧ n ≤ 12) && lvl == 0)

/-- Is it writable at a level (Table 1.5)? -/
def specWritable (n lvl : Nat) : Bool := decide (5 ≤ n ∧ n ≤ 8) || (n == 11 && lvl != 0)

end Sys2Proof.Machine
end

