-- ==== Sys2Proof/Machine/Engine.lean ====
section
/-!
DEFINITION. What every engine operation shares (R42 to R46, R211 to R217, R291, R347 to R351): forking, when it may
act, the four checks before an access, translation and paging, reading and writing memory of any space, completion
updates, and stopping on a fault.
-/
namespace Sys2Proof.Machine

/-! ### Forking (R42, R44) -/

/-- The next engine delay, in ticks, from the model's list of delays (R42: no fixed latency). -/
def State.popLat (s : State) : Nat × State :=
  match s.lat with
  | [] => (0, s)
  | d :: t => (d, { s with lat := t })

/-- May an operation reach host memory, so that its pace is no part of what D-mode repeats (R306)? -/
def Op.hostPart (o : Op) : Bool :=
  (o.sh1.extractLsb' 32 3 == 4) || (o.sh2.extractLsb' 32 3 == 4)
    || ((o.kind == .gath || o.kind == .gbag || o.kind == .gscat || o.kind == .gsadd)
      && (o.grec.extractLsb' 64 3 == 4 || o.grec.extractLsb' 192 3 == 4))

/-- The delay of an operation's next action: in D-mode one that the inputs of the launch decide (R306). -/
def State.opLat (s : State) (c : Nat) (o : Op) : Nat × State :=
  if o.dmode && !o.hostPart then (Config.raceDelay (s.sinceStart o.launch) c o.slot o.seq, s) else s.popLat

/-- The delay of a Y word's one access, likewise. -/
def State.wordLat (s : State) : Nat × State :=
  if s.cur.dmode then (Config.raceDelay (s.sinceStart s.cur.launch) s.who.core s.who.slot s.who.q.seq, s) else s.popLat

/-- An operation of the word being executed, with what every operation captures (R42, R266). -/
def State.newOp (s : State) (kind : OpKind) (cls : Nat) : Op :=
  let t := s.cur
  { entry := 0, fork := s.me.forkNo, kind := kind, slot := s.who.slot, launch := t.launch, lidx := t.lidx
    ctx := t.ctx, word := s.who.q.word, wpc := s.who.q.idx, seq := s.who.q.seq, iss := s.who.cyc, cls := cls, mode := s.mode
    xpay := s.who.q.pfx.xmod.getD 0, dmode := t.dmode
    wps := if s.inHandler then [] else t.wp.toList }

/-- Fork, or freeze until an entry frees (R44). The operation acts on a later tick. -/
def State.fork (s : State) (o : Op) : State :=
  match s.me.freeEntry with
  | none => s.freezeOn .tableFull none
  | some e =>
    let d := s.opLat s.who.core o
    (d.2.updMe fun k => { k with
      ops := k.ops ++ [{ o with entry := e, delay := s.tick + 1 + d.1 }], forkNo := k.forkNo + 1 }).count 4 s.who.core 1

/-! ### Clock stops (R39, R417) -/

def Core.stopped (k : Core) : Bool := k.coolStop || k.debugStop || k.tripStop

/-- A clock stop of a core by one of its causes; the first one in force gives the tick of the stop. -/
def State.stopCore (s : State) (c : Nat) (f : Core → Core) : State :=
  s.updCore c fun k => f (if k.stopped then k else { k with stopAt := s.tick })

def State.zone (s : State) (z : Nat) : Zone := s.cool.zones[z]?.getD {}

/-- The die of a package address: of a core, a shared-memory slice or an HBM stack (R282, R283, R407). -/
def dieOf (a : Nat) : Option Nat :=
  match aliasOf a with
  | some (c, _) => some (c / 16)
  | none =>
    if a < sharedEnd then some (a / 2 ^ 30)
    else if hbmBase ≤ a ∧ a < hbmEnd then some ((a - hbmBase) / 0xC00000000 / 2)
    else none

/-- The bank of a byte: shared-memory banks, then scratchpad banks by core; none of HBM (R282). -/
def linkBank (a : Nat) : Option Nat :=
  match aliasOf a with
  | some (c, x) => if x < scratchSize then some (2048 + 16 * c + x / 0x5000) else none
  | none => if a < sharedEnd then some (512 * (a / 2 ^ 30 % 4) + a / 256 % 512) else none

/-- First bytes of the flits a link engine reads on a tick. -/
def Link.reads (l : Link) (tick : Nat) : List Nat :=
  if !l.run || l.frozen then []
  else (l.timed.filter fun w => w.act == .send && decide (w.tick ≤ tick) && decide (tick < w.tick + w.n)).map fun w =>
    (w.ad.extractLsb' 0 48).toNat + 256 * (tick - w.tick)

/-- The banks that link-engine flits hold on this tick: for the four ticks that end on a landing's, and the four that begin with a
read's (R284, R395). -/
def State.linkBanks (s : State) : List Nat :=
  let ends := fun (a : Nat) => (linkBank a).toList ++ (linkBank (a + 255)).toList
  (s.fab.banks.filter fun x => x.read && decide (s.tick < x.tick + 4)).map (·.bank)
    ++ s.fab.eng.toList.flatMap fun l =>
      (l.lands.filter fun x => decide (x.tick < s.tick + 4) && match x.kind with
        | .signal _ => false
        | _ => true).flatMap (fun x => ends x.addr) ++ (l.reads s.tick).flatMap ends

/-- Does a link engine hold the bank of an address? -/
def State.linkHolds (s : State) (a : Nat) : Bool := ((linkBank a).map fun b => s.linkBanks.contains b).getD false

/-- Does a link engine hold a bank of a core's scratchpad, on which the CP's writes there wait (R284)? -/
def State.flitOnCore (s : State) (c : Nat) : Bool :=
  s.linkBanks.any fun b => decide (2048 + 16 * c ≤ b) && decide (b < 2064 + 16 * c)

/-- Do accesses of a core to a package address stand still: its bank, channel or core is clock-stopped, or outside the core the fabric
of either die, and between dies the links of either (Table 13.1, R417, R420)? -/
def State.clockStopped (s : State) (c a : Nat) : Bool :=
  let e := c / 16
  match aliasOf a, dieOf a with
  | some (x, _), some d => (s.core x).stopped
      || x != c && ((s.zone (20 * d + 19)).halted || (s.zone (20 * e + 19)).halted
        || d != e && ((s.zone (20 * d + 18)).halted || (s.zone (20 * e + 18)).halted))
  | none, some d => (s.zone (20 * d + if a < sharedEnd then 16 else 17)).halted
      || (s.zone (20 * d + 19)).halted || (s.zone (20 * e + 19)).halted
      || d != e && ((s.zone (20 * d + 18)).halted || (s.zone (20 * e + 18)).halted)
  | _, none => false

/-- Do accesses of a core to a package address wait: for a stopped clock, or a link engine's flit at the bank (R395)? -/
def State.bankStopped (s : State) (c a : Nat) : Bool := s.clockStopped c a || s.linkHolds a

/-- Does a context's traffic with its host go by an IDE stream that is Insecure: its TLPs are no longer sent or accepted (R451)? -/
def State.insecure (s : State) (ctx : Nat) : Bool := s.sec.insecure.any (Config.streamOf ctx)

/-- Does an access of a unit that is no core's wait there: the CP, the trace unit? -/
def State.unitWaits (s : State) (a : Nat) : Bool := s.bankStopped (16 * (dieOf a).getD 0) a

/-- The bank's ALU has updated another line on this tick, or has no room for so many bytes more in this one (R284). -/
def State.aluTaken (s : State) (a n : Nat) : Bool :=
  match linkBank a with
  | none => false
  | some b => s.banks.alu.any fun x => x.1 == s.tick && x.2.1 == b && (x.2.2.1 != a / 64 || decide (64 < x.2.2.2 + n))

/-- Its ALU updates so many bytes of a line on this tick. -/
def State.aluTake (s : State) (a n : Nat) : State :=
  match linkBank a with
  | none => s
  | some b =>
    let now := s.banks.alu.filter (·.1 == s.tick)
    let had := ((now.find? fun x => x.2.1 == b && x.2.2.1 == a / 64).map (·.2.2.2)).getD 0
    { s with banks := { s.banks with
      alu := (s.tick, b, a / 64, had + n) :: now.filter fun x => !(x.2.1 == b && x.2.2.1 == a / 64) } }

/-- Where an access to an address waits: a bank, or an HBM channel group. -/
def waitPlace (a : Nat) : Nat := (linkBank a).getD (10000 + (dieOf a).getD 0)

/-! ### When an operation may act (R238, R291) -/

/-- The ordering class of a matrix word's accesses (R290). -/
def MatOp.cls (m : MatOp) : Nat :=
  if m.kind = .mldb then m.wcls.getD (fld m.word.toNat 7 4) else 0

/-- Has every task of a launch with a lower logical index retired (R238)? -/
def Job.retiredBelow (j : Job) (l : Nat) : Bool :=
  decide (l ≤ j.low) || (List.range l).all fun i => decide (i < j.low) || j.high.contains i

/-- The package bytes, first and past the last, that a gather record's table and a shape's elements take. -/
def tableRange (grec : BitVec 512) : Nat × Nat :=
  let f := fun lo len => (grec.extractLsb' lo len).toNat
  (f 0 64, f 0 64 + f 80 16 * f 96 32)

def shapeRange (sh : Shape256) : Nat × Nat :=
  let h := shapeOf sh
  let bs := h.corners.flatMap fun (i, j) => h.bitsOf 32 1 i j
  ((bs.foldl min (8 * h.addr) / 8).toNat, (bs.foldl max (8 * h.addr) / 8).toNat + 1)

/-- The package bytes a ticketed float update may touch, first and past the last. -/
def Op.ticketRange (o : Op) : Nat × Nat :=
  match o.kind with
  | .afadd => (o.addr.toNat, o.addr.toNat + o.width)
  | .gsadd => tableRange o.grec
  | _ => shapeRange o.sh2

/-- Is the operation a ticketed float update (R238)? -/
def Op.isTicketed (o : Op) : Bool :=
  match o.kind with
  | .afadd => true
  | .gsadd => (fmtOfBits o.f1.2).kind == .float
  | .nred => o.xpay.extractLsb' 4 4 == 0 && (fmtOfBits o.f2.2).kind == .float
  | _ => false

/-- An earlier word of the task holds a lower ticket for an element the operation may touch, or for the same
end of the same queue (R238, R243). -/
def ticketBehind (o x : Op) : Bool :=
  x.slot == o.slot && decide (x.seq < o.seq) && x.pst != .done && !x.finished &&
    match o.kind with
    | .qpush | .qpop => x.kind == o.kind && x.addr == o.addr
    | _ => x.isTicketed && decide (x.ticketRange.1 < o.ticketRange.2)
             && decide (o.ticketRange.1 < x.ticketRange.2)

/-- Every earlier access of the task in the operation's class has performed (Table 9.4): earlier in the order of issue. A ticketed update
that must come after this one by its ticket holds it not, whatever the classes (R238). -/
def State.classClear (s : State) (c : Nat) (o : Op) : Bool :=
  let k := s.core c
  !(k.ops.any fun x => x.slot == o.slot && x.cls == o.cls && decide (x.fork < o.fork)
      && x.pst != .done && !x.finished && !(o.isTicketed && x.isTicketed && ticketBehind x o))
    && !(s.sync.any fun u => u.core == c && u.op == some (o.slot, o.cls))
    && !((k.slot o.slot).landings.any fun l => l.cls == some o.cls && issuedBefore l.iss l.seq o.iss o.seq)
    && !(k.mats.any fun m => m.slot == o.slot && m.forOp.isNone && m.cls == o.cls && m.accessing k.cyc
      && issuedBefore m.iss m.seq o.iss o.seq)

/-- The bytes that a word which has not issued would update as a ticketed float update, by its task's registers as they stand. -/
def State.queuedRange (s : State) (c : Nat) (t : Slot) (q : QWord) : Option (Nat × Nat) :=
  let r := t.regs
  match decode q.word 0 with
  | some (.afadd _ a _ wd) => some ((r.readG a.toNat).toNat, (r.readG a.toNat).toNat + 2 ^ wd.toNat)
  | some (.gsadd a _) => some (tableRange (BitVec.ofNat 512 (s.localNat c (r.readG a.toNat).toNat 64)))
  | some (.nred _ d _ _) =>
    if (q.pfx.xmod.getD 0).extractLsb' 4 4 == 0 && (fmtOfBits ((shapeOf (r.readSh d.toNat)).operand (s.core c) r).word).kind == .float then
      some (shapeRange (r.readSh d.toNat))
    else none
  | _ => none

/-- Has the task of an operation, earlier in its stream, a ticketed float update of the same bytes that has not issued (R238)? -/
def State.ticketQueued (s : State) (c : Nat) (o : Op) : Bool :=
  let t := s.slot c o.slot
  t.queues.toList.any fun xs => xs.any fun q => decide (q.seq < o.seq) && match s.queuedRange c t q with
    | some x => decide (x.1 < o.ticketRange.2) && decide (o.ticketRange.1 < x.2)
    | none => false

/-- The operation's ticket has come up (R238, R243). -/
def State.ticketClear (s : State) (c : Nat) (o : Op) : Bool :=
  (match o.launch.bind s.job with
   | some j => j.retiredBelow o.lidx
   | none => true)
    && !(s.core c).ops.any (ticketBehind o)
    && !(o.isTicketed && s.ticketQueued c o)

/-- Does an operation act outside its core, at a bank, in the format-table network, at the cooling controller? -/
def OpKind.outside (k : OpKind) : Bool :=
  match k with
  | .aadd | .aand | .aor | .axor | .amin | .amax | .afadd | .qpush | .arrive | .ftw | .flowreq | .cinit
  | .nfill | .ncopy | .ncmp | .nred => true
  | _ => false

/-- Does a clock stop of its core hold an operation: one of the core's own engines, or one with an update to make in the core
(R39, R417)? -/
def Op.heldBy (o : Op) (k : Core) : Bool :=
  k.stopped && !(o.kind.outside && (!o.hasComp || o.comp.getLsbD 62 || o.kind == .flowreq))

/-- May an operation take its next action on this tick? -/
def State.opReady (s : State) (c : Nat) (o : Op) : Bool :=
  o.pst == .run && !o.finished && decide (o.delay ≤ s.tick) && !o.heldBy (s.core c) && s.classClear c o
    && ((!o.isTicketed && o.kind != .qpush && o.kind != .qpop) || s.ticketClear c o)

/-- Is an operation's access to waiting places behind one that came to one of them before it and still waits there (R284, R417)? -/
def State.behindOthers (s : State) (c fork : Nat) (places : List Nat) : Bool :=
  let ahead := s.banks.waiting.takeWhile fun x => !(x.1 == c && x.2.1 == fork)
  ahead.any fun x => x.2.2.any places.contains
    && ((s.core x.1).ops.find? fun o => o.fork == x.2.1 && s.opReady x.1 o).isSome

/-- It waits in order of its arrival, or goes on. -/
def State.joinQueue (s : State) (c fork : Nat) (places : List Nat) : State :=
  if s.banks.waiting.any fun x => x.1 == c && x.2.1 == fork then s
  else { s with banks := { s.banks with waiting := s.banks.waiting ++ [(c, fork, places)] } }

def State.leaveQueue (s : State) (c fork : Nat) : State :=
  if s.banks.waiting.isEmpty then s
  else { s with banks := { s.banks with waiting := s.banks.waiting.filter fun x => !(x.1 == c && x.2.1 == fork)
    && ((s.core x.1).ops.any fun o => o.fork == x.2.1 && o.pst != .done) } }

/-- An update of one object of so many bytes at its bank: it waits for a stopped clock, a link engine's flit, another line of the tick at
the bank's ALU, and those that came before it (R284, R395, R417). -/
def State.atBank (s : State) (c : Nat) (o : Op) (a n : Nat) (go : State → State) : State :=
  if s.bankStopped c a || s.aluTaken a n || s.behindOthers c o.fork [waitPlace a] then s.joinQueue c o.fork [waitPlace a]
  else go ((s.leaveQueue c o.fork).aluTake a n)

/-- May a multicast store land on this tick: its own has come, and the accesses before it in its class have performed (R227,
R291)? -/
def State.mcstReady (s : State) (c : Nat) (o : Op) : Bool :=
  o.kind == .mcst && o.pst == .run && !o.finished && (o.atTick.map fun t => decide (t ≤ s.tick)).getD false && s.classClear c o

/-! ### Memory of any space (Table 9.1) -/

/-- The PASID and attachment of a context (Table 15.3). -/
def Ctx.pasid (x : Ctx) : BitVec 20 := x.cfg.extractLsb' 0 20
def Ctx.host (x : Ctx) : Nat := (x.cfg.extractLsb' 20 2).toNat
def Ctx.cmask (x : Ctx) : Word := x.cfg.extractLsb' 64 64

/-- The key of address 0 of a shape's space in the memory that holds it. -/
def State.spaceBase (s : State) (c : Nat) (o : Op) (space : Nat) : Nat :=
  match space with
  | 0 | 1 => localAddr c 0
  | 4 => hostKey (s.ctx o.ctx).pasid 0
  | _ => 0

def State.spaceMem (s : State) (o : Op) (space : Nat) : Memory :=
  match space with
  | 4 => s.hostMem
  | 5 => o.taken
  | _ => s.mem

/-- Clear the poison mark of lines, and note granules, that one write covers whole (R451, R455). -/
def State.unmark (s : State) (addrs : List Nat) : State :=
  if s.poison.isEmpty && s.sec.stale.isEmpty then s
  else
    let covers := fun (lo n : Nat) => (List.range n).all fun i => addrs.contains (lo + i)
    let grans := if s.sec.stale.isEmpty then [] else
      (addrs.filter (· % 512 == 0)).filter fun g => covers g 512
    { s with
      poison := s.poison.filter fun l => s.cp.retired.contains l || !covers l 64
      sec := { s.sec with rewritten := grans ++ s.sec.rewritten } }

/-- The bytes of a write that do not fall into a region whose key slot was wiped: those are dropped (R451). -/
def State.keyed (s : State) (xs : List MByte) : List MByte :=
  if s.sec.hwiped == 0 then xs else xs.filter fun x => !s.regionWiped x.addr

/-- Write masked bytes at package addresses; bytes of a core's memory set its dirty bits (R328). -/
def State.writePackage (s : State) (xs : List MByte) : State :=
  let s1 := xs.foldl (fun s x => match aliasOf x.addr with
    | some (c, a) => s.updCore c (·.dirty a)
    | none => s) s
  { s1 with mem := s1.mem.writeMasked xs }

/-- Does an entry translate a virtual address of a PASID for a host (Table 11.6)? -/
def TEntry.covers (e : TEntry) (pasid : BitVec 20) (host a : Nat) : Bool :=
  let n := 2 ^ (9 * e.size.toNat)
  e.pasid == pasid && e.host.toNat == host && a / 4096 / n == e.vpn.toNat / n

/-- Pages of 4 KiB in an entry's range. -/
def TEntry.pages (e : TEntry) : Nat := 2 ^ (9 * e.size.toNat)

/-- The host page that an entry gives a virtual address in its range. -/
def TEntry.page (e : TEntry) (a : Nat) : Nat := e.ppn.toNat / e.pages * e.pages + a / 4096 % e.pages

/-- The virtual address by which an entry names a byte of a host page in its range. -/
def TEntry.named (e : TEntry) (page a : Nat) : Nat := (e.vpn.toNat / e.pages * e.pages + page % e.pages) * 4096 + a % 4096

/-- Is a host page in an entry's range? -/
def TEntry.holds (e : TEntry) (host : BitVec 2) (page : Nat) : Bool := e.host == host && page / e.pages == e.ppn.toNat / e.pages

/-- The host page of a virtual address, as far as hosts have shown it. -/
def State.hostPage (s : State) (host : Nat) (pasid : BitVec 20) (a : Nat) : Option Nat :=
  (s.hosts.pages.find? fun (e : TEntry) => e.covers pasid host a).map (·.page a)

/-- The keys by which a byte of host memory is known: its own, and those of other virtual addresses of the same host page (R219). -/
def State.hostNames (s : State) (host : Nat) (pasid : BitVec 20) (a : Nat) : List Nat :=
  let same := match s.hostPage host pasid a with
    | none => []
    | some page => (s.hosts.pages.filter fun (y : TEntry) => y.holds (BitVec.ofNat 2 host) page).map fun (y : TEntry) => hostKey y.pasid (y.named page a)
  hostKey pasid a :: (same.filter (· != hostKey pasid a)).eraseDups

def State.hostKeys (s : State) (o : Op) (a : Nat) : List Nat := s.hostNames (s.ctx o.ctx).host (s.ctx o.ctx).pasid a

/-- A host has shown the page of a virtual address: what is known of it by another name holds for this one too. -/
def State.learnPages (s : State) (e : TEntry) : State :=
  let fresh := !s.hosts.pages.contains e
  let base := e.vpn.toNat / e.pages * e.pages * 4096
  let other := (s.hosts.pages.filter fun (y : TEntry) => y != e && y.host == e.host
    && (y.ppn.toNat / (max y.pages e.pages) == e.ppn.toNat / (max y.pages e.pages)))
  let mem := if !fresh then s.hostMem else other.foldl (fun (m : Memory) (y : TEntry) =>
    let shared := fun (va : Nat) => e.holds y.host (y.page va)
    let from_ := m.filter fun x => decide (hostKey y.pasid 0 ≤ x.1) && y.covers y.pasid y.host.toNat (x.1 - hostKey y.pasid 0)
      && decide (x.1 < hostKey y.pasid (2 ^ 64)) && shared (x.1 - hostKey y.pasid 0)
    let kept := m.filter fun x => !(decide (hostKey e.pasid base ≤ x.1) && decide (x.1 < hostKey e.pasid (base + 4096 * e.pages))
      && y.holds e.host (e.page (x.1 - hostKey e.pasid 0)))
    from_.foldl (fun m x =>
      let va := x.1 - hostKey y.pasid 0
      m.set (hostKey e.pasid (e.named (y.page va) va)) x.2) kept) s.hostMem
  { s with hostMem := mem, hosts := { s.hosts with pages := if fresh then e :: s.hosts.pages else s.hosts.pages } }

/-- Masked bytes go to host memory, under every name of their pages (R219, R301). -/
def State.writeHost (s : State) (host : Nat) (pasid : BitVec 20) (xs : List MByte) : State :=
  let ys := xs.flatMap fun x => (s.hostNames host pasid x.addr).map fun a => { x with addr := a }
  { s with hostMem := s.hostMem.writeMasked ys }

/-- Hosts write to their own memory on this tick (R301). -/
def State.hostsWrite (s : State) : State :=
  let due := s.hosts.writes.filter fun w => decide (w.1 ≤ s.tick)
  if due.isEmpty then s
  else due.foldl (fun (s : State) w => s.writeHost w.2.1 w.2.2.1 (bytesToMasked w.2.2.2.1 w.2.2.2.2))
    { s with hosts := { s.hosts with writes := s.hosts.writes.filter fun w => decide (s.tick < w.1) } }

/-- A destination is one that the task's writes to host memory have reached (R258). -/
def Slot.reaches (t : Slot) (dest : Nat × Nat) : Slot :=
  if t.flushTo.contains dest then t else { t with flushTo := dest :: t.flushTo }

/-- The PCIe destination of a virtual address: an attachment's host port, or a peer device (R258). -/
def State.hostDest (s : State) (host : Nat) (pasid : BitVec 20) (a : Nat) : Nat × Nat :=
  (host, (((s.hostPage host pasid a).bind (Config.peerOf host)).map (· + 1)).getD 0)

/-- Write masked bytes an operation gives in a shape's space. -/
def State.writeSpace (s : State) (c : Nat) (o : Op) (space : Nat) (xs : List MByte) : State :=
  if space = 4 then
    let x := s.ctx o.ctx
    let dests := (xs.map fun y => s.hostDest x.host x.pasid y.addr).eraseDups
    (s.writeHost x.host x.pasid xs).updSlot c o.slot fun t => dests.foldl (·.reaches ·) t
  else
    let b := s.spaceBase c o space
    s.writePackage (xs.map fun x => { x with addr := x.addr + b })

/-- Where the old value of a byte is kept: bytes of host memory apart from package addresses. -/
def oldKey (space a : Nat) : Nat := if space = 4 then a + 2 ^ 100 else a

/-- What a byte held before the operation's first write to it. -/
def Op.firstOld (o : Op) (key : Nat) : Option Byte :=
  o.olds.foldl (fun r x => if x.key == key then some x.byte else r) none

/-- Container bits of an element; bytes the operation has itself written read as either value (R219). -/
def State.readElem (s : State) (c : Nat) (o : Op) (space : Nat) (ps : Pieces) : Nat × State :=
  let b := s.spaceBase c o space
  let qs := ps.map fun (ba, w, at_) => (ba + 8 * b, w, at_)
  let m := s.spaceMem o space
  if !o.overlap || space == 5 then (m.gather qs, s)
  else
    let r := (piecesBytes qs).foldl (fun (acc : Memory × State) a =>
      match o.firstOld (oldKey space a) with
      | none => acc
      | some old =>
        let f := acc.2.raceOld (o.dmode && space != 4) o.launch c o.seq a
        (if f.1 then acc.1.set a old else acc.1, f.2)) (m, s)
    (r.1.gather qs, r.2)

/-- Is a package address in the memory of core c? -/
def inCore (c a : Nat) : Bool := (aliasOf a).any (·.1 == c)

/-- Write an element, keeping what its bytes held where the operation's own reads (R219) or loads of its task before the join
(R134, R177) may meet them: byte by byte (Table 9.3). -/
def State.writeElem (s : State) (c : Nat) (o : Op) (space : Nat) (ps : Pieces) (bits : Nat) : State × Op :=
  let xs := scatter ps bits
  let b := s.spaceBase c o space
  let as := xs.flatMap fun x => if space = 4 then s.hostKeys o x.addr else [x.addr + b]
  let kept := as.filter fun a => o.overlap || (space != 4 && inCore c a)
  let r := s.noteWrite c o (s.spaceMem o space) false (kept.map fun a => (oldKey space a, a))
  (r.1.writeSpace c o space xs, r.2)

/-! ### The checks before an access (R216, R266, R286, R361) -/

/-- One byte an operation is to access, at the address the program gave. -/
structure OpByte where
  space : Nat
  addr  : Nat
  rd    : Bool
  wr    : Bool
  alu   : Bool := false
  deriving DecidableEq, Repr

/-- The bytes of an element's pieces. -/
def opBytes (space : Nat) (rd wr alu : Bool) (ps : Pieces) : List OpByte :=
  (piecesBytes ps).map fun a => { space := space, addr := a, rd := rd, wr := wr, alu := alu }

/-- Lowest address among the bytes a test selects. -/
def lowest (xs : List OpByte) (bad : OpByte → Bool) : Option Nat :=
  firstByte ((xs.filter bad).map (·.addr)) fun _ => true

/-- SPC of Table 8.8 for a shape's space. -/
def spcOf (space : Nat) : Option Nat :=
  match space with
  | 0 | 1 => some 0
  | 2 | 3 => some 1
  | 4 => some 2
  | _ => none

def OpByte.watched (wps : List (BitVec 128)) (b : OpByte) : Bool :=
  match spcOf b.space with
  | none => false
  | some spc => (b.rd && (wpHit wps false spc b.addr 1).isSome) || (b.wr && (wpHit wps true spc b.addr 1).isSome)

/-- May an operation of a slot access the byte (R131, R286)? -/
def State.byteAllowed (s : State) (o : Op) (b : OpByte) : Bool :=
  decide ((spaceRange b.space).1 ≤ b.addr ∧ b.addr < (spaceRange b.space).2) &&
  match b.space with
  | 0 | 1 => byteGranted (o.launch.bind s.job) (o.slot == 4) b.addr
  | 2 | 3 => ((s.ctx o.ctx).outside (if b.alu then .alu else if b.wr then .write else .read) b.addr 1).isNone
  | _ => true

/-- Where the completion updates of chunks of an operation go: the bytes of a bitmap that they touch, or the synchronisation word. -/
def Op.compBytes (o : Op) (c : Nat) (ns : List Nat) : List Nat :=
  let a := compPackage c o.comp
  if !o.hasComp || ns.isEmpty then []
  else if compBitmap o.comp then (ns.map fun n => a + n / 8).eraseDups
  else [a]

/-- Does the access meet poison (R361, R451)? -/
def State.byteBad (s : State) (o : Op) (b : OpByte) : Bool :=
  match b.space with
  | 2 | 3 => (b.rd && s.poisoned b.addr) || (b.wr && s.regionWiped b.addr)
  | 4 => b.rd && s.hostPoison.contains (hostKey (s.ctx o.ctx).pasid b.addr / 64 * 64)
  | _ => false

/-! ### Translation (R347 to R349) -/

/-- Use an entry that permits the access, moving it to the front: the list is kept most recent first (R347, R348). -/
def Core.translate (k : Core) (pasid : BitVec 20) (host a : Nat) (rd wr : Bool) : Option Core :=
  (k.tlb.find? fun e => e.covers pasid host a && (!rd || e.rd) && (!wr || e.wr)).map fun e =>
    { k with tlb := e :: k.tlb.filter (· != e) }

/-- Insert a number in ascending order, once. -/
def insertNat (x : Nat) : List Nat → List Nat
  | [] => [x]
  | y :: t => if x < y then x :: y :: t else if x = y then y :: t else y :: insertNat x t

/-- The host pages bytes touch, in ascending order. -/
def pagesOf (xs : List OpByte) : List Nat :=
  xs.foldl (fun ps b => if b.space = 4 then insertNat (b.addr / 4096) ps else ps) []

/-- Why a step of an operation does not go on: a fault, no translation of an address for an access, or places at which it must wait. -/
inductive OpStop where
  | fault (code : FaultCode) (addr : Nat)
  | miss (addr : Nat) (rd wr : Bool)
  | wait (places : List Nat)
  deriving DecidableEq, Repr

abbrev Check (α : Type) := Except OpStop α

/-- The page loop of R348. -/
def State.translatePages (s : State) (c : Nat) (o : Op) (xs : List OpByte) : List Nat → Check State
  | [] => .ok s
  | p :: ps =>
    let mine := xs.filter fun b => b.space == 4 && b.addr / 4096 == p
    let a := (lowest mine fun _ => true).getD (p * 4096)
    let rd := mine.any (·.rd)
    let wr := mine.any (·.wr)
    if o.xl.any fun x => x.1 == p && (!rd || x.2.1) && (!wr || x.2.2) then s.translatePages c o xs ps
    else match (s.core c).translate (s.ctx o.ctx).pasid (s.ctx o.ctx).host a rd wr with
      | some k => (s.setCore c k).translatePages c o xs ps
      | none => .error (.miss a rd wr)

/-- A fault at an address, if there is one. -/
def stopAt (code : FaultCode) : Option Nat → Check Unit
  | some a => .error (.fault code a)
  | none => .ok ()

/-- WATCHPOINT, WINDOW_VIOLATION, PAGE_FAULT, POISON, in this order, for the bytes of one step (R216). -/
def State.opChecks (s : State) (c : Nat) (o : Op) (xs : List OpByte) : Check State := do
  stopAt .watchpoint (if o.supp then none else lowest xs (·.watched o.wps))
  stopAt .windowViolation (lowest xs fun b => !s.byteAllowed o b)
  if xs.any (·.space == 4) && s.insecure o.ctx then .error (.wait [])
  let s1 ← s.translatePages c o xs (pagesOf xs)
  let held := s.linkBanks
  let at_ := (xs.filter (·.space < 4)).map fun b => if b.space < 2 then localAddr c b.addr else b.addr
  let stands := fun (a : Nat) => s.clockStopped c a || !held.isEmpty && ((linkBank a).map held.contains).getD false
  let places := (at_.map waitPlace).eraseDups
  if at_.any stands || (!s.banks.waiting.isEmpty && s.behindOthers c o.fork places) then .error (.wait places)
  stopAt .poison (lowest xs (s1.byteBad o))
  return s1.leaveQueue c o.fork

/-- May the completion updates of chunks be made now: a bank's read-modify-write waits as any other (R284, R417), and raises POISON for
the chunk in a line marked poisoned (R455). -/
def State.compReady (s : State) (c : Nat) (o : Op) (ns : List Nat) : Check Unit := do
  let bs := o.compBytes c ns
  let places := (bs.map waitPlace).eraseDups
  if bs.any (fun a => s.bankStopped c a || s.aluTaken a (if compBitmap o.comp then 1 else 32))
      || (!bs.isEmpty && s.behindOthers c o.fork places) then .error (.wait places)
  stopAt .poison (bs.find? fun x => s.poison.contains (x / 64 * 64))

/-! ### Stopping and parking (R211, R343, R349, R359) -/

/-- An operation as the table holds it takes a new value. -/
def State.setOp (s : State) (c : Nat) (o : Op) : State := s.updCore c (·.updOp o.entry fun _ => o)

/-- An operation stops on a fault, which goes to its task (R343); a violation freezes it, and its task where it is switched out
(Table 1.3, R359). -/
def State.stopOp (s : State) (c : Nat) (o : Op) (code : FaultCode) (addr : Nat) : State :=
  let o' := { o with pst := if code = .windowViolation then .frozen else .stopped }
  let f : Raised := { code := code, addr := BitVec.ofNat 64 addr, idx := o.wpc, word := o.word
                      async := true, entry := o.entry, seq := o.seq, fork := o.fork, tick := s.tick }
  let out := code == .windowViolation && !((s.core c).hslot.st != .empty && (s.core c).hslot.hserve == o.slot)
  (s.setOp c o').updSlot c o.slot fun t => { (if out && (t.st == .standby || t.st == .blocked) then t.freezeBy f else t) with
    waiting := t.waiting ++ [f]
    lnErr := t.lnErr || (o.kind == .lnrun && code != .pageFault) }

/-- A translation is requested; the operation waits in XLATE (R348). After a function-level reset none can be: PAGE_FAULT (R460). -/
def State.askXlate (s : State) (c : Nat) (o : Op) (a : Nat) (rd wr : Bool) : State :=
  if (s.cp.atsOff[(s.ctx o.ctx).host]?).getD false then s.stopOp c o .pageFault a
  else ((s.setOp c { o with pst := .xlate, xaddr := BitVec.ofNat 64 a, needR := rd, needW := wr, asked := false }).emit
    (.ats c o.entry (s.ctx o.ctx).pasid (BitVec.ofNat 64 a))).count 6 c 1

/-- Page requests outstanding at an attachment (R349). -/
def State.pagesOut (s : State) (host : Nat) : Nat := s.cp.groups.countP (·.1 == host)

/-- The Page Request Groups that stand unanswered, and their count. -/
def State.setGroups (s : State) (gs : List (Nat × Nat)) : State := { s with cp := { s.cp with groups := gs, pages := gs.length } }

/-- A refused translation: PAGE_FAULT where PRI is off or four answers did not help, else the operation parks and
asks for the page under a group index of its own, within the allocation the host grants, 512 at most (R349). -/
def State.parkOp (s : State) (c : Nat) (o0 : Op) : State :=
  let o := { o0 with faddr := o0.xaddr }
  let x := s.ctx o.ctx
  if s.cp.priOff[x.host]?.getD false || decide (4 ≤ o.tries) then s.stopOp c o .pageFault o.xaddr.toNat
  else if min 512 (s.cp.priAlloc[x.host]?.getD 0) ≤ s.pagesOut x.host then s.setOp c { o with pst := .parked, asked := false }
  else
    let g := ((List.range 512).find? fun g => !s.cp.groups.contains (x.host, g)).getD 0
    (((s.setOp c { o with pst := .parked, asked := true, group := g }).setGroups (s.cp.groups ++ [(x.host, g)])).emit
      (.pri c o.entry g x.pasid o.xaddr o.needR o.needW)).count 7 c 1

/-- The outcome of a step: go on, or stop or ask for a translation. -/
def State.settle {α : Type} (s : State) (c : Nat) (o : Op) (r : Check α) (go : α → State) : State :=
  match r with
  | .ok x => go x
  | .error (.fault code a) => s.stopOp c o code a
  | .error (.miss a rd wr) => s.askXlate c o a rd wr
  | .error (.wait places) => s.joinQueue c o.fork places

def State.afterChecks (s : State) (c : Nat) (o : Op) (xs : List OpByte) (go : State → State) : State :=
  s.settle c o (s.opChecks c o xs) go

/-! ### Completion (R217, R222) -/

/-- A bank ALU of a die's slice applies updates at a package address (R284, Table 14.6). -/
def State.aluUpdate (s : State) (a n : Nat) : State := if a < sharedEnd then s.count 8 (a / 2 ^ 30) n else s

/-- Bytes that a unit other than a task's own operation writes at package addresses: they are visible to every task (R289). -/
def State.writeUnit (s : State) (xs : List MByte) : State := (s.writePackage xs).overOlds xs

/-- The completion update of one chunk of a size in bytes, a release of what the operation has written (R217, R294). -/
def State.compUpdate (s : State) (c : Nat) (o : Op) (n size : Nat) : State :=
  if !o.hasComp then s
  else
    let a := compPackage c o.comp
    let s1 := if o.olds.isEmpty then s else s.releaseTo a [(c, o.fork, (s.core c).writes)]
    if compBitmap o.comp then
      ((s1.writeUnit [{ addr := a + n / 8, bits := BitVec.ofNat 8 (2 ^ (n % 8)), mask := BitVec.ofNat 8 (2 ^ (n % 8)) }]).aluTake
        (a + n / 8) 1).aluUpdate a 1
    else
      let f : Raised := { code := .poison, idx := o.wpc, word := o.word, async := true, entry := o.entry, seq := o.seq, fork := o.fork }
      { s1 with sync := s1.sync ++ [{ addr := a, bytes := size, core := c, op := some (o.slot, o.cls), by_ := some f }] }

/-- The operation's last update has been made: its entry frees, or under a bound trap it stops (R220). -/
def State.endOp (s : State) (c : Nat) (o : Op) : State :=
  match o.trap with
  | some a => s.stopOp c { o with finished := true } .boundTrap a.toNat
  | none => s.setOp c { o with finished := true, pst := .done }

/-- A ticketed update or queue step of a task has applied (R421). -/
def State.noteTicket (s : State) (o : Op) : State :=
  match o.launch with
  | some n => s.updJob n fun j => if j.ticketed.contains o.lidx then j else { j with ticketed := o.lidx :: j.ticketed }
  | none => s

/-- The delay before the operation's next action; no translation is outstanding for what it has done. -/
def State.pace (s : State) (c : Nat) (o : Op) : Op × State :=
  let d := s.opLat c o
  ({ o with delay := s.tick + 1 + d.1, needR := false, needW := false }, d.2)

end Sys2Proof.Machine
end

