-- ==== Sys2Proof/Machine/Landing.lean ====
section
/-!
DEFINITION. What a landing does to its slot, core and memory (R32, R34, R37), the bound checks made when a
checked store or VBND lands (R113, R114), faults raised at a landing (R499), and the landings of one cycle.
-/
namespace Sys2Proof.Machine

/-- A fault at a landing: entered at once where the task is issuing, frozen by its own word or RETIRING and no
handler runs or is being entered; otherwise it waits with the task (R499). -/
def State.raiseLanded (s : State) (c n : Nat) (f : Raised) : State :=
  let t := s.slot c n
  let x := { f with landed := true, tick := s.tick }
  let busy := n != 4 && (s.core c).hslot.st != .empty
  if !busy && (t.st == .active || t.st == .retiring) then s.setSlot c n (t.takeFault x (s.tick, (s.core c).cyc))
  else s.setSlot c n { t with waiting := t.waiting ++ [x] }

/-- A lower address out of range in a later row of a word that has raised BOUND_TRAP: HADDR names the lowest of the word
(R114). -/
def Raised.lower (f : Raised) (seq a : Nat) : Raised :=
  if f.landed && f.code == .boundTrap && f.seq == seq && decide (a < f.addr.toNat) then { f with addr := BitVec.ofNat 64 a }
  else f

/-- The address reaches the fault where it stands: at the boundary, among those that wait, or entered. No handler word issues
before the last row of the word (R38, R339). -/
def State.lowerTrap (s : State) (c n seq a : Nat) : State :=
  let h := (s.core c).hslot
  let s1 := s.updSlot c n fun t => { t with flt := t.flt.map (·.lower seq a), waiting := t.waiting.map (·.lower seq a) }
  match h.hfault with
  | some f =>
    if n != 4 && h.st != .empty && h.hserve == n && f.lower seq a != f then
      (s1.updSlot c 4 fun x => { x with hfault := some (f.lower seq a), haddr := (f.lower seq a).addr }).updSlot c n
        fun t => { t with haddr := (f.lower seq a).addr }
    else s1
  | none => s1

/-- What a checked store of elements does under a bound register: bytes stored, BSTAT bits, and the lowest
byte address of an element out of range under ACT 3 (R114). -/
def checkElems (e : Fmt) (b : Bound) (bn : Nat) (xs : List Elem) :
    List MByte × BitVec 16 × Option Nat :=
  xs.foldl (fun (acc : List MByte × BitVec 16 × Option Nat) x =>
    let r := boundCheck e b.lo b.hi b.act x.bits
    let out := match r.bits with
      | some v => acc.1 ++ scatter x.pieces v
      | none => acc.1
    let hit := if r.hit then acc.2.1 ||| ((1 : BitVec 16) <<< bn) else acc.2.1
    let low := if r.trap then
        some (match acc.2.2 with | some a => min a (piecesLow x.pieces) | none => piecesLow x.pieces)
      else acc.2.2
    (out, hit, low)) ([], 0, none)

/-- VBND at its landing: lanes written, BSTAT bits, lowest lane out of range under ACT 3 (R180). -/
def checkLanes (e : Fmt) (b : Bound) (bn : Nat) (xs : List Half) (mask : Word) :
    List Half × Word × BitVec 16 × Option Nat :=
  (List.range 64).foldr (fun n (acc : List Half × Word × BitVec 16 × Option Nat) =>
    if mask.getLsbD n then
      let x := (lane xs n).toNat % 2 ^ e.tw
      let r := boundCheck e b.lo b.hi b.act x
      (BitVec.ofNat 32 (r.bits.getD 0) :: acc.1,
       if r.bits.isSome then acc.2.1 ||| ((1 : Word) <<< n) else acc.2.1,
       if r.hit then acc.2.2.1 ||| ((1 : BitVec 16) <<< bn) else acc.2.2.1,
       if r.trap then some n else acc.2.2.2)
    else (0 :: acc.1, acc.2.1, acc.2.2.1, acc.2.2.2)) ([], 0, 0, none)

/-- Slot w's live copy, and the odd and even slots of a pair (R188, R189): a load empties the other slot of a
loaded pair, and the odd slot of the pair it makes. -/
def Core.loadSlot (k : Core) (w : Nat) (b : WSlot) : Core :=
  let other := if w % 2 = 0 then w + 1 else w - 1
  let o := k.ws[other]?.getD {}
  let o' : WSlot := if b.pair then {} else if w % 2 = 1 && o.pair then { pending := o.pending } else o
  { k with ws := (k.ws.setIfInBounds other o').setIfInBounds w { b with pending := false }
           dirtyW := k.dirtyW ||| ((1 : BitVec 4) <<< w) ||| (if b.pair then (1 : BitVec 4) <<< other else 0) }

/-- MSLOTINV (R208), or an MLDBS that fails at its landing (R196), which was to fill a pair where `pair` says so: the slot,
and with it the pair it names, is EMPTY; a pending load is cancelled. -/
def Core.clearSlot (k : Core) (w : Nat) (pair : Bool) : Core :=
  let half := pair || k.mats.any fun m => m.kind == .mldb && m.wslot == w && (fmtOfBits m.fa.2).tw == 16
  let ws := if half then k.ws.setIfInBounds (w + 1) { (k.ws[w + 1]?.getD {}) with pending := false }
    else k.ws
  { k with ws := ws.setIfInBounds w {}
           mats := k.mats.filter fun m => !(m.kind == .mldb && m.wslot == w)
           dirtyW := k.dirtyW ||| ((1 : BitVec 4) <<< w) }

/-- A special register takes the low bits of a value (R24). -/
def Slot.writeSpecial (t : Slot) (n : Nat) (v : Word) : Slot :=
  match n with
  | 5 => { t with rmode := v.setWidth 3 }
  | 6 => { t with fstat := v.setWidth 5 }
  | 7 => { t with bstat := v.setWidth 16 }
  | 8 => { t with tdead := v }
  | 11 => { t with hpc := v.setWidth 15 }
  | _ => t

/-- A register result lands in its slot (R20). -/
def Slot.applyReg (t : Slot) (e : Effect) : Slot :=
  let r := t.regs
  match e with
  | .g n v => { t with regs := r.writeG n v }
  | .p n v m => { t with regs := r.writeP n v m }
  | .v n xs m => { t with regs := r.writeV n xs m }
  | .sh n v m =>
    { t with regs := { r with sh := r.sh.setIfInBounds n ((r.readSh n &&& ~~~m) ||| (v &&& m)) } }
  | .t n v => { t with regs := { r with t := r.t.setIfInBounds n v } }
  | .fs n v => { t with regs := { r with fs := r.fs.setIfInBounds n v } }
  | .bnd n b => { t with regs := { r with b := r.b.setIfInBounds n b } }
  | .vgp v => { t with regs := { r with vgp := v } }
  | .spec n v => t.writeSpecial n v
  | .flags f => { t with fstat := t.fstat ||| f }
  | .lnset l x => { t with ln := t.ln.setIfInBounds l x, lnLvl := BitVec.ofNat 3 (max t.lnLvl.toNat (l + 1)) }
  | .lnclr => { t with ln := Vector.replicate 6 {}, lnLvl := 0 }
  | _ => t

/-- One landing, with the BSTAT bits it raises (R102, R114). -/
def State.applyLanding (s : State) (c n : Nat) (l : Landing) : State × BitVec 16 :=
  let trap := fun (s : State) (low : Option Nat) => match low with
    | some a =>
      if (s.slot c n).trapSeqs.contains l.seq then s.lowerTrap c n l.seq a
      else (s.updSlot c n fun t => { t with trapSeqs := l.seq :: t.trapSeqs }).raiseLanded c n
        { code := .boundTrap, addr := BitVec.ofNat 64 a, idx := l.idx, word := l.word, seq := l.seq, pfx := l.pfx }
    | none => s
  let store := fun (xs : List MByte) => (s.storeSeen c (fun k o => k.sameTask n o.slot) xs).updCore c fun k => { k with
    stored := (s.tick, xs ++ if k.stored.1 == s.tick then k.stored.2 else []) }
  match l.eff with
  | .store xs => (store xs, 0)
  | .checked fmt bn xs =>
    let r := checkElems (fmtOfBits fmt) ((s.slot c n).regs.readB bn) bn xs
    (trap (store r.1) r.2.2, r.2.1)
  | .vbnd d bn fmt xs mask =>
    let r := checkLanes (fmtOfBits fmt) ((s.slot c n).regs.readB bn) bn xs mask
    (trap (s.updSlot c n (·.applyReg (.v d r.1 r.2.1))) r.2.2.2, r.2.2.1)
  | .wp i v =>
    let m := if n = 4 then (s.slot c 4).hserve else n
    (s.updSlot c m fun t => { t with wp := t.wp.setIfInBounds i v }, 0)
  | .ftab e v => (s.updCore c fun k => { k with ftab := k.ftab.setIfInBounds (e - 32) v }, 0)
  | .sfmt b v => (s.updCore c fun k => { k with
      sfmt := k.sfmt.setIfInBounds b v, dirtyS := k.dirtyS ||| BitVec.ofNat 640 ((2 ^ 40 - 1) * 2 ^ (40 * b)) }, 0)
  | .late r target =>
    (s.updSlot c n (·.applyReg (.g r (BitVec.ofNat 64 s.tick - target))), 0)
  | .wload w b => (s.updCore c fun k => k.loadSlot w b, 0)
  | .wclear w pair => (s.updCore c fun k => k.clearSlot w pair, 0)
  | e => (s.updSlot c n (·.applyReg e), 0)

/-- Is a landing only an OR into FSTAT? Those are made after the rest of the cycle (R102). -/
def Landing.isFlags (l : Landing) : Bool :=
  match l.eff with
  | .flags _ => true
  | _ => false

/-- A timed store (R37, R498). -/
def Landing.isStore (l : Landing) : Bool :=
  match l.eff with
  | .store _ | .checked .. => true
  | _ => false

/-- Put a landing in stream order, after those of its word. -/
def insertLanding (l : Landing) : List Landing → List Landing
  | [] => [l]
  | x :: t => if l.seq < x.seq then l :: x :: t else x :: insertLanding l t

def sortLandings (xs : List Landing) : List Landing := xs.foldl (fun a l => insertLanding l a) []

/-- A VSTA's write-back under a bound register: a BNDSET of that register landing on its cycle governs it, earlier or later in stream order
(Table 4.13), where other write-backs follow R34 (R114). It writes the accumulator, as no other checked store does. -/
def Landing.isVsta (l : Landing) : Bool :=
  match l.eff with
  | .checked _ _ xs => xs.any fun x => x.pieces.any fun p => decide (8 * accBase ≤ p.1)
  | _ => false

/-- Landings of one cycle in stream order, VSTAs under a bound after the rest, then flags and BSTAT bits (R34, R102, R114, R146). -/
def State.applyLandings (s : State) (c n : Nat) (xs : List Landing) : State :=
  let zs := sortLandings xs
  let ys := zs.filter (!·.isVsta) ++ zs.filter (·.isVsta)
  let r := (ys.filter (!·.isFlags)).foldl (fun (acc : State × BitVec 16) l =>
    let q := acc.1.applyLanding c n l
    (q.1, acc.2 ||| q.2)) (s, 0)
  let s1 := (ys.filter (·.isFlags)).foldl (fun s l => (s.applyLanding c n l).1) r.1
  s1.updSlot c n fun t => { t with bstat := t.bstat ||| r.2 }

/-- The landings a test selects leave the slot and are applied. -/
def State.landWhere (s : State) (c n : Nat) (sel : Landing → Bool) : State :=
  let t := s.slot c n
  let due := t.landings.filter sel
  if due.isEmpty then s
  else (s.setSlot c n { t with landings := t.landings.filter (!sel ·) }).applyLandings c n due

/-- The landings of a slot that runs its task cycle (R37). -/
def State.landCycle (s : State) (c n : Nat) : State :=
  let t := s.slot c n
  s.landWhere c n fun l => decide (l.cyc ≤ t.tc)

/-- A word that waits for the task's pending stores: release and full FENCE, and ALIGN (R498). -/
def Hold.draining (h : Hold) : Bool :=
  match h with
  | .fence _ kind _ => kind != 1
  | .align .. => true
  | _ => false

/-- The words that hold a slot frozen, in stream order. -/
def Slot.frozenWords (t : Slot) : List Freeze := t.freeze.toList ++ t.behind

/-- The store landings of a slot frozen by a draining word, on the core cycles their task cycles would have
fallen on (R498). -/
def State.landDrain (s : State) (c n : Nat) : State :=
  let t := s.slot c n
  match t.frozenWords.find? (·.hold.draining) with
  | some z =>
    let past := (s.core c).cyc - z.cyc0
    s.landWhere c n fun l => l.isStore && decide (l.cyc + 1 ≤ t.tc + past)
  | none => s

/-- Has the slot a store still to land? -/
def Slot.storesPending (t : Slot) : Bool := t.landings.any (·.isStore)

end Sys2Proof.Machine
end

