-- ==== Sys2Proof/Machine/Matrix.lean ====
section
/-!
DEFINITION. The M words (06): their checks and issue, the rows a matrix operation reads and lands on later core
cycles (R38, R199), weave loads (R197), drain and invalidation.
-/
namespace Sys2Proof.Machine

def Core.wslot (k : Core) (w : Nat) : WSlot := k.ws[w]?.getD {}

/-! ### Checks (R190, R193, R194, R209) -/

/-- An accumulator shape of an M word (R186, R194). -/
def Shape.accOk (h : Shape) : Bool :=
  h.fieldsOk [1] && !h.trn && !h.pln && h.cstr == 1 && h.base % 4 == 0
    && (h.rows == 1 || (decide (0 < h.rstr) && h.rstr % 1024 == 0))
    && decide (h.base % 1024 + 4 * h.cols ≤ 1024)
    && h.within 32 1 (spaceRange 1)

/-- A scratchpad shape of an M word; its BASE names a bank. -/
def Shape.spadOk (h : Shape) : Bool := h.fieldsOk [0] && decide (h.base < scratchSize)

/-- PRIVILEGE: a slot not granted, or in the handler an accumulator shape outside its partition (R190, R209). -/
def State.slotPriv (s : State) (w : Nat) : Option Raised :=
  faultIf (!s.slotGranted s.who.core s.who.slot w) .privilege
def State.pairPriv (s : State) (pair : Bool) (w : Nat) : Option Raised :=
  faultIf (pair && (s.inHandler || !s.slotGranted s.who.core s.who.slot (w + 1))) .privilege
def State.accPriv (s : State) (h : Shape) : Option Raised :=
  faultIf (s.inHandler && !h.within 32 1 (0x1F0000, accEnd)) .privilege

/-- Accumulator bytes of the rows below a count, granted (R131). -/
def State.accGrant (s : State) (h : Shape) (v : Nat) : Option Raised :=
  (firstByte ((List.range v).flatMap fun (i : Nat) => (List.range (4 * h.cols)).map fun b =>
      (h.addr + i * h.rstr).toNat + b)
    fun b => !byteGranted (s.jobOfSlot s.who.core s.who.slot) (s.who.slot == 4) b).map fun b =>
      { code := .windowViolation, addr := BitVec.ofNat 64 b }

/-- Fields, format (by `legal`), planar kind and address of a scratchpad operand, in order (R186). -/
def spadChecks (o : Operand) (legal write : Bool) : Option Raised :=
  firstFault [faultIf (!o.sh.spadOk || !o.planarOk) .shapeRange, faultIf (!legal) .formatIllegal,
    faultIf (!o.inSpace write) .shapeRange]

/-- WATCHPOINT, ALIGN_FAULT and WINDOW_VIOLATION of a scratchpad operand's valid rows. -/
def State.spadAccess (s : State) (o : Operand) (write : Bool) : Option Raised :=
  s.extentChecks write (o.validBytes write) o.misaligned

/-! ### Weight slots -/

/-- Logical B(k, n) of a slot: its container, none where a sparse slot keeps nothing (R196, R201). -/
def WSlot.at_ (w : WSlot) (k n : Nat) : Option Nat :=
  if w.sparse = 0 then some ((w.live.lookup (256 * k + n)).getD 0)
  else
    let keep := if w.sparse = 1 then 32 else 16
    let p := (List.range keep).find? fun i =>
      (w.pos.lookup (256 * (k / 64 * keep + i) + n)) == some (k % 64)
    p.map fun i => (w.live.lookup (256 * (k / 64 * keep + i) + n)).getD 0

/-! ### Reading rows (R184, R195, R199) -/

/-- The containers of row i of a scratchpad operand of a core. -/
def State.readRow (s : State) (c : Nat) (o : Operand) (i : Nat) : List Nat :=
  (List.range o.sh.cols).map fun j =>
    s.mem.gather ((o.readPieces i j).map fun (ba, w, at_) => (ba + 8 * localAddr c 0, w, at_))

/-- Core cycle on which row i is read (R199, R195, R205, R206). -/
def MatOp.readAt (m : MatOp) (i : Nat) : Nat := m.t0 + 2 * i / m.rate2

def MatOp.operand (m : MatOp) : Operand := .of (shapeOf m.ash) m.fa.1 m.fa.2 m.av

/-- The accumulator row i of a shape as 32-bit elements. -/
def State.accRowNats (s : State) (c : Nat) (h : Shape) (i : Nat) : List Nat :=
  (List.range h.cols).map fun j => s.localNat c ((h.addr + i * h.rstr).toNat + 4 * j) 4

/-- The rows an operation reads on the present core cycle are read. -/
def State.readMat (s : State) (c : Nat) (m : MatOp) : MatOp :=
  let now := m.clock (s.core c).cyc
  let due := fun v => (List.range v).filter fun i => m.readAt i == now
  match m.kind with
  | .mma => { m with rows := m.rows ++ (due m.av).map fun i => (i, s.readRow c m.operand i) }
  | .mldb =>
    let meta_ := Operand.of (shapeOf m.msh) 7 (presetEntry 7) m.mv
    { m with rows := m.rows ++ (due m.av).map fun i => (i, s.readRow m.srcCore m.operand i)
             mrows := if m.keep = 0 then [] else m.mrows ++
               (due m.mv).map fun i => (i, s.readRow m.srcCore meta_ i) }
  | .mscale | .maddt =>
    let o := m.operand
    { m with rows := m.rows ++ (due m.cv).map fun i => (i, s.accRowNats c (shapeOf m.csh) i)
             mrows := m.mrows ++ (due m.cv).map fun i =>
               (i, s.readRow c o (if o.sh.rows = 1 then 0 else i)) }
  | .mout =>
    { m with rows := m.rows ++ (due m.av).map fun i => (i, s.accRowNats c (shapeOf m.csh) i) 
             tags := m.tags ++ (due m.av).map fun i =>
               (s.core c).acctag.getLsbD ((shapeOf m.csh).accRow i) }
  | _ => m

/-- Which operations of a core act: all on a cycle of it, its weave loads alone on a tick without one (R197). -/
def MatOp.acts (m : MatOp) (cycle : Bool) : Bool := cycle || m.age.isSome

/-- The operations of a core read their rows of the present cycle. -/
def State.readMats (s : State) (c : Nat) (cycle : Bool) : State :=
  let ms := (s.core c).mats.map fun m => if m.acts cycle then s.readMat c m else m
  s.updCore c fun k => { k with mats := ms }

/-! ### Results (R201, R205, R206) -/

/-- A decoded element, negated exactly where a modifier says so (R201). -/
def signedVal (neg : Bool) (v : Val) : Val := if neg then v.neg else v

/-- One accumulator element of an MMA: its new bits and flags (R104 to R106, R201). -/
def MatOp.element (m : MatOp) (arow : List Nat) (n old : Nat) : Nat × Flags :=
  let ea := fmtOfBits m.fa.2
  let eb := fmtOfBits m.b.fmt
  let ks := List.range m.b.k
  let a := fun k => signedVal m.nega (ea.decode (arow[k]?.getD 0))
  if m.intPath then
    let ps := ks.map fun k => match m.b.at_ k n with
      | some x => (vMul (a k) (signedVal m.negb (eb.decode x))).1
      | none => Val.zero false
    let start := if m.noacc then 0 else (signedOf 32 old % 2 ^ 32).toNat
    (Sys2Proof.Machine.intPath start ps, 0)
  else
    let ps : List Res := ks.map fun k => match m.b.at_ k n with
      | some x => vMul (a k) (signedVal m.negb (eb.decode x))
      | none => (Val.zero false, flagNone)
    floatPath (if m.noacc then Val.zero true else fmtF32.decode old) ps

/-- The columns of row i an MMA lands on a core cycle (R199). -/
def MatOp.landCols (m : MatOp) (i now : Nat) : List Nat :=
  let n := m.b.n
  if m.rate2 = 1 then
    if now = m.t0 + 40 + 2 * i then (List.range n).filter (· < 128)
    else if now = m.t0 + 41 + 2 * i then (List.range n).filter (128 ≤ ·)
    else []
  else if now = m.readAt i + 40 then List.range n else []

/-- A landing of a matrix operation. -/
def MatOp.landing (m : MatOp) (e : Effect) : Landing :=
  { cyc := 0, iss := 0, seq := m.seq, idx := m.idx, word := m.word, cls := some 0, pfx := m.pfx, eff := e }

/-- Store of one accumulator element. -/
def accStore (h : Shape) (i n bits : Nat) : List MByte :=
  bytesToMasked ((h.addr + i * h.rstr).toNat + 4 * n) (bytesLE 4 bits)

/-- Lowest offending metadata byte of a sparse load: positions not ascending or not below 64 (R196). DESIGN CHOICE (log 27): of several
the first is taken to be the one at the lowest address, and rows at or above M's valid count are untested and give no position. -/
def MatOp.metaFault (m : MatOp) : Option Nat :=
  let h := shapeOf m.msh
  let at_ := fun p n => if m.trn then (m.mrows.lookup n).bind (·[p]?) else (m.mrows.lookup p).bind (·[n]?)
  let addr := fun p n => (if m.trn then h.bitAddr 8 n p else h.bitAddr 8 p n) / 8
  let ks := if m.trn then h.cols else h.rows
  let ns := if m.trn then h.rows else h.cols
  let bad := (List.range ns).flatMap fun n => (List.range ks).filterMap fun p =>
    match at_ p n with
    | some x =>
      let prev := if p % m.keep = 0 then none else at_ (p - 1) n
      if 64 ≤ x || (prev.map fun y => decide (x ≤ y)).getD false then some (addr p n).toNat else none
    | none => none
  firstByte bad fun _ => true

/-- The slot a load makes live (R189, R195, R196). -/
def MatOp.loaded (m : MatOp) : WSlot :=
  let h := shapeOf m.ash
  let ks := if m.trn then h.cols else h.rows
  let cells := fun (rs : List RowRead) => rs.flatMap fun (r, xs) =>
    (List.range xs.length).filterMap fun j =>
      let x := xs[j]?.getD 0
      some ((if m.trn then 256 * j + r else 256 * r + j), x)
  { loaded := true, fmtNo := BitVec.ofNat 8 m.fa.1, fmt := m.fa.2
    k := if m.keep = 0 then ks else 64 * ks / m.keep
    n := if m.trn then h.rows else h.cols
    sparse := if m.keep = 0 then 0 else if m.keep = 32 then 1 else 2
    pair := (fmtOfBits m.fa.2).tw == 16
    live := (cells m.rows).filter (·.2 != 0)
    pos := cells m.mrows }

/-- What MSCALE and MADDT make of one element (R205). -/
def MatOp.scaled (m : MatOp) (tag : Bool) (c x : Nat) : Nat × Flags :=
  let es := fmtOfBits m.fa.2
  let y := es.decode x
  match m.kind with
  | .mscale => encodeRes fmtF32 m.mode (vMul ((if tag then fmtS32 else fmtF32).decode c) y)
  | _ =>
    if tag then (((signedOf 32 c + y.toInt) % 2 ^ 32).toNat, 0)
    else encodeRes fmtF32 m.mode (vAdd m.mode (fmtF32.decode c) y)

/-- The landings an operation makes on the present core cycle, from the state as it stood at the end of the
cycle before, and the operation after them. -/
def State.matLandings (s : State) (c : Nat) (m : MatOp) : List Landing × MatOp :=
  let now := m.clock (s.core c).cyc
  let h := shapeOf m.csh
  match m.kind with
  | .mma =>
    let xs := (List.range (min m.av m.cv)).flatMap fun i => (m.landCols i now).map fun n =>
      let old := s.localNat c ((h.addr + i * h.rstr).toNat + 4 * n) 4
      let r := m.element ((m.rows.lookup i).getD []) n old
      (accStore h i n r.1, r.2)
    let fl := xs.foldl (fun f x => f ||| x.2) m.flags
    let st := xs.flatMap (·.1)
    ((if st.isEmpty then [] else [m.landing (.store st)])
      ++ (if now = m.last && fl != 0 then [m.landing (.flags fl)] else []), { m with flags := fl })
  | .mldb =>
    if now != m.last then ([], m)
    else if m.keep != 0 && m.metaFault.isSome then ([m.landing (.wclear m.wslot ((fmtOfBits m.fa.2).tw == 16))], m)
    else ([m.landing (.wload m.wslot m.loaded)], m)
  | .mzero =>
    let st := ((List.range m.cv).filter fun i => m.t0 + 4 + i == now).flatMap fun i =>
      (List.range h.cols).flatMap fun n => accStore h i n 0
    (if st.isEmpty then [] else [m.landing (.store st)], m)
  | .mscale | .maddt =>
    let xs := ((List.range m.cv).filter fun i => m.t0 + 8 + i == now).flatMap fun i =>
      let cs := (m.rows.lookup i).getD []
      let ys := (m.mrows.lookup i).getD []
      (List.range h.cols).map fun n =>
        let r := m.scaled (m.tags[i]?.getD false) (cs[n]?.getD 0) (ys[n]?.getD 0)
        (accStore h i n r.1, r.2)
    let fl := xs.foldl (fun f x => f ||| x.2) m.flags
    let st := xs.flatMap (·.1)
    ((if st.isEmpty then [] else [m.landing (.store st)])
      ++ (if now = m.last && fl != 0 then [m.landing (.flags fl)] else []), { m with flags := fl })
  | .mout =>
    let d := m.operand
    let xs := ((List.range m.av).filter fun i => m.t0 + 9 + i == now).flatMap fun i =>
      let cs := (m.rows.lookup i).getD []
      let tag := if m.tags[i]?.getD false then 10 else 1
      (List.range h.cols).map fun n =>
        let x := cs[n]?.getD 0
        let r := if tag = m.fa.1 then (x, 0) else convert (fmtOfBits (presetEntry tag)) d.e x m.mode
        (({ pieces := d.writePieces i n, bits := r.1 } : Elem), r.2)
    let fl := xs.foldl (fun f x => f ||| x.2) m.flags
    let els := xs.map (·.1)
    let st : List Landing := if els.isEmpty then [] else match m.bnd, m.bn with
      | some b, _ => [m.landing (.store (checkElems d.e b 0 els).1)]
      | none, some b => [m.landing (.checked m.fa.2 b els)]
      | none, none => [m.landing (.store (els.flatMap fun x => scatter x.pieces x.bits))]
    (st ++ (if now = m.last && fl != 0 then [m.landing (.flags fl)] else []), { m with flags := fl })
  | .slotinv => (if now = m.last then [m.landing (.wclear m.wslot false)] else [], m)

/-- The landings of every operation of a core, each with its slot, and the operations after them. Landed ones
leave the list. -/
def State.coreMatLandings (s : State) (c : Nat) (cycle : Bool) : List (Nat × Landing) × List MatOp :=
  let k := s.core c
  let rs := k.mats.map fun m => (m.slot, if m.acts cycle then s.matLandings c m else ([], m))
  (rs.flatMap fun (n, xs, _) => xs.map fun l => (n, l),
   (rs.map fun (_, _, m) => m).filter fun m => !m.acts cycle || decide (m.clock k.cyc < m.last))

/-- Faults of MLDBS landings of the cycle (R196): slot, fault. -/
def State.metaFaults (s : State) (c : Nat) (cycle : Bool) : List (Nat × Raised) :=
  let k := s.core c
  k.mats.filterMap fun m =>
    if m.acts cycle && m.kind == .mldb && m.keep != 0 && m.last == m.clock k.cyc then
      m.metaFault.map fun a =>
        (m.slot, { code := .shapeRange, addr := BitVec.ofNat 64 a, idx := m.idx, word := m.word, seq := m.seq, pfx := m.pfx })
    else none

/-! ### Issue -/

/-- A matrix operation of the word being executed. -/
def State.matOp (s : State) (kind : MatKind) : MatOp :=
  { kind := kind, slot := s.who.slot, launch := s.cur.launch, idx := s.who.q.idx, word := s.who.q.word
    seq := s.who.q.seq, pfx := s.who.q.pfx, iss := s.who.cyc, t0 := s.me.cyc, mode := s.mode, srcCore := s.who.core }

/-- An operation issues; it reads its first rows on the issue cycle. -/
def State.startMat (s : State) (c : Nat) (m : MatOp) : State :=
  let m' := s.readMat c m
  s.updCore c fun k => { k with mats := k.mats ++ [m'] }

/-- The accumulator rows a shape's rows below a count lie in. -/
def Shape.accRows (h : Shape) (v : Nat) : List Nat := (List.range v).map h.accRow

/-- Twice the rate of an MMA (R199). -/
def mmaRate2 (a b : Fmt) : Nat :=
  if a.tw = 16 || b.tw = 16 then 1
  else match a.kind with
    | .nested => 2 * (8 / (a.pl + 1))
    | .float => 2
    | _ => if a.tw ≤ 4 then 4 else 2

/-- The integer path (R104): both operands of KIND 2, 3 or 4. -/
def intKinds (a b : Fmt) : Bool := a.kind != .float && b.kind != .float

/-- The checks of an MMA or MMAS with captured shapes (R190, R193, R198, R202). `h` tells a handler's word; the
extent checks follow them for a word of the M queue. The tag's FORMAT_ILLEGAL stands after the address rows of A and C (R186), whose order
to it no rule gives: DESIGN CHOICE (log 27). -/
def State.mmaChecks (s : State) (sparse : Bool) (w : Nat) (noacc : Bool) (csh ash : Shape)
    (cv av : Nat) : Option Raised :=
  let k := s.me
  let b := k.wslot w
  let even := k.wslot (w - 1)
  let no := ash.entryNo k
  let a := Operand.of ash no (k.entry no) av
  let tags := (csh.accRows (min av cv)).map fun r => k.acctag.getLsbD r
  firstFault [
    s.slotPriv w, s.pairPriv (b.loaded && b.pair) w, s.accPriv csh,
    faultIf (!ash.spadOk || !a.planarOk || !csh.accOk) .shapeRange,
    faultIf (!matrixLegal no a.e) .formatIllegal,
    faultIf (!a.inSpace false) .shapeRange,
    faultIf (b.loaded && !noacc && tags.any (· != intKinds a.e (fmtOfBits b.fmt))) .formatIllegal,
    faultIf (a.crosses k false) .shapeMismatch,
    faultIf (w % 2 == 1 && even.loaded && even.pair) .shapeMismatch,
    faultIf (csh.rows != ash.rows) .shapeMismatch,
    faultIf (b.loaded && ((b.sparse != 0) != sparse || ash.cols != b.k || csh.cols != b.n))
      .shapeMismatch,
    faultIf (decide (1024 < ash.rows) || decide (k.cyc < k.mmaEnd)) .shapeRange,
    faultIf (!b.loaded) .slotEmpty,
    s.spadAccess a false, s.accGrant csh (min av cv)]

/-- An MMA or MMAS issues: tags, window, operation (R200 to R202). -/
def State.startMma (s : State) (c w : Nat) (nega negb noacc : Bool) (csh ash : Shape) (cv av : Nat)
    (m : MatOp) : State :=
  let k := s.core c
  let b := k.wslot w
  let no := ash.entryNo k
  let ea := k.fmt no
  let eb := fmtOfBits b.fmt
  let rate2 := mmaRate2 ea eb
  let occ := (2 * ash.rows + rate2 - 1) / rate2
  let s1 := s.setCore c { (k.setTags (csh.accRows (min av cv)) (intKinds ea eb)) with
    mmaEnd := k.cyc + occ }
  s1.startMat c { m with
    rate2 := rate2, csh := csh.raw, ash := ash.raw, cv := cv, av := av, fa := (no, k.entry no)
    intPath := intKinds ea eb, nega := nega, negb := negb, noacc := noacc, wslot := w, b := b }

def mmaWord (i : Instr) (sparse : Bool) (shc sha : BitVec 5) (w : BitVec 2)
    (nega negb noacc : BitVec 1) (s : State) : Step :=
  let csh := shapeOf (s.sh shc)
  let ash := shapeOf (s.sh sha)
  let cv := csh.validBy s.cur.regs
  let av := ash.validBy s.cur.regs
  coreWord i {} 0 s (checked (s.mmaChecks sparse w.toNat (noacc == 1) csh ash cv av)
    (s.startMma s.who.core w.toNat (nega == 1) (negb == 1) (noacc == 1) csh ash cv av (s.matOp .mma)))

def execMma (shc sha : BitVec 5) (w : BitVec 2) (nega negb noacc : BitVec 1) (s : State) : Step :=
  mmaWord (.mma shc sha w nega negb noacc) false shc sha w nega negb noacc s
def execMmas (shc sha : BitVec 5) (w : BitVec 2) (nega negb noacc : BitVec 1) (s : State) : Step :=
  mmaWord (.mmas shc sha w nega negb noacc) true shc sha w nega negb noacc s

/-! ### Loading B (R195 to R197) -/

/-- Keep count of MLDBS from XMOD PAY[4] (R192); 0 for MLDB. -/
def keepOf (sparse : Bool) (q : QWord) : Nat :=
  if !sparse then 0 else if q.pfx.mods.getLsbD 0 then 16 else 32

/-- K and N of a load (R195). -/
def loadDims (h : Shape) (trn : Bool) : Nat × Nat := if trn then (h.cols, h.rows) else (h.rows, h.cols)

/-- The checks of MLDB and MLDBS at issue (R193, R195, R196). A weave participant other than the leader does
not use its source address (R197). -/
def State.loadChecks (s : State) (keep w : Nat) (bc trn useBase : Bool) (h m : Shape) : Option Raised :=
  let k := s.me
  let o := h.operand k s.cur.regs
  let meta_ := Operand.of m 7 (presetEntry 7) (m.validBy s.cur.regs)
  let sparse := keep != 0
  let (K, N) := loadDims h trn
  let (KM, NM) := loadDims m trn
  let both := fun (f : Operand → Option Raised) => if !useBase then none else if sparse then firstFault [f o, f meta_] else f o
  let pair := useBase && o.e.tw == 16
  firstFault [
    faultIf (bc && s.inHandler) .privilege,
    s.slotPriv w, s.pairPriv (pair && w % 2 == 0) w,
    faultIf (!h.fieldsOk [0] || (useBase && (!h.spadOk || !o.planarOk))) .shapeRange,
    faultIf (sparse && (!m.fieldsOk [0] || m.pln || (useBase && !m.spadOk))) .shapeRange,
    faultIf (useBase && !matrixLegal o.no o.e) .formatIllegal,
    faultIf (useBase && (!o.inSpace false || (sparse && !m.within 8 1 (spaceRange 0)))) .shapeRange,
    faultIf (decide (256 < K) || decide (256 < N) || (sparse && (decide (256 < KM) || decide (256 < NM)))) .shapeRange,
    faultIf (pair && w % 2 == 1) .shapeRange,
    faultIf ((k.wslot w).pending || (pair && (k.wslot (w + 1)).pending)) .shapeRange,
    faultIf (useBase && o.crosses k false) .shapeMismatch,
    faultIf (useBase && sparse && (meta_.allBytes false).any fun a => k.sfmtNo (a / 0x5000) != 7)
      .shapeMismatch,
    faultIf (sparse && (m.rows != h.rows || m.cols != h.cols || m.trn != h.trn)) .shapeMismatch,
    faultIf (sparse && K % keep != 0) .shapeRange,
    both fun x => s.extentWatch false (x.validBytes false) x.misaligned,
    both fun x => s.extentGrant (x.validBytes false)]

/-- PENDING of a slot, and of the odd slot of a pair. -/
def Core.setPending (k : Core) (w : Nat) (pair : Bool) : Core :=
  let f := fun (ws : Vector WSlot 4) w => ws.setIfInBounds w { (ws[w]?.getD {}) with pending := true }
  { k with ws := if pair then f (f k.ws w) (w + 1) else f k.ws w }

/-- A load starts: PENDING, and the operation, reading its rows from a core's scratchpad. -/
def State.startLoad (s : State) (c src w keep : Nat) (trn : Bool) (h : Shape) (msh : Shape256)
    (valid mvalid : Nat) (m : MatOp) : State :=
  let no := h.entryNo (s.core src)
  let word := (s.core src).entry no
  (s.updCore c (·.setPending w ((fmtOfBits word).tw == 16))).startMat c { m with
    ash := h.raw, msh := msh, av := valid, mv := mvalid, fa := (no, word), wslot := w, trn := trn, keep := keep
    srcCore := src }

/-- The leader of a core's cluster (R197). -/
def leaderOf (c : Nat) : Nat := c / 4 * 4

def loadWord (i : Instr) (sparse : Bool) (shs : BitVec 5) (w : BitVec 2) (bc trn : BitVec 1)
    (s : State) : Step :=
  let keep := keepOf sparse s.who.q
  let h := shapeOf (s.sh shs)
  let msh := s.cur.regs.readSh (shs.toNat + 1)
  let useBase := bc == 0 || s.who.core == leaderOf s.who.core
  let rule : PfxRule := { mods := fun m => if sparse then decide (m.toNat < 2) else m == 0 }
  coreWord i rule 0 s (checked
    (s.loadChecks keep w.toNat (bc == 1) (trn == 1) useBase h (shapeOf msh))
    (if bc = 1 then s.freezeOn .weave (some (s.deadlineOf 0))
     else s.startLoad s.who.core s.who.core w.toNat keep (trn == 1) h msh (h.validBy s.cur.regs)
       ((shapeOf msh).validBy s.cur.regs) (s.matOp .mldb)))

def execMldb (shs : BitVec 5) (w : BitVec 2) (bc trn : BitVec 1) (_cls : BitVec 4) (s : State) : Step :=
  loadWord (.mldb shs w bc trn _cls) false shs w bc trn s
def execMldbs (shs : BitVec 5) (w : BitVec 2) (bc trn : BitVec 1) (_cls : BitVec 4) (s : State) : Step :=
  loadWord (.mldbs shs w bc trn _cls) true shs w bc trn s

/-! ### Accumulator words (R204, R205) -/

def execMzero (shc : BitVec 5) (s : State) : Step :=
  let h := shapeOf (s.sh shc)
  let v := h.validBy s.cur.regs
  coreWord (.mzero shc) {} 0 s (checked
    (firstFault [s.accPriv h, faultIf (!h.accOk) .shapeRange, s.accGrant h v])
    (s.startMat s.who.core { s.matOp .mzero with csh := h.raw, cv := v }))

/-- The checks of MSCALE and MADDT (R193, R205). -/
def State.scaleChecks (s : State) (kind : MatKind) (h x : Shape) (v : Nat) : Option Raised :=
  let k := s.me
  let y := x.operand k s.cur.regs
  let o := { y with valid := if x.rows = 1 then min 1 y.valid else v }
  firstFault [
    s.accPriv h,
    faultIf (!h.accOk || !x.fieldsOk [0, 1, 2, 3, 4, 5] || (x.space == 0 && !x.spadOk) || !o.planarOk) .shapeRange,
    faultIf (!o.legal || (kind == .maddt && o.e.kind == .float && (h.accRows v).any (k.acctag.getLsbD ·))) .formatIllegal,
    faultIf (!o.inSpace false) .shapeRange,
    faultIf (x.space != 0 || x.cols != h.cols || !(x.rows == 1 || x.rows == h.rows)) .shapeMismatch,
    faultIf (o.crosses k false) .shapeMismatch,
    s.spadAccess o false, s.accGrant h v]

/-- The rows of C an MSCALE or MADDT updates: those below its valid count and that of its source, whose one row, where it has
one, may itself be skipped (R187, R205). -/
def scaledRows (h x : Shape) (r : Regs) : Nat :=
  if x.rows = 1 then (if x.validBy r = 0 then 0 else h.validBy r) else min (h.validBy r) (x.validBy r)

/-- MSCALE and MADDT (R205). DESIGN CHOICE (log 27): row i of C is decoded under the tag that stands at the word's issue, not under one
set before it is read at t + i. -/
def scaleWord (i : Instr) (kind : MatKind) (shc shs : BitVec 5) (s : State) : Step :=
  let h := shapeOf (s.sh shc)
  let x := shapeOf (s.sh shs)
  let v := scaledRows h x s.cur.regs
  let k := s.me
  let no := x.entryNo k
  let m : MatOp := { s.matOp kind with csh := h.raw, ash := x.raw, cv := v, av := v, fa := (no, k.entry no)
                                       tags := (h.accRows v).map fun r => k.acctag.getLsbD r }
  let s1 := if kind = .mscale then s.updMe fun k => k.setTags (h.accRows v) false else s
  coreWord i { rounds := true } 0 s (checked (s.scaleChecks kind h x v) (s1.startMat s.who.core m))

def execMscale (shc shs : BitVec 5) (s : State) : Step := scaleWord (.mscale shc shs) .mscale shc shs s
def execMaddt (shc shs : BitVec 5) (s : State) : Step := scaleWord (.maddt shc shs) .maddt shc shs s

/-! ### MOUT (R206) -/

def State.moutChecks (s : State) (h d : Shape) : Option Raised :=
  let k := s.me
  let o := d.operand k s.cur.regs
  firstFault [
    s.accPriv h,
    faultIf (!h.accOk || !d.spadOk || !o.planarOk) .shapeRange,
    faultIf (!o.legal) .formatIllegal,
    faultIf (!o.inSpace true) .shapeRange,
    faultIf (d.rows != h.rows || d.cols != h.cols) .shapeMismatch,
    faultIf (o.crosses k true) .shapeMismatch,
    s.spadAccess o true, s.accGrant h o.valid]

def execMout (shc shd : BitVec 5) (s : State) : Step :=
  let h := shapeOf (s.sh shc)
  let d := shapeOf (s.sh shd)
  let k := s.me
  let no := d.entryNo k
  let v := d.validBy s.cur.regs
  let p := s.who.q.pfx
  coreWord (.mout shc shd) { rounds := true, mods := fun m => m.toNat < 32 } 0 s
    (checked (s.moutChecks h d)
      (s.startMat s.who.core { s.matOp .mout with
        csh := h.raw, ash := d.raw, cv := v, av := v, fa := (no, k.entry no)
        bn := if p.mods.getLsbD 0 then some (p.mods.extractLsb' 1 4).toNat else none }))

/-! ### Drain and invalidation (R207, R208) -/

/-- Has the slot a matrix operation in flight? -/
def Core.matsBusy (k : Core) (n : Nat) : Bool := k.mats.any fun m => m.slot == n && m.forOp.isNone

def execMdrain (s : State) : Step :=
  coreWord .mdrain {} 0 s (.ok (if s.me.matsBusy s.who.slot then s.freezeOn .mdrain none else s))

def execMslotinv (w : BitVec 2) (s : State) : Step :=
  let b := s.me.wslot w.toNat
  let pair := w.toNat % 2 == 0 && b.loaded && b.pair
  let start := fun (s : State) n => s.startMat s.who.core { s.matOp .slotinv with wslot := n }
  coreWord (.mslotinv w) {} 0 s (checked (firstFault [s.slotPriv w.toNat, s.pairPriv pair w.toNat])
    (if pair then start (start s w.toNat) (w.toNat + 1) else start s w.toNat))

end Sys2Proof.Machine
end

