-- ==== Sys2Proof/Machine/Copy.lean ====
section
/-!
DEFINITION. The C words (R211 to R231): shape copies, loop nests, multicast stores, near-memory words and CINIT:
their checks and fork, and the chunks an operation completes, with the word a CPYM carries.
-/
namespace Sys2Proof.Machine

/-! ### What an operation enumerates (R215, R224) -/

def Op.src (o : Op) : Operand := .of (shapeOf o.sh1) o.f1.1 o.f1.2 o.v1
def Op.dst (o : Op) : Operand := .of (shapeOf o.sh2) o.f2.1 o.f2.2 o.v2
def Op.src2 (o : Op) : Operand := .of (shapeOf o.sh3) o.f3.1 o.f3.2 o.v3

def Operand.shift (x : Operand) (d : Int) : Operand := { x with sh := { x.sh with addr := x.sh.addr + d } }

/-- Iterations of a loop nest; other copies have one. -/
def lnCount (ln : List LnLevel) : Nat := (ln.map fun l => l.count.toNat).foldl (· * ·) 1

/-- Source and destination offsets of iteration q, level 0 fastest (R224). -/
def lnOffset (ln : List LnLevel) (q : Nat) : Int × Int :=
  (ln.foldl (fun (acc : Nat × Int × Int) l =>
    let n := l.count.toNat
    let i := acc.1 % n
    (acc.1 / n, acc.2.1 + i * l.sstr.toInt, acc.2.2 + i * l.dstr.toInt)) (q, 0, 0)).2

/-- The least and greatest offsets of one side over the iterations. -/
def lnExtremes (ln : List LnLevel) (side : LnLevel → Half) : Int × Int :=
  ln.foldl (fun (acc : Int × Int) l =>
    let x : Int := ((l.count.toNat - 1 : Nat) : Int) * (side l).toInt
    (acc.1 + min 0 x, acc.2 + max 0 x)) (0, 0)

/-- Data bits, chunks and data bytes of rows × cols elements of a container size, over a number of iterations. -/
def dataBits (rows cols cb its : Nat) : Nat := its * (rows * cols * cb)
def chunkCount (bits : Nat) : Nat := (bits + 4095) / 4096
def chunkBytes (bits n : Nat) : Nat := min 512 ((bits + 7) / 8 - 512 * n)

def Op.dataBits (o : Op) : Nat :=
  Sys2Proof.Machine.dataBits o.dst.sh.rows o.dst.sh.cols o.dst.cb (lnCount o.ln)

/-- Rows below every valid count that applies (R187, R218, R230). -/
def Op.rowLimit (o : Op) : Nat :=
  match o.kind with
  | .nfill => o.v2
  | .ncmp => min o.v2 (min o.v1 o.v3)
  | _ => min o.v1 o.v2

/-- The elements of chunk n: iteration, row, column (R215). -/
def Op.chunkElems (o : Op) (n : Nat) : List (Nat × Nat × Nat) :=
  let cols := o.dst.sh.cols
  let per := o.dst.sh.rows * cols
  let step := 4096 / o.dst.cb
  ((List.range (min step (lnCount o.ln * per - n * step))).map fun x =>
    let e := n * step + x
    (e / per, e % per / cols, e % per % cols)).filter fun x => decide (x.2.1 < o.rowLimit)

/-- Is the destination reached through bank ALUs (R229, R286)? -/
def OpKind.near (k : OpKind) : Bool := k == .nfill || k == .ncopy || k == .ncmp || k == .nred

/-- The bytes an element's step accesses. -/
def Op.elemBytes (o : Op) (x : Nat × Nat × Nat) : List OpByte :=
  let (q, i, j) := x
  let d := lnOffset o.ln q
  let S := o.src.shift d.1
  let D := o.dst.shift d.2
  (if o.kind = .nfill then opBytes S.sh.space true false false (S.readPieces 0 0)
   else opBytes S.sh.space true false false (S.readPieces i j))
    ++ (if o.kind = .ncmp then opBytes o.src2.sh.space true false false (o.src2.readPieces i j) else [])
    ++ opBytes D.sh.space (o.kind == .nred) true o.kind.near (D.writePieces i j)

/-! ### One element (R95, R218, R220, R230) -/

/-- Number and entry of an element: of an accumulator element, those of its row's tag (R93). -/
def Operand.entryAt (x : Operand) (tags : BitVec 1024) (i j : Nat) : Nat × Fmt :=
  if x.sh.space = 1 then
    let row := ((x.sh.bitAddr x.cb i j / 8 - accBase) / 1024).toNat
    if tags.getLsbD row then (10, fmtS32) else (1, fmtF32)
  else (x.no, x.e)

/-- ROP of NRED on two containers (R230). -/
def redStep (rop : Nat) (e : Fmt) (mode : Rounding) (d x : Nat) : Nat × Flags :=
  match rop with
  | 0 => encodeRes e mode (vAdd mode (e.decode d) (e.decode x))
  | 1 => encodeRes e mode (vMin (e.decode d) (e.decode x))
  | 2 => encodeRes e mode (vMax (e.decode d) (e.decode x))
  | 3 => ((d &&& x) % 2 ^ e.tw, 0)
  | 4 => ((d ||| x) % 2 ^ e.tw, 0)
  | _ => ((d ^^^ x) % 2 ^ e.tw, 0)

/-- REL of NCMP by its number. -/
def relOf (n : Nat) : Rel :=
  match n with
  | 0 => .eq
  | 1 => .ne
  | 2 => .lt
  | _ => .le

/-- One element of a copy or near-memory operation. DESIGN CHOICE (log 27): where one entry stands on both sides and a planar source
holds fewer planes than the destination (R95, R185), the bits of the planes that the source has not are zero. -/
def State.copyElem (s : State) (c : Nat) (o : Op) (x : Nat × Nat × Nat) : State × Op :=
  let (q, i, j) := x
  let off := lnOffset o.ln q
  let S := o.src.shift off.1
  let D := o.dst.shift off.2
  let e := D.entryAt o.tags2 i j
  let counted := fun (r : State × Op) =>
    (if o.kind.near && D.sh.space = 2 then r.1.aluUpdate (piecesLow (D.writePieces i j)) 1 else r.1, r.2)
  let mods := (o.xpay.extractLsb' 4 4).toNat
  match o.kind with
  | .ncmp =>
    let a := s.readElem c o S.sh.space (S.readPieces i j)
    let b := a.2.readElem c o o.src2.sh.space (o.src2.readPieces i j)
    let r := relHolds (relOf mods) (S.e.decode a.1) (o.src2.e.decode b.1)
    let y := e.2.encode (Val.ofNat (if r.1 then 1 else 0)) o.mode
    counted (b.2.writeElem c { o with flags := o.flags ||| r.2 ||| y.2 } D.sh.space (D.writePieces i j) y.1)
  | .nred =>
    let a := s.readElem c o S.sh.space (S.readPieces i j)
    let b := a.2.readElem c { o with overlap := false } D.sh.space (D.readPieces i j)
    let y := redStep mods e.2 o.mode b.1 a.1
    counted (b.2.writeElem c { o with flags := o.flags ||| y.2 } D.sh.space (D.writePieces i j) y.1)
  | _ =>
    let at_ := if o.kind = .nfill then (0, 0) else (i, j)
    let a := s.readElem c o S.sh.space (S.readPieces at_.1 at_.2)
    let es := S.entryAt o.tags1 at_.1 at_.2
    let y := if es.1 = e.1 then (a.1, 0) else convert es.2 e.2 a.1 o.mode
    let o1 := { o with flags := o.flags ||| y.2 }
    let ps := D.writePieces i j
    if o.kind != .cpyv then counted (a.2.writeElem c o1 D.sh.space ps y.1)
    else
      let r := boundCheck e.2 o.bnd.lo o.bnd.hi o.bnd.act y.1
      let o2 := { o1 with
        bstat := if r.hit then o1.bstat ||| ((1 : BitVec 16) <<< o.bn) else o1.bstat
        trap := if r.trap then
            some (match o1.trap with
              | some t => if t.toNat ≤ piecesLow ps then t else BitVec.ofNat 64 (piecesLow ps)
              | none => BitVec.ofNat 64 (piecesLow ps))
          else o1.trap }
      match r.bits with
      | some v => a.2.writeElem c o2 D.sh.space ps v
      | none => (a.2, o2)

/-! ### Chunks (R216, R217) -/

/-- What becomes of an operation after its step: its last update, or its next step later. -/
def State.afterStep (s : State) (c : Nat) (o : Op) (last : Bool) : State :=
  if last then s.endOp c o
  else
    let p := s.pace c o
    p.2.setOp c p.1

/-- The next chunk of a copy: its checks, its elements, its completion update (CPYM's are made at the end, R222). -/
def State.copyChunk (s : State) (c : Nat) (o : Op) : State :=
  let n := o.resume
  let xs := o.chunkElems n
  s.settle c o (do
    let s1 ← s.opChecks c o (xs.flatMap o.elemBytes)
    if o.kind != .cpym then s1.compReady c o [n]
    return s1) fun s =>
    let r := xs.foldl (fun (acc : State × Op) x => acc.1.copyElem c acc.2 x) (s, o)
    let written := (xs.flatMap fun x => o.elemBytes x).filter fun b => b.wr && (b.space == 2 || b.space == 3)
    let bytes := chunkBytes o.dataBits n
    let s1 := (r.1.unmark (written.map (·.addr))).count 5 c (if o.kind.near then 0 else bytes)
    let o1 := { r.2 with resume := n + 1, supp := false, tries := 0, xl := [] }
    let last := decide (chunkCount o.dataBits ≤ n + 1)
    if o.kind = .cpym then s1.afterStep c o1 false
    else (s1.compUpdate c o1 n bytes).afterStep c o1 last

/-- Every completion update of an operation at once (R222, R227). -/
def State.compAll (s : State) (c : Nat) (o : Op) (bits : Nat) : State :=
  if compBitmap o.comp then
    (List.range (chunkCount bits)).foldl (fun s n => s.compUpdate c o n 0) s
  else s.compUpdate c o 0 ((bits + 7) / 8)

/-! ### Multicast landing (R226 to R228, R417) -/

/-- MWINw of a context: members, DBASE, enabled. -/
def Ctx.mwindow (x : Ctx) (w : Nat) : Word × Nat × Bool :=
  let r := x.mwin[w]?.getD 0
  (r.extractLsb' 0 64, (r.extractLsb' 64 19).toNat, r.getLsbD 83)

/-- The core cycle a landing due now has on a stopped core: where its tick would have fallen (R417). -/
def State.heldCycle (s : State) (m : Nat) : Nat :=
  let k := s.core m
  k.cyc + 1 + (s.tick - k.stopAt)

/-- The bytes of a multicast store over which the member's own timed stores of the tick have not gone: those come last (R228). -/
def Core.underStores (k : Core) (tick : Nat) (xs : List MByte) : List MByte :=
  if k.stored.1 != tick || k.stored.2.isEmpty then xs
  else xs.map fun x => { x with
    mask := k.stored.2.foldl (fun m (y : MByte) => if y.addr == x.addr then m &&& ~~~y.mask else m) x.mask }

/-- A multicast store reaches one member: its bytes land, or wait with a stopped core. -/
def State.landMember (s : State) (m : Nat) (xs : List MByte) : State :=
  if (s.core m).stopped then s.updCore m fun k => { k with held := k.held ++ [(s.heldCycle m, xs)] }
  else s.storeSeen m (fun _ _ => true) ((s.core m).underStores s.tick xs)

/-- Every completion update of an operation whose data is visible, and its end. -/
def State.compEnd (s : State) (c : Nat) (o : Op) : State :=
  s.settle c o (s.compReady c o (List.range (chunkCount o.dataBits))) fun _ =>
    (((s.leaveQueue c o.fork).compAll c o o.dataBits).endOp c o)

/-- The landing of an MCST in every member, then its completion updates. -/
def State.mcstLand (s : State) (c : Nat) (o : Op) : State :=
  if 0 < o.resume then s.compEnd c o
  else
  let w := o.addr.toNat
  let xs : List MByte := ((List.range o.rowLimit).flatMap fun i => (List.range o.dst.sh.cols).flatMap fun j =>
    scatter (o.dst.writePieces i j) (Memory.gather o.taken (o.src.readPieces i j))).map fun x =>
      { x with addr := x.addr - (0x400000 + w * 0x1000) + o.x2.toNat }
  let s1 := (List.range 64).foldl (fun s m => if o.x1.getLsbD m then s.landMember m xs else s) s
  let o1 := { o with resume := chunkCount o.dataBits }
  ((s1.count 5 c ((o.dataBits + 7) / 8)).setOp c o1).compEnd c o1

/-- An operation whose weight-slot source is empty, sparse or of another format stops (R218, Table 11.1). -/
def State.slotChecked (s : State) (c : Nat) (o : Op) (go : State) : State :=
  if o.x1 = 1 then s.stopOp c o .slotEmpty 0
  else if o.x1 = 2 then s.stopOp c o .shapeMismatch 0
  else go

/-- CHUNK_COMPLETE (R217). The next chunk of a copy or near-memory operation, an MCST landing, or the end of a CPYM
whose carried word's last row lands; nothing where the operation cannot act on this tick. -/
def State.chunkStep (s : State) (c e : Nat) : State :=
  match (s.core c).opAt e with
  | none => s
  | some o =>
    if o.kind = .mcst then (if s.mcstReady c o then s.mcstLand c o else s)
    else if !s.opReady c o then s
    else match o.kind with
      | .cpym =>
        if o.resume < chunkCount o.dataBits then s.slotChecked c o (s.copyChunk c o)
        else match o.carried.bind (·.lands) with
          | some l =>
            if l ≤ (s.core c).cyc && s.todo.contains c then
              s.compEnd c o
            else s
          | none => s
      | .cpy | .cpyv | .lnrun | .nfill | .ncopy | .ncmp | .nred => s.slotChecked c o (s.copyChunk c o)
      | _ => s

/-! ### The carried word (R221) -/

/-- The MMA or MMAS a CPYM carries: sparse, shapes, slot, modifiers. -/
def carriedMma (w : Half) : Option (Bool × BitVec 5 × BitVec 5 × Nat × Bool × Bool × Bool) :=
  match decode w 0 with
  | some (.mma c a n x y z) => some (false, c, a, n.toNat, x == 1, y == 1, z == 1)
  | some (.mmas c a n x y z) => some (true, c, a, n.toNat, x == 1, y == 1, z == 1)
  | _ => none

/-- CARRIED_WORD_ISSUE (R221). The carried word issues from the copy engine once its copy is visible, no window is
open, its slot is ACTIVE or RETIRING and no handler runs; a failed check stops the operation. -/
def State.carriedIssue (s : State) (c e : Nat) : State :=
  let k := s.core c
  match k.opAt e with
  | none => s
  | some o =>
    match o.carried with
    | none => s
    | some cw =>
      let t := k.slot o.slot
      if !(o.kind == .cpym && s.opReady c o && decide (chunkCount o.dataBits ≤ o.resume) && cw.lands.isNone
          && s.todo.contains c && decide (k.mmaEnd ≤ k.cyc) && (t.st == .active || t.st == .retiring)
          && k.hslot.st != .active) then s
      else match carriedMma cw.word with
        | none => s
        | some (sparse, _, _, w, nega, negb, noacc) =>
          let csh := shapeOf cw.csh
          let ash := shapeOf cw.ash
          let q : QWord := { word := cw.word, idx := o.wpc + 1, seq := o.seq + 1, dcyc := 0 }
          let s1 : State := { s with who := { core := c, slot := o.slot, q := q, cyc := t.tc } }
          let wps := Vector.ofFn fun (i : Fin 4) => if o.supp then 0 else (o.wps[i.val]?).getD 0
          let seen := s1.updCur fun t => { t with wp := wps }
          match seen.mmaChecks sparse w noacc csh ash cw.cv cw.av with
          | some f => s.stopOp c o f.code f.addr.toNat
          | none =>
            let m : MatOp := { s1.matOp .mma with slot := o.slot, launch := o.launch, forOp := some o.entry }
            let b := k.wslot w
            let no := ash.entryNo k
            let ea := k.fmt no
            let eb := fmtOfBits b.fmt
            let rate2 := mmaRate2 ea eb
            let m1 := { m with
              rate2 := rate2, csh := cw.csh, ash := cw.ash, cv := cw.cv, av := cw.av, fa := (no, k.entry no)
              intPath := intKinds ea eb, nega := nega, negb := negb, noacc := noacc, wslot := w, b := b }
            let k1 := k.setTags (csh.accRows (min cw.av cw.cv)) (intKinds ea eb)
            let k2 := { k1 with
              mmaEnd := k.cyc + (2 * ash.rows + rate2 - 1) / rate2
              mats := k1.mats ++ [m1] }
            (s.setCore c k2).setOp c { o with carried := some { cw with lands := some m1.last }, supp := false }

/-! ### CINIT's clear (R231) -/

/-- The bits a CINIT clears, at the bank. -/
def State.cinitClear (s : State) (c : Nat) (o : Op) : State :=
  let a := compPackage c o.comp
  let bad := (o.compBytes c (List.range (chunkCount o.dataBits))).find? fun x => s.poison.contains (x / 64 * 64)
  match bad with
  | some b => s.stopOp c o .poison b
  | none =>
  let xs := (List.range (chunkCount o.dataBits)).map fun n =>
    ({ addr := a + n / 8, bits := 0, mask := BitVec.ofNat 8 (2 ^ (n % 8)) } : MByte)
  ((s.writeUnit xs).aluUpdate a 1).setOp c { o with finished := true, pst := .done }

/-! ### Checks at issue and fork (R213, R218, R230) -/

/-- Spaces a word's source and destination may have (Tables 7.3, 7.6). -/
def copySpaces (k : OpKind) : List Nat × List Nat :=
  match k with
  | .cpym => ([0, 1, 2, 3, 4, 5], [0])
  | .nfill | .nred => ([0, 2, 3], [2])
  | .ncopy | .ncmp => ([2], [2])
  | _ => ([0, 1, 2, 3, 4, 5], [0, 1, 2, 3, 4])

/-- A format of Table 7.5. -/
def bankFormat (e : Fmt) : Bool :=
  match e.kind with
  | .float => e.sgn && (e.tw == 32 && e.ew == 8 && e.fw == 23 || e.tw == 16 && e.ew == 8 && e.fw == 7)
      && e.bias == 127 && e.spc == 0
  | .sint | .uint => e.tw == 8 || e.tw == 16 || e.tw == 32
  | _ => false

/-- The weight slot of a SPACE 5 shape. -/
def Shape.slotNo (h : Shape) : Nat := h.base / 0x10000

/-- The operand of a copy; a weight slot's is its latched entry (R90, R218). -/
def Shape.copyOperand (h : Shape) (k : Core) (r : Regs) : Operand :=
  let no := h.entryNo k
  let w := k.wslot h.slotNo
  .of h no (if h.space = 5 && w.loaded && w.fmtNo.toNat == no then w.fmt else k.entry no) (h.validBy r)

/-- Why a SPACE 5 source stops its operation: 1 SLOT_EMPTY, 2 SHAPE_MISMATCH (R218, Table 11.1). -/
def Core.slotStatus (k : Core) (h : Shape) : Nat :=
  let w := k.wslot h.slotNo
  if h.space != 5 then 0
  else if !w.loaded then 1
  else if w.sparse != 0 || w.fmtNo.toNat != h.fmt then 2
  else 0

/-- The bytes of a slot's live copy at their offsets in SPACE 5 (R218). DESIGN CHOICE (log 27): offsets past the elements it holds, or
past the slot's 64 KiB, read zero; the spec names no fault. -/
def Core.slotBytes (k : Core) (n : Nat) : Memory :=
  let w := k.wslot n
  let cb := containerBits (fmtOfBits w.fmt).tw
  w.live.foldl (fun m (x : Nat × Nat) =>
    m.writeMasked (scatterPiece (8 * 0x10000 * n + cb * x.1) cb x.2)) []

/-- The address row at the extreme offsets of a loop nest. -/
def Operand.spans (x : Operand) (write : Bool) (ex : Int × Int) : Bool :=
  (x.shift ex.1).inSpace write && (x.shift ex.2).inSpace write

/-- A bank crossing of the extent itself, or at the extreme offsets (R224). -/
def Operand.crossesAt (x : Operand) (k : Core) (write : Bool) (ex : Int × Int) : Bool :=
  x.crosses k write || (x.shift ex.1).crosses k write || (x.shift ex.2).crosses k write

/-- The entries a near-memory word requires (Tables 7.5, 7.6). DESIGN CHOICE (log 27): Table 7.6 names no fault for entries that do not
meet it; the word raises FORMAT_ILLEGAL. -/
def nearFormats (kind : OpKind) (rop : Nat) (S B D : Operand) : Bool :=
  match kind with
  | .nfill => bankFormat S.e && bankFormat D.e
  | .ncopy => bankFormat S.e && bankFormat D.e && (S.no == D.no
      || S.e.kind == .float && D.e.kind == .float && S.e.tw != D.e.tw)
  | .ncmp => bankFormat S.e && bankFormat D.e && S.no == B.no && (D.e.kind == .sint || D.e.kind == .uint)
  | .nred => bankFormat D.e && S.no == D.no
      && (decide (rop < 3) || D.e.kind == .sint || D.e.kind == .uint)
  | _ => true

/-- Completion value and bitmap limit (R214, R215). -/
def State.compFault (s : State) (gc : BitVec 6) (n : Nat) : Option Raised :=
  if gc = 0 then none
  else
    let v := s.g gc
    firstFault [faultIf (compBitmap v && decide (4096 < n)) .shapeRange, s.compChecks v n]

/-- The checks at issue of every CP word but MCST (R218, R224, R230, R231). -/
def State.copyChecks (s : State) (kind : OpKind) (rop : Nat) (S B D : Operand) (ln : List LnLevel)
    (gc : BitVec 6) : Option Raised :=
  let k := s.me
  let sp := copySpaces kind
  let exS := lnExtremes ln (·.sstr)
  let exD := lnExtremes ln (·.dstr)
  let cmp := kind == .ncmp
  let w := k.wslot S.sh.slotNo
  let form := fun (x : Operand) (ok : List Nat) =>
    x.sh.fieldsOk ok && (x.sh.space != 0 || decide (x.sh.base < scratchSize)) && x.planarOk
  firstFault [
    if S.sh.space = 5 then s.slotPriv S.sh.slotNo else none,
    if S.sh.space = 5 then s.pairPriv (w.loaded && w.pair) S.sh.slotNo else none,
    faultIf (!form S sp.1 || (cmp && !form B sp.1) || !form D sp.2) .shapeRange,
    faultIf (!S.legal || (cmp && !B.legal) || !D.legal || !nearFormats kind rop S B D) .formatIllegal,
    faultIf (ln.any fun l => l.count == 0) .shapeRange,
    faultIf (!S.spans false exS || (cmp && !B.inSpace false) || !D.spans true exD) .shapeRange,
    faultIf (if kind = .nfill then S.sh.rows != 1 || S.sh.cols != 1
      else S.sh.rows != D.sh.rows || S.sh.cols != D.sh.cols
        || (cmp && (B.sh.rows != D.sh.rows || B.sh.cols != D.sh.cols))) .shapeMismatch,
    faultIf (S.crossesAt k false exS || D.crossesAt k true exD) .shapeMismatch,
    faultIf (kind == .cinit && (gc == 0 || !compBitmap (s.g gc))) .shapeRange,
    s.compFault gc (chunkCount (dataBits D.sh.rows D.sh.cols D.cb (lnCount ln)))]

/-- First and last byte of an extent over a loop nest, for the overlap of R219. -/
def Operand.bounds (x : Operand) (planes : Nat) (ex : Int × Int) : Int × Int :=
  let bs := x.sh.corners.flatMap fun (i, j) => x.sh.bitsOf x.cb planes i j
  (bs.foldl min (8 * x.sh.addr) / 8 + ex.1, bs.foldl max (8 * x.sh.addr) / 8 + ex.2)

/-- Do two extents of one space share a range? -/
def Operand.meets (S D : Operand) (exS exD : Int × Int) : Bool :=
  let a := S.bounds S.rp exS
  let b := D.bounds D.wp exD
  S.sh.space == D.sh.space && decide (a.1 ≤ b.2) && decide (b.1 ≤ a.2)

/-- Tags a copy into the accumulator sets at its fork (R93). -/
def copyTags (S D : Operand) (ln : List LnLevel) (lim : Nat) (tags : BitVec 1024) : BitVec 1024 :=
  if D.sh.space != 1 then tags
  else (List.range (lnCount ln)).foldl (fun t q =>
    let off := lnOffset ln q
    (List.range lim).foldl (fun t i => (List.range D.sh.cols).foldl (fun t j =>
      let row := (((D.shift off.2).sh.bitAddr D.cb i j / 8 - accBase) / 1024).toNat
      if ((S.shift off.1).entryAt tags i j).2.kind = .float then t &&& ~~~((1 : BitVec 1024) <<< row)
      else t ||| ((1 : BitVec 1024) <<< row)) t) t) tags

/-- The operation a CP word forks (R42, R90). -/
def State.copyOp (s : State) (kind : OpKind) (S B D : Operand) (ln : List LnLevel) (gc : BitVec 6)
    (cls : BitVec 4) : Op :=
  let k := s.me
  let cmp := kind == OpKind.ncmp
  let o := s.newOp kind cls.toNat
  let bn := (s.who.q.pfx.mods.extractLsb' 1 4).toNat
  let exD := lnExtremes ln (·.dstr)
  let o1 := { o with
    comp := s.g gc, hasComp := gc != 0 && kind != OpKind.cinit
    sh1 := S.sh.raw, sh2 := D.sh.raw, sh3 := if cmp then B.sh.raw else 0
    v1 := S.valid, v2 := D.valid, v3 := if cmp then B.valid else 0
    f1 := (S.no, S.word), f2 := (D.no, D.word), f3 := if cmp then (B.no, B.word) else (0, 0)
    ln := ln, x1 := BitVec.ofNat 64 (k.slotStatus S.sh)
    taken := if S.sh.space = 5 then k.slotBytes S.sh.slotNo else []
    tags1 := k.acctag
    overlap := S.meets D (lnExtremes ln (·.sstr)) exD || (cmp && B.meets D (0, 0) exD) || (S.sh.space == 4 && D.sh.space == 4)
    bnd := s.cur.regs.readB bn, bn := bn }
  { o1 with tags2 := copyTags S D ln o1.rowLimit k.acctag }

/-- The fork of a CP word: accumulator tags, then the operation. -/
def State.forkCopy (s : State) (o : Op) : State :=
  if s.me.freeEntry.isNone then s.fork o else (s.fork o).updMe fun k => { k with acctag := o.tags2 }

/-- A CP word but MCST: its checks and its fork. -/
def copyWord (i : Instr) (rule : PfxRule) (kind : OpKind) (shs shd : BitVec 5) (gc : BitVec 6) (cls : BitVec 4)
    (fix : Op → Op) (s : State) : Step :=
  let k := s.me
  let r := s.cur.regs
  let S := (shapeOf (s.sh shs)).copyOperand k r
  let D := (shapeOf (s.sh shd)).copyOperand k r
  let B := (shapeOf (r.readSh (shs.toNat + 1))).copyOperand k r
  let ln := if kind = .lnrun then s.cur.ln.toList else []
  let rop := (s.who.q.pfx.mods.extractLsb' 0 4).toNat
  coreWord i rule 0 s (checked (s.copyChecks kind rop S B D ln gc) (s.forkCopy (fix (s.copyOp kind S B D ln gc cls))))

def execCpy (shs shd : BitVec 5) (gc : BitVec 6) (cls : BitVec 4) (s : State) : Step :=
  copyWord (.cpy shs shd gc cls) { rounds := true } .cpy shs shd gc cls id s

/-- CPYV takes BN in PAY[8:5] (R213, R220). -/
def execCpyv (shs shd : BitVec 5) (gc : BitVec 6) (cls : BitVec 4) (s : State) : Step :=
  copyWord (.cpyv shs shd gc cls) { rounds := true, mods := fun m => m.toNat % 2 == 0 && decide (m.toNat < 32) }
    .cpyv shs shd gc cls id s

/-- What CPYM captures for its carried word at the fork (R221). -/
def State.captureCarried (s : State) (w : Half) : Option Carried :=
  (carriedMma w).map fun (_, c, a, _) =>
    { word := w, csh := s.sh c, ash := s.sh a, cv := (shapeOf (s.sh c)).validBy s.cur.regs
      av := (shapeOf (s.sh a)).validBy s.cur.regs }

/-- CPYM (R70, R221): the carried word's decode checks come first, at CPYM's issue. -/
def execCpym (shs shd : BitVec 5) (gc : BitVec 6) (cls : BitVec 4) (carried : Half) (s : State) : Step :=
  let mma := engineOf carried == 2 && decide (fld carried.toNat 20 6 < 2)
  if !mma then .next (s.raise { code := .illegalOpcode })
  else if idleOf carried != 0 || (carriedMma carried).isNone then .next (s.raise { code := .reservedField })
  else copyWord (.cpym shs shd gc cls carried) { rounds := true } .cpym shs shd gc cls
    (fun o => { o with carried := s.captureCarried carried }) s

/-- LNSET (R223). -/
def execLnset (gstr gcnt : BitVec 6) (lvl : BitVec 8) (s : State) : Step :=
  coreWord (.lnset gstr gcnt lvl) {} 0 s (.ok (s.land 1 (.lnset lvl.toNat
    { count := (s.g gcnt).extractLsb' 0 32, sstr := (s.g gstr).extractLsb' 0 32
      dstr := (s.g gstr).extractLsb' 32 32 })))

/-- LNCLR (R223). -/
def execLnclr (s : State) : Step := coreWord .lnclr {} 0 s (.ok (s.land 1 .lnclr))

/-- LNRUN (R224) clears LNSTAT.ERR when it forks (R225). -/
def execLnrun (shs shd : BitVec 5) (gc : BitVec 6) (cls : BitVec 4) (s : State) : Step :=
  match copyWord (.lnrun shs shd gc cls) { rounds := true } .lnrun shs shd gc cls id s with
  | .next t =>
    if t.me.forkNo = s.me.forkNo then .next t else .next (t.updCur fun x => { x with lnErr := false })
  | r => r

def execNfill (shs shd : BitVec 5) (gc : BitVec 6) (cls : BitVec 4) (s : State) : Step :=
  copyWord (.nfill shs shd gc cls) { rounds := true } .nfill shs shd gc cls id s
def execNcopy (shs shd : BitVec 5) (gc : BitVec 6) (cls : BitVec 4) (s : State) : Step :=
  copyWord (.ncopy shs shd gc cls) { rounds := true } .ncopy shs shd gc cls id s
def execNcmp (shs shd : BitVec 5) (gc : BitVec 6) (cls : BitVec 4) (s : State) : Step :=
  copyWord (.ncmp shs shd gc cls) { mods := fun m => decide (m.toNat < 4) } .ncmp shs shd gc cls id s
def execNred (shs shd : BitVec 5) (gc : BitVec 6) (cls : BitVec 4) (s : State) : Step :=
  copyWord (.nred shs shd gc cls) { rounds := true, mods := fun m => decide (m.toNat < 6) }
    .nred shs shd gc cls id s

/-- CINIT (R231): the bitmap is its completion value, and it makes no completion update. -/
def execCinit (shs shd : BitVec 5) (gc : BitVec 6) (cls : BitVec 4) (s : State) : Step :=
  copyWord (.cinit shs shd gc cls) {} .cinit shs shd gc cls (fun o => { o with tags2 := s.me.acctag }) s

/-! ### MCST (R227) -/

/-- Window of a destination address. -/
def mcstWindow (base : Nat) : Nat := (base - 0x400000) / 0x1000

/-- The operand of an MCST destination: its FMT names its entry. -/
def Shape.mcstOperand (h : Shape) (k : Core) (r : Regs) : Operand :=
  .of h h.fmt (k.entry h.fmt) (h.validBy r)

/-- Bits of a multicast window's members. -/
def State.mcstChecks (s : State) (S D : Operand) (gc : BitVec 6) : Option Raised :=
  let k := s.me
  let x := s.ctx s.cur.ctx
  let w := mcstWindow D.sh.base
  let win := x.mwindow w
  let lo := 0x400000 + w * 0x1000
  let n := chunkCount (dataBits D.sh.rows D.sh.cols D.cb 1)
  let bytes := S.validBytes false
  let supp := s.inHandler || s.who.q.supp
  firstFault [
    faultIf (!S.sh.spadOk || !S.planarOk || !D.sh.fieldsOk [0] true || !D.planarOk) .shapeRange,
    faultIf (!D.legal || S.no != D.no) .formatIllegal,
    faultIf (!S.inSpace false) .shapeRange,
    faultIf (!D.sh.within D.cb D.wp (0x400000, 0x410000) || !D.sh.within D.cb D.wp (lo, lo + 0x1000)) .shapeRange,
    faultIf (S.sh.rows != D.sh.rows || S.sh.cols != D.sh.cols || S.crosses k false) .shapeMismatch,
    if gc = 0 then none else faultIf (compBitmap (s.g gc) && decide (4096 < n)) .shapeRange,
    if gc = 0 then none else compShape (s.g gc) n,
    (if supp then none else firstByte bytes fun b => (wpHit s.cur.wp.toList false 0 b 1).isSome).map fun b =>
      { code := .watchpoint, addr := BitVec.ofNat 64 b },
    (if supp then none else firstByte (D.validBytes true) fun b =>
        (wpHit s.cur.wp.toList true 0 b 1).isSome).map fun b =>
      { code := .watchpoint, addr := BitVec.ofNat 64 b },
    if gc = 0 then none else s.compAccess (s.g gc) n,
    (firstByte bytes fun b =>
        !byteGranted (s.jobOfSlot s.who.core s.who.slot) (s.who.slot == 4) b).map fun b =>
      { code := .windowViolation, addr := BitVec.ofNat 64 b },
    faultIf (!win.2.2 || win.1 == 0 || win.1 &&& ~~~x.cmask != 0) .windowViolation (BitVec.ofNat 64 D.sh.base)]

/-- Issue + 20 when every member lies on the issuing die, issue + 36 otherwise (R227). -/
def mcstDelay (core : Nat) (memb : Word) : Nat :=
  if (List.range 64).all fun m => !memb.getLsbD m || m / 16 == core / 16 then 20 else 36

/-- MCST (R227): its source is read at issue, and its members and DBASE are those of its window then. -/
def execMcst (shs shd : BitVec 5) (gc : BitVec 6) (cls : BitVec 4) (s : State) : Step :=
  let k := s.me
  let r := s.cur.regs
  let S := (shapeOf (s.sh shs)).copyOperand k r
  let D := (shapeOf (s.sh shd)).mcstOperand k r
  let w := mcstWindow D.sh.base
  let win := (s.ctx s.cur.ctx).mwindow w
  let bytes := S.validBytes false
  let o := { s.newOp .mcst cls.toNat with
    comp := s.g gc, hasComp := gc != 0, sh1 := S.sh.raw, sh2 := D.sh.raw, v1 := S.valid, v2 := D.valid
    f1 := (S.no, S.word), f2 := (D.no, D.word), addr := BitVec.ofNat 64 w, x1 := win.1
    x2 := BitVec.ofNat 64 win.2.1
    taken := bytes.foldl (fun m a => Memory.set m a (s.mem.get (localAddr s.who.core a))) ([] : Memory)
    atTick := some (s.tick + mcstDelay s.who.core win.1) }
  coreWord (.mcst shs shd gc cls) {} 0 s (checked (s.mcstChecks S D gc) (s.fork o))

end Sys2Proof.Machine
end

