-- ==== Sys2Proof/Machine/Gather.lean ====
section
/-!
DEFINITION. Gathers and scatters (R232 to R237): the gather record and its checks, index resolution, and the position
or bag each step of the operation performs.
-/
namespace Sys2Proof.Machine

/-! ### The gather record (Table 7.7) -/

structure GRec where
  tbase  : Nat
  tspc   : Nat
  tfmt   : Nat
  rbytes : Nat
  rcount : Nat
  iaddr  : Nat
  ispc   : Nat
  itype  : Nat
  oor    : Nat
  dedup  : Bool
  dsh    : Nat
  opn    : Nat
  icount : Nat
  baddr  : Nat
  bcount : Nat
  defrow : Nat
  comp   : Word
  /-- are all reserved bits zero? -/
  clean  : Bool
  deriving DecidableEq, Repr

def grecOf (r : BitVec 512) : GRec :=
  let f := fun lo len => (r.extractLsb' lo len).toNat
  { tbase := f 0 64, tspc := f 64 3, tfmt := f 72 8, rbytes := f 80 16, rcount := f 96 32, iaddr := f 128 64
    ispc := f 192 3, itype := f 195 2, oor := f 200 2, dedup := r.getLsbD 202, dsh := f 203 5, opn := f 208 3
    icount := f 224 32, baddr := f 256 64, bcount := f 320 32, defrow := f 352 32, comp := r.extractLsb' 384 64
    clean := f 67 5 == 0 && f 197 3 == 0 && f 211 13 == 0 && f 448 64 == 0 }

/-- Bytes of an index entry. -/
def GRec.isize (g : GRec) : Nat := if g.itype < 2 then 4 else 8

/-- The rows a word's shape must have. -/
def GRec.rows (g : GRec) (kind : OpKind) : Nat := if kind = .gbag then g.bcount else g.icount

def GRec.indexAt (g : GRec) (p : Nat) : Nat := (g.iaddr + p * g.isize) % 2 ^ 64
def GRec.offsetAt (g : GRec) (b : Nat) : Nat := (g.baddr + 4 * b) % 2 ^ 64
def GRec.rowAt (g : GRec) (r : Nat) : Nat := (g.tbase + r * g.rbytes) % 2 ^ 64

/-- Data bits of one row for chunks (R237). -/
def rowBits (kind : OpKind) (g : GRec) (D : Operand) : Nat :=
  match kind with
  | .gscat | .gsadd => 8 * g.rbytes
  | _ => D.sh.cols * D.cb

/-- OPN values of a word (R233). -/
def opnOk (kind : OpKind) (n : Nat) : Bool :=
  match kind with
  | .gath => n == 0
  | .gbag => n == 1 || n == 2 || n == 3
  | .gscat => n == 4
  | _ => n == 5

/-- A buffer a word names in scratchpad: the checks of R132 (R232, R240, R268, R273). DESIGN CHOICE (log 27): an address outside the
scratchpad raises WINDOW_VIOLATION, in the granted accumulator as well, for which the spec names no fault. -/
def State.bufferChecks (s : State) (write : Bool) (a len align : Nat) : Option Raised :=
  firstFault [s.watch write a len, faultIf (a % align != 0) .alignFault (BitVec.ofNat 64 a),
    if a + len ≤ scratchSize then s.grantFault false a len else faultIf true .windowViolation (BitVec.ofNat 64 a)]

def spaceOk (n : Nat) : Bool := n == 0 || n == 2 || n == 3 || n == 4

/-- The checks of a gather at issue (R232, R233). -/
def State.gatherChecks (s : State) (kind : OpKind) (a : Nat) (g : GRec) (D : Operand) : Option Raised :=
  let k := s.me
  let te := k.fmt g.tfmt
  let scat := kind == .gscat || kind == .gsadd
  let inD := D.sh.space == 0 && decide (D.sh.base < scratchSize) || D.sh.space == 2 || D.sh.space == 3
  let n := chunkCount (g.rows kind * rowBits kind g D)
  firstFault [
    s.bufferChecks false a 64 64,
    faultIf (!g.clean || !spaceOk g.tspc || !spaceOk g.ispc || !opnOk kind g.opn) .reservedField,
    faultIf (!k.entryOk g.tfmt || (kind == .gsadd && !bankFormat te) || (inD && !D.legal)) .formatIllegal,
    faultIf (!inD || !D.sh.fieldsOk [0, 2, 3] || !D.planarOk || !D.inSpace (!scat)
      || (kind == .gsadd && g.tspc != 2) || (compBitmap g.comp && decide (4096 < n))) .shapeRange,
    compShape g.comp n,
    faultIf (D.sh.cols * containerBits te.tw != 8 * g.rbytes || D.sh.rows != g.rows kind
      || D.crosses k (!scat)) .shapeMismatch,
    faultIf ((g.oor == 2 && g.rcount == 0) || (g.oor == 3 && decide (g.rcount ≤ g.defrow))) .gatherRange,
    s.compAccess g.comp n]

/-- Do two ranges of bytes meet? -/
def rangesMeet (s1 a1 n1 s2 a2 n2 : Nat) : Bool :=
  s1 == s2 && decide (a1 < a2 + n2) && decide (a2 < a1 + n1)

/-- May a gather read bytes it writes (R219)? -/
def gatherOverlap (kind : OpKind) (g : GRec) (D : Operand) : Bool :=
  let b := D.bounds (max D.rp D.wp) (0, 0)
  let d := (D.sh.space, b.1.toNat, (b.2 + 1 - b.1).toNat)
  let t := (g.tspc, g.tbase, g.rcount * g.rbytes)
  let i := (g.ispc, g.iaddr, g.icount * g.isize)
  let f := (g.ispc, g.baddr, if kind = .gbag then g.bcount * 4 else 0)
  let m := fun (x y : Nat × Nat × Nat) => rangesMeet x.1 x.2.1 x.2.2 y.1 y.2.1 y.2.2
  m d t || m d f || m (if kind = .gscat || kind = .gsadd then t else d) i

/-- A gather or scatter word. -/
def gatherWord (i : Instr) (kind : OpKind) (ga : BitVec 6) (cls : BitVec 4) (s : State) : Step :=
  let k := s.me
  let r := s.cur.regs
  let a := (s.g ga).toNat
  let m := s.loadMem ((List.range 64).map (a + ·))
  let raw := BitVec.ofNat 512 (m.1.nat (localAddr s.who.core a) 64)
  let g := grecOf raw
  let D := (shapeOf (r.readSh g.dsh)).operand k r
  let o := { s.newOp kind cls.toNat with
    comp := g.comp, hasComp := true, grec := raw, sh2 := D.sh.raw, v2 := D.valid
    f1 := (g.tfmt, k.entry g.tfmt), f2 := (D.no, D.word), overlap := gatherOverlap kind g D }
  coreWord i { rounds := true } 0 s (checked (s.gatherChecks kind a g D) (m.2.fork o))

def execGath (ga : BitVec 6) (cls : BitVec 4) (s : State) : Step := gatherWord (.gath ga cls) .gath ga cls s
def execGbag (ga : BitVec 6) (cls : BitVec 4) (s : State) : Step := gatherWord (.gbag ga cls) .gbag ga cls s
def execGscat (ga : BitVec 6) (cls : BitVec 4) (s : State) : Step := gatherWord (.gscat ga cls) .gscat ga cls s
def execGsadd (ga : BitVec 6) (cls : BitVec 4) (s : State) : Step := gatherWord (.gsadd ga cls) .gsadd ga cls s

/-! ### Steps of a gather (R234 to R237) -/

/-- Bytes of a range of one space. -/
def rangeBytes (space a n : Nat) (rd wr alu : Bool) : List OpByte :=
  (List.range n).map fun i => { space := space, addr := a + i, rd := rd, wr := wr, alu := alu }

/-- Effective row of an index (Table 7.8): a fault, none, or a row. -/
def GRec.resolve (g : GRec) (x : Int) (entry : Nat) : Check (Option Nat) :=
  if 0 ≤ x ∧ x < g.rcount then .ok (some x.toNat)
  else match g.oor with
    | 0 => .error (.fault .gatherRange entry)
    | 1 => .ok none
    | 2 => .ok (some (if x < 0 then 0 else g.rcount - 1))
    | _ => .ok (some g.defrow)

/-- Steps 1 and 2 of R237: the index of a position and its effective row. -/
def State.readIndex (s : State) (c : Nat) (o : Op) (g : GRec) (p : Nat) : Check (State × Option Nat) := do
  let a := g.indexAt p
  let s1 ← s.opChecks c o (rangeBytes g.ispc a g.isize true false false)
  let r := s1.readElem c o g.ispc [(8 * a, 8 * g.isize, 0)]
  let x : Int := if g.itype % 2 = 0 then signedOf (8 * g.isize) r.1 else (r.1 : Int)
  let row ← g.resolve x a
  return (r.2, row)

/-- Place of column j of a table row. -/
def tablePiece (base cb j : Nat) : Pieces := [(8 * base + cb * j, cb, 0)]

/-- The containers of a table row, read. -/
def State.readTable (s : State) (c : Nat) (o : Op) (g : GRec) (cb cols row : Nat) : List Nat × State :=
  (List.range cols).foldl (fun (acc : List Nat × State) j =>
    let r := acc.2.readElem c o g.tspc (tablePiece (g.rowAt row) cb j)
    (acc.1 ++ [r.1], r.2)) ([], s)

/-- Convert a container between two entries: one entry moves the bits (R95). -/
def moveBits (a b : Nat × Fmt) (x : Nat) (mode : Rounding) : Nat × Flags :=
  if a.1 = b.1 then (x, 0) else convert a.2 b.2 x mode

/-- The bytes of row i of the gather's shape. -/
def Operand.rowOps (D : Operand) (write : Bool) (i : Nat) : List OpByte :=
  (D.rowBytes write i).map fun a => { space := D.sh.space, addr := a, rd := !write, wr := write }

/-- The table containers a DEDUP gather keeps of a row it has read (R235). -/
def keptRow (o : Op) (cols row : Nat) : List Nat :=
  (List.range cols).map fun j => leNat ((List.range 4).map fun i => (o.taken.lookup (row * 262144 + 4 * j + i)).getD 0)

def keepRow (o : Op) (row : Nat) (xs : List Nat) : Op :=
  { o with taken := o.taken ++ (xs.mapIdx fun j x => (bytesLE 4 x).mapIdx fun i b => (row * 262144 + 4 * j + i, b)).flatten
           seen := row :: o.seen }

/-- GATH at position p (R236). -/
def State.gathStep (s : State) (c : Nat) (o : Op) (g : GRec) (p : Nat) : Check (State × Op) := do
  let D := o.dst
  let te := fmtOfBits o.f1.2
  let cb := containerBits te.tw
  let (s1, row) ← s.readIndex c o g p
  match row with
  | none => return (s1, o)
  | some r =>
    let again := g.dedup && o.seen.contains r
    let s2 ← if again then .ok s1 else s1.opChecks c o (rangeBytes g.tspc (g.rowAt r) g.rbytes true false false)
    let s3 ← s2.opChecks c o (D.rowOps true p)
    let (xs, s4) := if again then (keptRow o D.sh.cols r, s3) else s3.readTable c o g cb D.sh.cols r
    let o1 := if g.dedup && !again then keepRow o r xs else o
    return (List.range D.sh.cols).foldl (fun (acc : State × Op) j =>
      let y := moveBits (o.f1.1, te) (D.no, D.e) (xs[j]?.getD 0) o.mode
      acc.1.writeElem c { acc.2 with flags := acc.2.flags ||| y.2 } D.sh.space (D.writePieces p j) y.1) (s4, o1)

/-- GSCAT and GSADD at position p (R236). -/
def State.gscatStep (s : State) (c : Nat) (o : Op) (g : GRec) (p : Nat) : Check (State × Op) := do
  let D := o.dst
  let te := fmtOfBits o.f1.2
  let cb := containerBits te.tw
  let add := o.kind == .gsadd
  let (s1, row) ← s.readIndex c o g p
  match row with
  | none => return (s1, o)
  | some r0 =>
    if g.dedup && o.seen.contains r0 then return (s1, o)
    else
      let s2 ← s1.opChecks c o (rangeBytes g.tspc (g.rowAt r0) g.rbytes add true add)
      let s3 ← s2.opChecks c o (D.rowOps false p)
      let o1 := if g.dedup then { o with seen := r0 :: o.seen } else o
      return (List.range D.sh.cols).foldl (fun (acc : State × Op) j =>
        let x := acc.1.readElem c acc.2 D.sh.space (D.readPieces p j)
        let ps := tablePiece (g.rowAt r0) cb j
        let old := (x.2.readElem c { acc.2 with overlap := false } g.tspc ps).1
        let y := if add then encodeRes te o.mode (vAdd o.mode (te.decode old) (D.e.decode x.1))
          else moveBits (D.no, D.e) (o.f1.1, te) x.1 o.mode
        let r := x.2.writeElem c { acc.2 with flags := acc.2.flags ||| y.2 } g.tspc ps y.1
        (if add then r.1.aluUpdate (g.rowAt r0) 1 else r.1, r.2)) (s3, o1)

/-- One column of a bag (R236). -/
def pool (opn : Nat) (te d : Fmt) (mode : Rounding) (xs : List Nat) : Nat × Flags :=
  let n := xs.length
  match xs.map te.decode with
  | [] => d.encode (Val.zero false) mode
  | v :: vs =>
    if te.kind = .float then
      let round := fun (r : Res) (f : Flags) =>
        let y := encodeRes fmtF32 mode r
        (fmtF32.decode y.1, f ||| y.2)
      let start := round (v, 0) 0
      let acc := vs.foldl (fun (acc : Val × Flags) x =>
        if opn = 3 then (let r := vMax acc.1 x; (r.1, acc.2 ||| r.2)) else round (vAdd mode acc.1 x) acc.2) start
      let fin := if opn = 2 then round (vDiv acc.1 (Val.ofNat n)) acc.2 else acc
      let y := d.encode fin.1 mode
      (y.1, fin.2 ||| y.2)
    else
      let is := (v :: vs).map Val.toInt
      let t := is.foldl (· + ·) 0
      if opn = 3 then d.encode (Val.ofInt (is.foldl max v.toInt)) mode
      else if opn = 2 then d.encode (vDiv (Val.ofInt t) (Val.ofNat n)).1 mode
      else d.encode (Val.ofInt t) mode

/-- The offsets of bag b, read and tested (R236). -/
def State.bagBounds (s : State) (c : Nat) (o : Op) (g : GRec) (b : Nat) : Check (State × Nat × Nat) := do
  let more := decide (b + 1 < g.bcount)
  let a0 := g.offsetAt b
  let a1 := g.offsetAt (b + 1)
  let s1 ← s.opChecks c o (rangeBytes g.ispc a0 4 true false false
    ++ if more then rangeBytes g.ispc a1 4 true false false else [])
  let x := s1.readElem c o g.ispc [(8 * a0, 32, 0)]
  let y := if more then x.2.readElem c o g.ispc [(8 * a1, 32, 0)] else (g.icount, x.2)
  stopAt .gatherRange (if g.icount < x.1 then some a0 else if y.1 < x.1 ∨ g.icount < y.1 then some a1 else none)
  return (y.2, x.1, y.1)

/-- The contributing rows of a bag, in index-list order (R235). -/
def State.bagRows (s : State) (c : Nat) (o : Op) (g : GRec) (cb cols : Nat) :
    List Nat → List Nat → List (List Nat) → Check (State × List (List Nat))
  | [], _, rows => .ok (s, rows)
  | p :: ps, seen, rows => do
    let (s1, row) ← s.readIndex c o g p
    match row with
    | none => s1.bagRows c o g cb cols ps seen rows
    | some r =>
      if g.dedup && seen.contains r then s1.bagRows c o g cb cols ps seen rows
      else
        let s2 ← s1.opChecks c o (rangeBytes g.tspc (g.rowAt r) g.rbytes true false false)
        let (xs, s3) := s2.readTable c o g cb cols r
        s3.bagRows c o g cb cols ps (r :: seen) (rows ++ [xs])

/-- GBAG at bag b (R236, R237). -/
def State.gbagStep (s : State) (c : Nat) (o : Op) (g : GRec) (b : Nat) : Check (State × Op) := do
  let D := o.dst
  let te := fmtOfBits o.f1.2
  let (s1, lo, hi) ← s.bagBounds c o g b
  let (s2, rows) ← s1.bagRows c o g (containerBits te.tw) D.sh.cols ((List.range (hi - lo)).map (lo + ·)) [] []
  let s3 ← s2.opChecks c o (D.rowOps true b)
  return (List.range D.sh.cols).foldl (fun (acc : State × Op) j =>
    let y := pool g.opn te D.e o.mode (rows.map fun xs => xs[j]?.getD 0)
    acc.1.writeElem c { acc.2 with flags := acc.2.flags ||| y.2 } D.sh.space (D.writePieces b j) y.1) (s3, o)

/-- Completion updates of the chunks from a first to below a last (R217, R237). -/
def State.compRange (s : State) (c : Nat) (o : Op) (bits first last : Nat) : State :=
  (List.range (last - first)).foldl (fun s i =>
    let n := chunkBytes bits (first + i)
    (s.count 5 c n).compUpdate c o (first + i) n) s

/-- The next position or bag of a gather, and the chunks it completes; rows at or above the valid count end it. The
count of Success responses that park it (R349) starts anew at each position: DESIGN CHOICE (log 27). -/
def State.gatherStep (s : State) (c : Nat) (o : Op) : State :=
  let g := grecOf o.grec
  let D := o.dst
  let p := o.resume
  let row := rowBits o.kind g D
  let total := g.rows o.kind * row
  let all := chunkCount total
  -- chunks whose data lies below a position
  let below := fun p => if p ≥ o.v2 then all else p * row / 4096
  if o.v2 ≤ p then (s.compRange c o total 0 all).endOp c o
  else
    let r := match o.kind with
      | .gath => s.gathStep c o g p
      | .gbag => s.gbagStep c o g p
      | _ => s.gscatStep c o g p
    let made := (List.range (below (p + 1) - below p)).map (below p + ·)
    let ready : Check (State × Op) := do
      let x ← r
      x.1.compReady c o made
      return x
    s.settle c o ready fun (s1, o1) =>
      let s2 := if o.kind = .gscat || o.kind = .gsadd then s1.unmark (
          if g.tspc = 2 || g.tspc = 3 then (List.range g.rbytes).map ((match s.readIndex c o g p with
            | .ok (_, some r) => g.rowAt r
            | _ => 0) + ·) else [])
        else s1.unmark (if D.sh.space = 2 || D.sh.space = 3 then D.rowBytes true p else [])
      let o2 := { o1 with resume := p + 1, tries := 0, xl := []
                          supp := o1.supp && decide (below (p + 1) = below p) }
      (s2.compRange c o2 total (below p) (below (p + 1))).afterStep c o2 (decide (o.v2 ≤ p + 1))

/-- CHUNK_COMPLETE (R217): copies, near-memory operations, gathers; ticketed updates have their own event. -/
def execChunkComplete (core entry : Nat) (s : State) : Step :=
  match (s.core core).opAt entry with
  | none => .next s
  | some o =>
    if o.isTicketed then .next s
    else match o.kind with
      | .gath | .gbag | .gscat | .gsadd => .next (if s.opReady core o then s.gatherStep core o else s)
      | _ => .next (s.chunkStep core entry)

/-- CARRIED_WORD_ISSUE (R221). -/
def execCarriedWordIssue (core entry : Nat) (s : State) : Step := .next (s.carriedIssue core entry)

end Sys2Proof.Machine
end

