-- ==== Sys2Proof/Machine/Atomics.lean ====
section
/-!
DEFINITION. Bank atomics and ticketed queues (R238 to R243): their checks and fork, and the one step each performs at
its bank; ticketed float updates.
-/
namespace Sys2Proof.Machine

/-! ### Checks at issue (R240, R243) -/

/-- A target in shared memory, or in a scratchpad through the package alias (R240 1). -/
def targetOk (a len : Nat) : Bool :=
  decide (a + len ≤ sharedEnd) || match aliasOf a with
    | some (_, x) => decide (x + len ≤ scratchSize)
    | none => false

/-- WATCHPOINT, ALIGN_FAULT and WINDOW_VIOLATION of a target (R240 3). -/
def State.targetChecks (s : State) (a len : Nat) : Option Raised :=
  let wps := s.cur.wp.toList
  let supp := s.inHandler || s.who.q.supp
  firstFault [
    (if supp then none else ((List.range len).map (a + ·)).find? fun b =>
        (wpHit wps false 1 b 1).isSome || (wpHit wps true 1 b 1).isSome).map fun b =>
      { code := .watchpoint, addr := BitVec.ofNat 64 b },
    faultIf (a % len != 0) .alignFault (BitVec.ofNat 64 a),
    ((s.ctx s.cur.ctx).outside .alu a len).map fun b => { code := .windowViolation, addr := BitVec.ofNat 64 b }]

/-- The checks of an atomic or queue word: place, local record, target. -/
def State.bankChecks (s : State) (a len : Nat) (record : Option Raised) : Option Raised :=
  firstFault [faultIf (!targetOk a len) .shapeRange, record, s.targetChecks a len]

/-! ### Atomics (R239 to R241) -/

/-- An atomic word. -/
def atomicWord (i : Instr) (kind : OpKind) (d a : BitVec 6) (cls : BitVec 4) (wd : BitVec 2) (sext : Bool)
    (s : State) : Step :=
  let n := 2 ^ wd.toNat
  let addr := s.g a
  let returns := kind == .aswap || kind == .acas
  let ret := s.cur.regs.readG (a.toNat + 1)
  let o := { s.newOp kind cls.toNat with
    addr := addr, x1 := s.g d, x2 := if kind = .acas then s.cur.regs.readG (d.toNat + 1) else 0
    ret := if returns then ret else 0, width := n, sext := sext }
  coreWord i { rounds := kind == .afadd } 0 s (checked
    (s.bankChecks addr.toNat n (if returns then s.bufferChecks true ret.toNat n n else none)) (s.fork o))

def execAadd (d a : BitVec 6) (cls : BitVec 4) (wd : BitVec 2) (s : State) : Step :=
  atomicWord (.aadd d a cls wd) .aadd d a cls wd false s
def execAand (d a : BitVec 6) (cls : BitVec 4) (wd : BitVec 2) (s : State) : Step :=
  atomicWord (.aand d a cls wd) .aand d a cls wd false s
def execAor (d a : BitVec 6) (cls : BitVec 4) (wd : BitVec 2) (s : State) : Step :=
  atomicWord (.aor d a cls wd) .aor d a cls wd false s
def execAxor (d a : BitVec 6) (cls : BitVec 4) (wd : BitVec 2) (s : State) : Step :=
  atomicWord (.axor d a cls wd) .axor d a cls wd false s
def execAmin (d a : BitVec 6) (cls : BitVec 4) (wd : BitVec 2) (sx : BitVec 1) (s : State) : Step :=
  atomicWord (.amin d a cls wd sx) .amin d a cls wd (sx == 1) s
def execAmax (d a : BitVec 6) (cls : BitVec 4) (wd : BitVec 2) (sx : BitVec 1) (s : State) : Step :=
  atomicWord (.amax d a cls wd sx) .amax d a cls wd (sx == 1) s
def execAfadd (d a : BitVec 6) (cls : BitVec 4) (wd : BitVec 2) (s : State) : Step :=
  atomicWord (.afadd d a cls wd) .afadd d a cls wd false s
def execAswap (d a : BitVec 6) (cls : BitVec 4) (wd : BitVec 2) (s : State) : Step :=
  atomicWord (.aswap d a cls wd) .aswap d a cls wd false s
def execAcas (d a : BitVec 6) (cls : BitVec 4) (wd : BitVec 2) (s : State) : Step :=
  atomicWord (.acas d a cls wd) .acas d a cls wd false s

/-- The memory value an atomic leaves, and its flags (Table 7.9); n is the width in bytes. -/
def atomicStep (kind : OpKind) (n : Nat) (sext : Bool) (mode : Rounding) (m v new : Nat) : Nat × Flags :=
  let w := 8 * n
  let x := v % 2 ^ w
  let key := fun (y : Nat) => if sext then signedOf w y else (y : Int)
  match kind with
  | .aadd => ((m + x) % 2 ^ w, 0)
  | .aand => (m &&& x, 0)
  | .aor => (m ||| x, 0)
  | .axor => (m ^^^ x, 0)
  | .amin => (if key x < key m then x else m, 0)
  | .amax => (if key m < key x then x else m, 0)
  | .aswap => (x, 0)
  | .acas => (if m = x then new % 2 ^ w else m, 0)
  | _ =>
    let e := fmtOfBits (presetEntry (if n = 2 then 3 else 1))
    encodeRes e mode (vAdd mode (e.decode m) (e.decode x))

/-- The read-modify-write of an atomic at its bank, and its return slot (R241). -/
def State.atomicApply (s : State) (c : Nat) (o : Op) : State :=
  let a := o.addr.toNat
  match firstByte ((List.range o.width).map (a + ·)) s.poisoned with
  | some b => s.stopOp c o .poison b
  | none =>
    let old := s.mem.nat a o.width
    let y := atomicStep o.kind o.width o.sext o.mode old o.x1.toNat o.x2.toNat
    let own := s.keepOlds c o (if inCore c a then (List.range o.width).map fun i => ((aliasOf (a + i)).map (·.2)).getD 0 else [])
    let xs := bytesToMasked a (bytesLE o.width y.1)
    let s1 := (if inCore c a then own.1.writePackage xs else s.writeUnit xs).aluUpdate a 1
    let o := if inCore c a then own.2 else o
    let r := if o.kind = .aswap || o.kind = .acas then
        let x := s1.keepOlds c o ((List.range o.width).map (o.ret.toNat + ·))
        (x.1.writeLocal c (bytesToMasked o.ret.toNat (bytesLE o.width old)), x.2) else (s1, o)
    let s2 := r.1
    let s3 := if o.isTicketed then s2.noteTicket o else s2
    s3.endOp c { r.2 with flags := o.flags ||| y.2 }

/-- Has a step of a ticketed operation gone through, rather than stopped or asked for a page? -/
def State.stepNoted (s : State) (c : Nat) (o : Op) : State :=
  match (s.core c).opAt o.entry with
  | some x => if x.pst = .run then s.noteTicket o else s
  | none => s.noteTicket o

/-- BANK_ATOMIC (R241): an atomic other than AFADD, or a CINIT clear, applies at its bank. -/
def execBankAtomic (core entry : Nat) (s : State) : Step :=
  match (s.core core).opAt entry with
  | none => .next s
  | some o => match o.kind with
    | .aadd | .aand | .aor | .axor | .amin | .amax | .aswap | .acas =>
      .next (if s.opReady core o then s.atBank core o o.addr.toNat o.width fun s => s.atomicApply core o else s)
    | .cinit =>
      .next (if s.opReady core o then s.atBank core o (compPackage core o.comp) 1 fun s => s.slotChecked core o (s.cinitClear core o)
        else s)
    | _ => .next s

/-- TICKETED_UPDATE (R238): an AFADD, or the next step of a float GSADD or NRED ADD, once every task of the launch
with a lower logical index has retired. -/
def execTicketedUpdate (core entry : Nat) (s : State) : Step :=
  match (s.core core).opAt entry with
  | none => .next s
  | some o =>
    if !o.isTicketed || !s.opReady core o then .next s
    else match o.kind with
      | .afadd => .next (s.atBank core o o.addr.toNat o.width fun s => s.atomicApply core o)
      | .gsadd => .next ((s.gatherStep core o).stepNoted core o)
      | _ => .next ((s.copyChunk core o).stepNoted core o)

/-! ### Ticketed queues (R242, R243) -/

/-- Deadline of a queue step: TDEAD from the fork tick. -/
def queueWord (i : Instr) (kind : OpKind) (d q : BitVec 6) (cls : BitVec 4) (s : State) : Step :=
  let addr := s.g q
  let rec_ := s.g d
  let o := { s.newOp kind cls.toNat with
    addr := addr, x1 := s.g d, deadline := some (s.tick + s.cur.tdead.toNat)
    hasComp := kind == .qpop, comp := (1#64 <<< 63) ||| ((rec_ + 8) &&& 0xFFFFFFFFFFFF) }
  coreWord i {} 0 s (checked
    (s.bankChecks addr.toNat 64 (if kind = .qpop then s.bufferChecks true rec_.toNat 16 16 else none)) (s.fork o))

def execQpush (d q : BitVec 6) (cls : BitVec 4) (s : State) : Step := queueWord (.qpush d q cls) .qpush d q cls s
def execQpop (d q : BitVec 6) (cls : BitVec 4) (s : State) : Step := queueWord (.qpop d q cls) .qpop d q cls s

/-- A push or pop is served: the entry, the counter, and for a pop its record (R243). -/
def State.queueServe (s : State) (c : Nat) (o : Op) (ring cap pushed popped : Nat) : State :=
  let a := o.addr.toNat
  let at_ := fun n => (ring + 8 * (n % cap)) % 2 ^ 64
  let w64 := fun x y => bytesToMasked x (bytesLE 8 y)
  if o.kind = .qpush then
    s.afterChecks c o (rangeBytes 2 (at_ pushed) 8 false true true) fun s =>
      (((s.writeUnit (w64 (at_ pushed) o.x1.toNat ++ w64 (a + 16) (pushed + 1))).aluUpdate a 1).noteTicket o).endOp c o
  else
    s.afterChecks c o (rangeBytes 2 (at_ popped) 8 true true true) fun s =>
      let v := s.mem.nat (at_ popped) 8
      let x := s.keepOlds c o ((List.range 8).map (o.x1.toNat + ·))
      let s1 := (x.1.writeUnit (w64 (a + 24) (popped + 1))).writeLocal c (w64 o.x1.toNat v)
      (((s1.compUpdate c o 0 0).aluUpdate a 1).noteTicket o).endOp c x.2

/-- QUEUE_STEP (R243): a push or pop at its bank, in ticket order, once there is room or an entry; past its deadline
it stops with WAIT_DEADLINE. -/
def execQueueStep (core entry : Nat) (s : State) : Step :=
  match (s.core core).opAt entry with
  | none => .next s
  | some o =>
    if !((o.kind == .qpush || o.kind == .qpop) && o.pst == .run && !o.finished) then .next s
    else
      let a := o.addr.toNat
      let f := fun lo n => s.mem.nat (a + lo) n
      let ring := f 0 8
      let cap := f 8 4
      let pushed := f 16 8
      let popped := f 24 8
      let late := match o.deadline with
        | some t => decide (t ≤ s.tick)
        | none => false
      let stands := s.bankStopped core a || s.aluTaken a 8 || s.behindOthers core o.fork [waitPlace a]
      let turn := s.opReady core o && !stands
      let bad := f 12 4 != 0 || f 32 32 != 0 || cap == 0
      let room := if o.kind = .qpush then decide (pushed < popped + cap) else decide (popped < pushed)
      if turn then
        match firstByte ((List.range 64).map (a + ·)) s.poisoned with
        | some b => .next (s.stopOp core o .poison b)
        | none =>
          if bad then .next (s.stopOp core o .reservedField 0)
          else if room then .next ((s.aluTake a 8).queueServe core o ring cap pushed popped)
          else if late then .next (s.stopOp core o .waitDeadline a)
          else .next s
      else if late then .next (s.stopOp core o .waitDeadline a)
      else .next (if s.opReady core o then s.joinQueue core o.fork [waitPlace a] else s)

end Sys2Proof.Machine
end

