-- ==== Sys2Proof/Machine/Trace.lean ====
section
/-!
DEFINITION. Trace records and their buffers (R428 to R432): headers, the queue of each buffer, and the placement of a
record.
-/
namespace Sys2Proof.Machine

/-- A record header (Table 14.1). -/
def recordHeader (kind len tick : Nat) : Word :=
  BitVec.ofNat 64 (tick % 2 ^ 32 + len * 2 ^ 32 + kind * 2 ^ 48 + 0xA5 * 2 ^ 56)

def Debug.buf (d : Debug) (n : Nat) : Buf := d.bufs[n]?.getD {}

def Debug.setBuf (d : Debug) (n : Nat) (b : Buf) : Debug := { d with bufs := d.bufs.setIfInBounds n b }

/-- A field of TRSEL (Table 14.4). -/
def Debug.sel (d : Debug) (lo : Nat) : Nat := (d.trsel.extractLsb' lo 3).toNat

/-- A source gives a record to its buffer: nothing with EN = 0, lost with the queue full (R430, R432). -/
def State.putRecord (s : State) (n : Nat) (kind tick : Nat) (payload : List Word) : State :=
  let b := s.dbg.buf n
  if !b.en then s
  else if 64 ≤ b.queue.length then { s with dbg := s.dbg.setBuf n { b with lost := b.lost + 1 } }
  else
    let r := recordHeader kind (payload.length + 1) tick :: payload
    { s with dbg := s.dbg.setBuf n { b with queue := b.queue ++ [r] } }

/-- Write 8-byte words at a package address; bytes past the end of shared memory or HBM are nowhere (R281). -/
def State.writeWords (s : State) (a : Nat) (ws : List Word) : State :=
  let exists_ := fun (x : MByte) => decide (x.addr < sharedEnd ∨ (hbmBase ≤ x.addr ∧ x.addr < hbmEnd))
  let bytes := s.keyed ((bytesToMasked a (ws.flatMap fun w => bytesLE 8 w.toNat)).filter exists_)
  (s.writePackage bytes).unmark (bytes.map (·.addr))

/-- RECORD_WRITE (R430): the head record of a buffer's queue is written whole, wraps, or is refused. -/
def execRecordWrite (n : Nat) (s : State) : Step :=
  let b := s.dbg.buf n
  match b.queue with
  | [] => .next s
  | r :: rest =>
    let L := 8 * r.length
    let b := { b with queue := rest }
    let put := fun (s : State) (b : Buf) => { s with dbg := s.dbg.setBuf n b }
    let base := b.base.toNat
    if b.size < L ∨ b.stop then .next (put s { b with ovf := b.ovf + 1 })
    else if b.wptr + L ≤ b.size then
      .next (put (s.writeWords (base + b.wptr) r) { b with wptr := (b.wptr + L) % b.size })
    else if b.mode then .next (put s { b with stop := true, ovf := b.ovf + 1 })
    else
      let tick := ((r.head?.getD 0).extractLsb' 0 32).toNat
      let s1 := s.writeWords (base + b.wptr) [recordHeader 15 1 tick]
      .next (put (s1.writeWords base r) { b with wraps := b.wraps + 1, wptr := L })

end Sys2Proof.Machine
end

