-- ==== Sys2Proof/Machine/Sync.lean ====
section
/-!
DEFINITION. The Y words but the manager words (08): synchronisation words and their bank ALU, waits, tests, ALIGN,
fences, traps and return, the format table, watchpoints, ticks; and the events that complete them.
-/
namespace Sys2Proof.Machine

/-! ### Words with a deadline or an offset (R247, R248) -/

/-- A word whose immediate is a deadline: a negative prefixed value raises RESERVED_FIELD (Table 8.2). -/
def deadlineWord (i : Instr) (imm : BitVec 8) (s : State) (body : Word → Verdict) : Step :=
  let xs := s.who.q.pfx.ximm
  let v := immediate xs 8 false imm.toNat
  if !xs.isEmpty && decide ((v.getD 0).toInt < 0) then .next (s.raise { code := .reservedField })
  else coreWord i { ximm := true } 0 s (body (v.getD 0)) v.isSome

/-- A word whose immediate is an offset; `sx` where the unprefixed one is sign-extended. -/
def offsetWord (i : Instr) (sx : Bool) (lvl : Nat) (imm : BitVec 8) (s : State) (body : Word → Verdict) : Step :=
  let v := immediate s.who.q.pfx.ximm 8 sx imm.toNat
  coreWord i { ximm := true } lvl s (body (v.getD 0)) v.isSome

/-- The context of a word that has frozen its slot, for what it lands on completing at the next task cycle (R248). -/
def State.asFrozen (s : State) (c n : Nat) (z : Freeze) : State :=
  { s with who := { core := c, slot := n, q := z.q, cyc := (s.slot c n).tc - 1 } }

/-- A frozen word completes; the task's next cycle runs on a tick or later, when its matrix words have landed (R38). -/
def State.thaw (s : State) (c n : Nat) (startTick : Nat) : State :=
  let last := (s.core c).matsLast n
  s.updSlot c n fun t => { t.release with
    startTick := startTick
    startAt := max t.startAt last
    supp := match t.freeze with
      | some z => t.supp && z.q.idx != t.hpc
      | none => t.supp }

/-- A frozen word completes on the tick on which the task's next cycle runs, where no matrix word of it is in flight; that
cycle's results land. -/
def State.thawNow (s : State) (c n : Nat) : State :=
  let s1 := s.thaw c n s.tick
  let t := s1.slot c n
  if t.freeze.isNone && decide (t.startAt ≤ (s.core c).cyc) then s1.landCycle c n else s1

/-- A frozen word goes back to its queue, to issue again (R44, R248). -/
def State.reissue (s : State) (c n : Nat) (startTick : Nat) : State :=
  let last := (s.core c).matsLast n
  s.updSlot c n fun t => match t.freeze with
    | some z => { (t.putBack z.q (t.tc - 1)).release with startTick := startTick, startAt := max t.startAt last }
    | none => t

/-- The task leaves its freeze with no word of it completed: all go back to their queues (R248). -/
def State.reissueAll (s : State) (c n : Nat) (startTick : Nat) : State :=
  let last := (s.core c).matsLast n
  s.updSlot c n fun t =>
    if t.freeze.isSome then { t.putFrozen (t.tc - 1) with startTick := startTick, startAt := max t.startAt last } else t

/-- One of the words that hold a slot frozen faults: all go back to their queues and the fault stands (R248, R305), but where
a word earlier in stream order has faulted at its landing on the same boundary (R336). -/
def State.faultWord (s : State) (c n : Nat) (z : Freeze) (code : FaultCode) (addr : Word) : State :=
  let f : Raised := { code := code, addr := addr, idx := z.q.idx, word := z.q.word, seq := z.q.seq, tick := s.tick }
  s.updSlot c n fun t =>
    if (t.flt.map fun g => g.landed && decide (f.seq < g.seq)).getD true then
      { (t.putFrozen t.tc).takeFault f (s.tick, (s.core c).cyc) with startTick := s.tick + 1 }
    else t

/-- The first of them faults. -/
def State.faultFrozen (s : State) (c n : Nat) (code : FaultCode) (addr : Word) : State :=
  match (s.slot c n).freeze with
  | none => s
  | some z => s.faultWord c n z code addr

/-- Is a slot one that issues, or that has words delivered before its EXIT (R143)? -/
def Slot.goesOn (t : Slot) : Bool := t.st == .active || t.st == .retiring

/-- May a slot's frozen word act on this tick: the core has a cycle, and the slot is one that issues? -/
def State.frozenActs (s : State) (c n : Nat) : Bool :=
  s.todo.contains c && (s.slot c n).goesOn && (s.slot c n).flt.isNone

/-! ### Synchronisation words and bitmaps (R249, R250, R253) -/

/-- GEN of a synchronisation word at a package address. -/
def State.genOf (s : State) (a : Nat) : Nat := s.mem.nat (a + 4) 4

/-- Has a word reached a generation (Table 8.4)? -/
def reachedGen (gen target : Nat) : Bool := decide ((gen + 2 ^ 32 - target % 2 ^ 32) % 2 ^ 32 < 2 ^ 31)

/-- Are bits 0 to n − 1 of a bitmap all 1? -/
def State.bitmapFull (s : State) (a n : Nat) : Bool := s.mem.nat a ((n + 7) / 8) % 2 ^ n == 2 ^ n - 1

/-- First poisoned byte of an object in shared memory (R305). -/
def State.objectPoison (s : State) (comp : Word) (n : Nat) : Option Nat :=
  if compShared comp then firstByte ((List.range (compLen comp n)).map (compAddr comp + ·)) s.poisoned
  else none

/-- Join the operations of a slot whose completion object is the one observed (R43), which acquires what was released to it (R294). -/
def State.joinObject (s : State) (c n : Nat) (comp : Word) : State :=
  (s.joinWhere c n fun o => o.hasComp && compBitmap o.comp == compBitmap comp
    && compPackage c o.comp == compPackage c comp).acquireFrom c n (compPackage c comp)

/-- The 32 bytes of a synchronisation word. -/
structure SyncWord where
  arr    : Nat
  exp    : Nat
  gen    : Nat
  bytes  : Int
  target : Nat
  neg    : Bool
  beyond   : Bool
  deriving DecidableEq, Repr

def State.syncWord (s : State) (a : Nat) : SyncWord :=
  let f := s.mem.nat (a + 24) 1
  { arr := s.mem.nat a 2, exp := s.mem.nat (a + 2) 2, gen := s.mem.nat (a + 4) 4
    bytes := signedOf 64 (s.mem.nat (a + 8) 8), target := s.mem.nat (a + 16) 8
    neg := f.testBit 0, beyond := f.testBit 1 }

/-- Write a word back; its reserved bits are kept (R249). -/
def State.setSyncWord (s : State) (a : Nat) (w : SyncWord) : State :=
  let fields := bytesLE 2 w.arr ++ bytesLE 2 w.exp ++ bytesLE 4 w.gen
    ++ bytesLE 8 (w.bytes % 2 ^ 64).toNat ++ bytesLE 8 w.target
  let bits := BitVec.ofNat 8 ((if w.neg then 1 else 0) + (if w.beyond then 2 else 0))
  let flags : MByte := { addr := a + 24, mask := 3, bits := bits }
  s.writeUnit (bytesToMasked a fields ++ [flags])

/-- The initial value of SWINIT (R251). -/
def SyncWord.init (gi : Word) : SyncWord :=
  { arr := 0, exp := (gi.extractLsb' 0 16).toNat, gen := 0, bytes := (gi.extractLsb' 16 48).toNat
    target := (gi.extractLsb' 16 48).toNat, neg := false, beyond := false }

/-- The updates of one cycle and the one test of the advance (R250): the word, and whether it advanced. -/
def SyncWord.step (w : SyncWord) (arrivals : Nat) (amount : Int) : SyncWord × Bool :=
  let arr := (w.arr + arrivals) % 2 ^ 16
  let bytes := w.bytes - amount
  let w1 := { w with arr := arr, bytes := bytes, neg := w.neg || decide (bytes < 0)
                     beyond := w.beyond || (decide (0 < arrivals) && decide (w.exp < w.arr + arrivals)) }
  if arr = w.exp ∧ bytes = 0 then
    ({ w1 with gen := (w.gen + 1) % 2 ^ 32, arr := 0, bytes := (w.target : Int) }, true)
  else (w1, false)

/-- Has a matrix word of a slot that a test selects, issued before a place in the order of issue, memory accesses to perform? -/
def Core.matsAccess (k : Core) (n iss seq : Nat) (sel : MatOp → Bool) : Bool :=
  k.mats.any fun m => m.slot == n && m.forOp.isNone && sel m && m.accessing k.cyc && issuedBefore m.iss m.seq iss seq

/-- Have the accesses an ARRIVE releases performed: those of the timed words the task issued before it (R252)? -/
def Core.storesDone (k : Core) (n iss seq : Nat) : Bool :=
  !((k.slot n).landings.any fun l => l.isStore && issuedBefore l.iss l.seq iss seq) && !k.matsAccess n iss seq fun _ => true

/-- Have those an ALIGN releases: every pending store of the task besides, which lands in its freeze (R256, R498)? -/
def Core.drained (k : Core) (n iss seq : Nat) : Bool := !(k.slot n).storesPending && !k.matsAccess n iss seq fun _ => true

/-- May an ARRIVE operation apply on this tick (R252)? -/
def State.arriveReady (s : State) (c : Nat) (o : Op) : Bool :=
  o.kind == .arrive && s.opReady c o && (s.core c).storesDone o.slot o.iss o.seq

/-- The ARRIVE operations that apply at an address on this tick, with their cores. -/
def State.arrivals (s : State) (a : Nat) : List (Nat × Op) :=
  (List.range 64).flatMap fun c => ((s.core c).ops.filter fun o =>
    compPackage c o.comp == a && s.arriveReady c o && !s.bankStopped c a).map fun o => (c, o)

/-- What an ALIGN of a slot sees of an application at its word: the generation its arrival met, the advance. -/
def alignSees (s : State) (c a g0 : Nat) (mine advanced : Bool) (t : Slot) : Slot :=
  let see := fun (h : Hold) => match h with
    | .align comp gd st =>
      if compPackage c comp != a then h
      else match st with
        | .sent => if mine then .align comp gd (if advanced then .advanced g0 s.tick else .met g0) else h
        | .met g => if advanced && g == g0 then .align comp gd (.advanced g s.tick) else h
        | _ => h
    | h => h
  { t with
    freeze := t.freeze.map fun z => { z with hold := see z.hold }
    arrived := t.arrived.map fun x => (x.1, see x.2) }

/-- May an update apply on this tick? A signal of a link engine waits for no flit (R395). -/
def State.freeAt (s : State) (addr : Nat) (u : SyncUpd) : Bool :=
  u.addr == addr && decide (u.due ≤ s.tick) && !s.clockStopped u.core addr && (u.link || !s.linkHolds addr)

/-- What the tasks that arrive at an object know is released to it (R252, R256, R294). -/
def State.arriveRelease (s : State) (addr : Nat) (from_ : List (Nat × Nat)) : State :=
  from_.foldl (fun s x => s.releaseTo addr (s.slot x.1 x.2).knows) s

/-- An update meets poison: the operation whose chunk it completes, or the ALIGN whose arrival it is, raises POISON (R305, R455). -/
def State.updatePoisoned (s : State) (u : SyncUpd) (b : Nat) : State :=
  match u.op, u.by_, u.src with
  | some (n, _), some f, _ =>
    if (s.slot u.core n).st == .empty then s
    else s.updSlot u.core n fun t => { t with waiting := t.waiting ++ [{ f with addr := BitVec.ofNat 64 b, tick := s.tick }] }
  | _, _, some (c, n) => s.faultFrozen c n .poison b
  | _, _, _ => s

/-- ARRIVAL (R250): every update of a word due on this tick applies, an initialisation first, and the advance is
tested once. A clock-stopped bank holds them, and one a link engine's flit is at, but not a signal of a link engine (R395). A line marked poisoned stops the arrivals, which read it; an initialisation is
written in any case, and every update where a lease is poison-pending (R305, R455). -/
def execArrival (addr : Nat) (s : State) : Step :=
  let mine := s.sync.filter (s.freeAt addr)
  let rest := s.sync.filter fun u => !s.freeAt addr u
  if s.aluTaken addr 32 && !mine.any (·.link) then .next s
  else
    let ops := s.arrivals addr
    let inits := mine.filterMap (·.init)
    match firstByte ((List.range 32).map (addr + ·)) fun a => s.poison.contains (a / 64 * 64) with
    | some b =>
      let s1 := ops.foldl (fun s (c, o) => s.stopOp c o .poison b) s
      let s1 := (mine.filter (·.init.isNone)).foldl (fun s u => s.updatePoisoned u b) s1
      let s2 := match inits.getLast? with
        | some g => (s1.setSyncWord addr (SyncWord.init g)).aluUpdate addr inits.length
        | none => s1
      .next { s2 with sync := rest }
    | none =>
      if mine.isEmpty && ops.isEmpty then .next s
      else
        let w0 := inits.foldl (fun _ g => SyncWord.init g) (s.syncWord addr)
        let ups := mine.filter (·.init.isNone)
        let arrivals := (ups.filter (·.arr)).length + ops.length
        let amount := (ups.map (·.bytes)).foldl (· + ·) 0 + (ops.map fun x => x.2.x1.toInt).foldl (· + ·) 0
        let r := if ups.isEmpty && ops.isEmpty then (w0, false) else w0.step arrivals amount
        let from_ := ups.filterMap (·.src) ++ ops.map fun x => (x.1, x.2.slot)
        let s1 := (((s.setSyncWord addr r.1).aluTake addr 32).aluUpdate addr (mine.length + ops.length)).arriveRelease addr from_
        let s2 := ops.foldl (fun s (c, o) => s.endOp c o) s1
        let seen := fun (c n : Nat) (t : Slot) =>
          alignSees s c addr w0.gen (ups.any fun u => u.arr && u.src == some (c, n)) r.2 t
        let cores := s2.cores.mapIdx fun c k => { k with
          slots := k.slots.mapIdx fun n t => seen c n t
          hslot := seen c 4 k.hslot }
        let ctxs := s2.ctxs.map fun x => { x with
          saved := x.saved.map fun y => { y with
            slots := y.slots.map fun z => (z.1, alignSees s y.core addr w0.gen false r.2 z.2) } }
        .next { s2 with cores := cores, ctxs := ctxs, sync := rest }

/-! ### SWINIT and ARRIVE (R251, R252) -/

/-- The checks of a word whose completion value must have a KIND (R251 to R253). -/
def State.objectChecks (s : State) (comp : Word) (bitmap : Bool) (n : Nat) : Option Raised :=
  firstFault [faultIf (compBitmap comp != bitmap) .shapeRange, s.compChecks comp n]

/-- SWINIT freezes until its write is visible at package scope (R251). -/
def execSwinit (d a : BitVec 6) (cls : BitVec 4) (s : State) : Step :=
  let comp := s.g a
  let p := s.wordLat
  let u : SyncUpd := { addr := compPackage s.who.core comp, init := some (s.g d), due := s.tick + 1 + p.1
                       src := some (s.who.core, s.who.slot), core := s.who.core }
  coreWord (.swinit d a cls) {} 0 s (checked (s.objectChecks comp false 0)
    ({ p.2 with sync := p.2.sync ++ [u] }.freezeOn (.swinit comp (s.g d)) (some (s.deadlineOf 0))))

/-- ARRIVE (R252). -/
def execArrive (d a : BitVec 6) (cls : BitVec 4) (s : State) : Step :=
  let comp := s.g a
  coreWord (.arrive d a cls) {} 0 s (checked
    (firstFault [faultIf (a == 0) .shapeRange, s.objectChecks comp false 0])
    (s.fork { s.newOp .arrive cls.toNat with comp := comp, x1 := s.g d }))

/-! ### Waits and tests (R253 to R255) -/

/-- What a wait or test asks of its object: the object, a generation or a bit count. -/
def State.holds (s : State) (c : Nat) (comp : Word) (x : Nat) : Bool :=
  let a := compPackage c comp
  if compBitmap comp then s.bitmapFull a x else reachedGen (s.genOf a) x

/-- Bits of an object read by a wait for x. -/
def waitBits (comp : Word) (x : Nat) : Nat := if compBitmap comp then x else 0

/-- A wait word: it completes at issue where its condition holds, else freezes (R254), as it does where the object's bank stands (R420). -/
def waitWord (i : Instr) (bitmap : Bool) (comp : Word) (x : Nat) (h : Hold) (imm : BitVec 8) (s : State) : Step :=
  deadlineWord i imm s fun dl =>
    match firstFault [faultIf (bitmap && (x == 0 || decide (4096 < x))) .shapeRange,
        s.objectChecks comp bitmap x] with
    | some f => .error f
    | none =>
      match s.objectPoison comp (waitBits comp x) with
      | some b => .error { code := .poison, addr := BitVec.ofNat 64 b }
      | none =>
        if !s.clockStopped s.who.core (compPackage s.who.core comp) && s.holds s.who.core comp x then
          .ok (s.joinObject s.who.core s.who.slot comp)
        else .ok (s.freezeOn h (some (s.deadlineOf dl)))

def execWaitg (d a : BitVec 6) (imm : BitVec 8) (s : State) : Step :=
  let g := (s.g d).toNat % 2 ^ 32
  waitWord (.waitg d a imm) false (s.g a) g (.waitg (s.g a) g) imm s

def execWaitm (d a : BitVec 6) (imm : BitVec 8) (s : State) : Step :=
  waitWord (.waitm d a imm) true (s.g a) (s.g d).toNat (.waitm (s.g a) (s.g d).toNat) imm s

/-- A test word: it freezes until its one read returns from the bank (R255). -/
def testWord (i : Instr) (bitmap : Bool) (comp : Word) (x : Nat) (h : Hold) (imm : BitVec 8) (s : State) : Step :=
  deadlineWord i imm s fun dl =>
    checked (firstFault [faultIf (bitmap && (x == 0 || decide (4096 < x))) .shapeRange,
        s.objectChecks comp bitmap x])
      (let p := s.wordLat
       (p.2.freezeOn h (some (s.deadlineOf dl))).updCur fun t => { t with
         freeze := t.freeze.map fun z => { z with delay := s.tick + 1 + p.1 } })

def execTestg (p a : BitVec 6) (imm : BitVec 8) (s : State) : Step :=
  let g := (s.cur.regs.readG (a.toNat + 1)).toNat % 2 ^ 32
  testWord (.testg p a imm) false (s.g a) g (.testg (s.g a) g p.toNat) imm s

def execTestm (p a : BitVec 6) (imm : BitVec 8) (s : State) : Step :=
  let n := (s.cur.regs.readG (a.toNat + 1)).toNat
  testWord (.testm p a imm) true (s.g a) n (.testm (s.g a) n p.toNat) imm s

/-- A wait completes: it joins what it observed, and the task runs from the next tick (R254). -/
def State.waitDone (s : State) (c n : Nat) (comp : Word) : State :=
  (s.joinObject c n comp).thaw c n (s.tick + 1)

/-- A wait's read on a later cycle; it waits where the object's bank stands (R420). -/
def State.waitRead (s : State) (c n : Nat) (comp : Word) (x : Nat) : State :=
  if s.clockStopped c (compPackage c comp) then s
  else match s.objectPoison comp (waitBits comp x) with
  | some b => s.faultFrozen c n .poison (BitVec.ofNat 64 b)
  | none => if s.holds c comp x then s.waitDone c n comp else s

/-- WAIT_SATISFIED (R254): a frozen wait finds its condition true; a SWINIT is visible; M words have landed; an
engine-table entry is free. -/
def execWaitSatisfied (core slot : Nat) (s : State) : Step :=
  match (s.slot core slot).freeze with
  | none => .next s
  | some z =>
    if !s.frozenActs core slot then .next s
    else match z.hold with
      | .waitg comp g => .next (s.waitRead core slot comp g)
      | .waitm comp n => .next (s.waitRead core slot comp n)
      | .swinit .. =>
        .next (if s.sync.any fun u => u.init.isSome && u.src == some (core, slot) then s
          else s.thaw core slot (s.tick + 1))
      | .mdrain => .next (if (s.core core).matsBusy slot then s else s.thawNow core slot)
      | .tableFull => .next (if (s.core core).freeEntry.isSome then s.reissue core slot (s.tick + 1) else s)
      | _ => .next s

/-- TEST_RETURN (R255): the read returns; pd lands at the next task cycle; a true test joins. -/
def execTestReturn (core slot : Nat) (s : State) : Step :=
  match (s.slot core slot).freeze with
  | none => .next s
  | some z =>
    let go := fun (comp : Word) (x pd : Nat) =>
      if !s.frozenActs core slot || decide (s.tick < z.delay) || s.bankStopped core (compPackage core comp) then s
      else match s.objectPoison comp (waitBits comp x) with
        | some b => s.faultFrozen core slot .poison (BitVec.ofNat 64 b)
        | none =>
          let ok := s.holds core comp x
          let s1 := if ok then s.joinObject core slot comp else s
          let s2 := (s1.asFrozen core slot z).land 1
            (.p pd (if ok then BitVec.allOnes 64 else 0) (BitVec.allOnes 64))
          s2.thaw core slot (s.tick + 1)
    match z.hold with
    | .testg comp g pd => .next (go comp g pd)
    | .testm comp n pd => .next (go comp n pd)
    | _ => .next s

/-! ### ALIGN (R256) -/

/-- ALIGN (R256). One that issues again after its arrival has been made waits on for what it waited for (R50, R248). -/
def execAlign (d a : BitVec 6) (imm : BitVec 8) (s : State) : Step :=
  let comp := s.g a
  deadlineWord (.align d a imm) imm s fun dl =>
    match s.objectChecks comp false 0 with
    | some f => .error f
    | none => match s.objectPoison comp 0 with
      | some b => .error { code := .poison, addr := BitVec.ofNat 64 b }
      | none =>
        match s.cur.arrived.lookup s.who.q.seq with
        | some h => .ok ((s.freezeOn h (some (s.deadlineOf dl))).updCur fun t => { t with
            arrived := t.arrived.filter (·.1 != s.who.q.seq) })
        | none =>
          let p := s.wordLat
          .ok ((p.2.freezeOn (.align comp d.toNat .draining) (some (s.deadlineOf dl))).updCur fun t => { t with
            freeze := t.freeze.map fun z => { z with delay := s.tick + 1 + p.1 } })

/-- ALIGN_RESUME (R256): once its stores have landed an ALIGN's arrival goes out; after the advance on tick A the
task's next cycle runs on tick A + 8, with gd := G0 + 1. -/
def execAlignResume (core slot : Nat) (s : State) : Step :=
  match (s.slot core slot).freeze with
  | none => .next s
  | some z =>
    match z.hold with
    | .align comp gd st =>
      if !s.frozenActs core slot then .next s
      else match s.objectPoison comp 0 with
        | some b => .next (s.faultFrozen core slot .poison (BitVec.ofNat 64 b))
        | none => match st with
          | .draining =>
            if (s.core core).drained slot z.iss z.q.seq then
              let u : SyncUpd := { addr := compPackage core comp, arr := true, due := max (s.tick + 1) z.delay
                                   src := some (core, slot), core := core }
              let s1 : State := { s with sync := s.sync ++ [u] }
              .next (s1.updSlot core slot fun t => { t with freeze := some { z with hold := .align comp gd .sent } })
            else .next s
          | .advanced g0 a =>
            if a + 7 ≤ s.tick then
              let s1 := s.joinObject core slot comp
              let s2 := (s1.asFrozen core slot z).land 1 (.g gd (BitVec.ofNat 64 ((g0 + 1) % 2 ^ 32)))
              .next (s2.thaw core slot (a + 8))
            else .next s
          | _ => .next s
    | _ => .next s

/-! ### FENCE (R257, R258, R498) -/

/-- Does an operation access the issuing core's memory, other package memory, host memory (R257)? -/
def Op.areas (o : Op) (c : Nat) : Bool × Bool × Bool :=
  let space := fun (sp : Nat) => (sp == 0 || sp == 1 || sp == 5, sp == 2 || sp == 3, sp == 4)
  let package := fun (a : Nat) => match aliasOf a with
    | some (k, _) => (k == c, k != c, false)
    | none => (false, true, false)
  let or3 := fun (x y : Bool × Bool × Bool) => (x.1 || y.1, x.2.1 || y.2.1, x.2.2 || y.2.2)
  let own := match o.kind with
    | .gath | .gbag | .gscat | .gsadd =>
      let g := grecOf o.grec
      or3 (space g.tspc) (or3 (space g.ispc) (space (shapeOf o.sh2).space))
    | .mcst => (o.x1.getLsbD c, decide (o.x1 &&& ~~~((1 : Word) <<< c) ≠ 0), false)
    | .aadd | .aand | .aor | .axor | .amin | .amax | .afadd => package o.addr.toNat
    | .aswap | .acas => or3 (package o.addr.toNat) (true, false, false)
    | .qpush => or3 (package o.addr.toNat) (false, true, false)
    | .qpop => or3 (package o.addr.toNat) (true, true, false)
    | .arrive | .cinit => package (compPackage c o.comp)
    | .ftw => (false, true, false)
    | .flowreq => (true, false, false)
    | .ncmp => or3 (space (shapeOf o.sh1).space) (or3 (space (shapeOf o.sh3).space) (space (shapeOf o.sh2).space))
    | .cpym => (true, (space (shapeOf o.sh1).space).2.1, (space (shapeOf o.sh1).space).2.2)
    | _ => or3 (space (shapeOf o.sh1).space) (space (shapeOf o.sh2).space)
  if o.hasComp then or3 own (package (compPackage c o.comp)) else own

/-- Does an operation read memory when it runs (Table 8.6)? -/
def OpKind.reads (k : OpKind) : Bool := !(k == .mcst || k == .flowreq || k == .ftw)

/-- A FENCE as it issued: its slot, its place in the order of issue, its mask, kind and scope (R257). -/
structure Fencing where
  slot  : Nat
  iss   : Nat
  seq   : Nat
  mask  : BitVec 16
  kind  : Nat
  scope : Nat
  deriving DecidableEq, Repr

/-- Is an operation of the slot, forked before a FENCE, covered by it (R257)? -/
def Op.covered (o : Op) (c : Nat) (f : Fencing) : Bool :=
  let a := o.areas c
  o.slot == f.slot && issuedBefore o.iss o.seq f.iss f.seq && f.mask.getLsbD o.cls && (f.kind != 1 || o.kind.reads)
    && (a.1 || (decide (0 < f.scope) && a.2.1) || (f.scope == 3 && a.2.2))

/-- Does a matrix word write memory, and does it read memory? -/
def MatKind.writes (k : MatKind) : Bool := !(k == .mldb || k == .slotinv)
def MatKind.reads (k : MatKind) : Bool := !(k == .mzero || k == .slotinv)

/-- Do a FENCE's conditions hold (Table 8.6)? One of release or full kind waits for every pending store of the task (R498). -/
def State.fenceHolds (s : State) (c : Nat) (f : Fencing) : Bool :=
  let k := s.core c
  let named := fun (m : MatOp) => f.mask.getLsbD m.cls && ((f.kind != 1 && m.kind.writes) || (f.kind != 0 && m.kind.reads))
  (f.kind == 1 || !(k.slot f.slot).storesPending) && !k.matsAccess f.slot f.iss f.seq named
    && !(k.ops.any fun o => o.covered c f && o.pst != .done && !o.finished)

/-- The FENCE completes: the covered operations join. -/
def State.fenceJoin (s : State) (c : Nat) (f : Fencing) : State := s.joinWhere c f.slot fun o => o.covered c f

/-- Does a FENCE read every host port that the task's writes have reached (R258)? -/
def fenceFlushes (kind scope : Nat) : Bool := scope == 3 && kind != 1

/-- Zero-length reads go to those host ports and peer devices (R258). -/
def State.flushPorts (s : State) (c n : Nat) : State :=
  (s.slot c n).flushTo.foldl (fun s a => s.emit (.flush a.1 a.2)) (s.updSlot c n fun t => { t with flushTo := [] })

/-- FENCE (R257). One of acquire kind whose conditions hold completes at its issue; one of release or full kind freezes the task at
least to the end of its cycle, whose stores it drains (R498), at system scope until its reads of host ports have returned. -/
def execFence (mask : BitVec 16) (kind scope : BitVec 2) (s : State) : Step :=
  let c := s.who.core
  let n := s.who.slot
  let f : Fencing := { slot := n, iss := s.who.cyc, seq := s.who.q.seq, mask := mask, kind := kind.toNat, scope := scope.toNat }
  let frozen := s.freezeOn (.fence mask kind.toNat scope.toNat) (some (s.deadlineOf 0))
  let flushed := fenceFlushes kind.toNat scope.toNat && !s.cur.flushTo.isEmpty
  let p := frozen.wordLat
  coreWord (.fence mask kind scope) {} 0 s (.ok
    (if kind = 1 then (if s.fenceHolds c f then s.fenceJoin c f else frozen)
     else if flushed then (p.2.flushPorts c n).updCur fun t => { t with
       freeze := t.freeze.map fun z => { z with delay := s.tick + 1 + p.1 } }
     else frozen))

/-- A frozen FENCE. -/
def Freeze.fencing (z : Freeze) (n : Nat) : Option Fencing :=
  match z.hold with
  | .fence mask kind scope => some { slot := n, iss := z.iss, seq := z.q.seq, mask := mask, kind := kind, scope := scope }
  | _ => none

/-- FENCE_COMPLETE (R257, R258). Writes that reached a host port since its first reads are read after in their turn. -/
def execFenceComplete (core slot : Nat) (s : State) : Step :=
  match (s.slot core slot).freeze with
  | none => .next s
  | some z => match z.fencing slot with
    | none => .next s
    | some f =>
      .next (if !(s.frozenActs core slot && decide (z.delay ≤ s.tick) && s.fenceHolds core f) then s
        else if fenceFlushes f.kind f.scope && !(s.slot core slot).flushTo.isEmpty then
          (s.flushPorts core slot).updSlot core slot fun t => { t with freeze := some { z with delay := s.tick + 1 } }
        else (s.fenceJoin core f).thaw core slot (s.tick + 1))

/-- At the end of its own cycle a FENCE whose conditions hold has frozen nothing. -/
def State.fenceAtOnce (s : State) (c n : Nat) : State :=
  let t := s.slot c n
  match t.freeze with
  | none => s
  | some z => match z.fencing n with
    | none => s
    | some f =>
      if z.iss == t.tc && z.delay == 0 && t.flt.isNone && s.fenceHolds c f then
        (s.fenceJoin c f).updSlot c n fun t => { t.release with supp := t.supp && z.q.idx != t.hpc }
      else s

/-! ### Deadlines (R47, R248) -/

/-- HADDR of an expired deadline: the ADDR of the completion value, the cluster of a weave load (R197), else 0. -/
def Hold.haddr (h : Hold) (core : Nat) : Word :=
  let f := fun (c : Word) => BitVec.ofNat 64 (compAddr c)
  match h with
  | .waitg c _ | .waitm c _ | .testg c _ _ | .testm c _ _ | .align c _ _ | .swinit c _ => f c
  | .weave => BitVec.ofNat 64 (core / 4)
  | _ => 0

/-- Has the deadline of a frozen word passed? -/
def Freeze.over (z : Freeze) (tick : Nat) : Bool := (z.deadline.map fun d => decide (d ≤ tick)).getD false

/-- WAIT_DEADLINE (R47): the deadline of a frozen word has passed; it faults and does not complete. -/
def execWaitDeadline (core slot : Nat) (s : State) : Step :=
  let t := s.slot core slot
  match t.frozenWords.find? (·.over s.tick) with
  | some z =>
    .next (if t.goesOn && !(s.core core).stopped then s.faultWord core slot z .waitDeadline (z.hold.haddr core) else s)
  | none => .next s

/-! ### Traps and return (R259, R260) -/

def execTrap (code : BitVec 20) (s : State) : Step :=
  coreWord (.trap code) {} 0 s (.error { code := .trapInsn, addr := code.setWidth 64 })

/-- Has the handler of a core an operation outstanding? -/
def Core.handlerOps (k : Core) : Bool := k.held_.any fun o => o.slot == 4 && !o.finished

/-- RETT (R260). The interrupted task resumes; with operations of the handler outstanding, at their join. RETT from
a handler entered for a violation raises PRIVILEGE (R359). -/
def execRett (s : State) : Step :=
  let c := s.who.core
  let viol := (s.cur.hfault.map fun f => f.code == .windowViolation).getD false
  let ends := fun (x : Option Nat) => s.updCur fun t => { t with st := .retiring, stall := true, leaving := x }
  coreWord .rett {} 0 s (checked (faultIf (!s.inHandler || viol) .privilege)
    (if s.me.handlerOps then ends (some s.me.cyc) else (ends none).returnFromHandler c s.me.cyc))

/-! ### Format table and bank formats (R261 to R264) -/

/-- FTW (R261): the core's copy changes at issue + 1, and an operation of class c0 carries the write onward. -/
def execFtw (v a : BitVec 6) (imm : BitVec 8) (s : State) : Step :=
  offsetWord (.ftw v a imm) false 0 imm s fun off =>
    let e := (s.g a + off).toNat % 256
    let x := s.g v
    checked (firstFault [faultIf (decide (e < 32)) .formatIllegal,
        faultIf (x.extractLsb' 0 24 != 0) .reservedField])
      (let s1 := s.fork { s.newOp .ftw 0 with x1 := x, width := e }
       if s.me.freeEntry.isNone then s1 else s1.landFormat (.ftab e x))

/-- FTR (R263). -/
def execFtr (d a : BitVec 6) (imm : BitVec 8) (s : State) : Step :=
  offsetWord (.ftr d a imm) false 0 imm s fun off =>
    .ok (s.land 1 (.g d.toNat (s.me.entry ((s.g a + off).toNat % 256))))

/-- BFMT (R264). -/
def execBfmt (v a : BitVec 6) (imm : BitVec 8) (s : State) : Step :=
  offsetWord (.bfmt v a imm) false 0 imm s fun off =>
    let b := (s.g a + off).toNat
    checked (if 15 < b then some { code := .shapeRange } else
        (s.ungranted s.who.core s.who.slot (b * 0x5000) 0x5000).map fun x =>
          { code := .windowViolation, addr := BitVec.ofNat 64 x })
      (s.landFormat (.sfmt b ((s.g v).extractLsb' 0 8)))

/-- Has a core an own write of an entry not yet numbered (R262)? -/
def Core.ownWrite (k : Core) (e : Nat) : Bool :=
  k.ops.any fun o => o.kind == .ftw && o.width == e && o.resume == 0 && o.pst != .done

/-- Own writes that are numbered are in the core's copy, the one of highest number last; while another own write of the entry
has no number, that one counts as the newest (R262). -/
def Core.ownNumber (k : Core) (e n : Nat) (v : Word) : Core :=
  { k with ftab := if k.ownWrite e then k.ftab else k.ftab.setIfInBounds (e - 32) v
           ftseq := k.ftseq.setIfInBounds (e - 32) n }

/-- A numbered write reaches a core's copy: held behind an own write without a number, else taken if its number is
above the one last taken (R262). -/
def Core.takeFtw (k : Core) (e n : Nat) (v : Word) : Core :=
  if k.ownWrite e || k.stopped then { k with ftheld := k.ftheld ++ [(e, n, v)] }
  else if (k.ftseq[e - 32]?.getD 0) < n then
    { k with ftab := k.ftab.setIfInBounds (e - 32) v, ftseq := k.ftseq.setIfInBounds (e - 32) n }
  else k

/-- The held writes of an entry are decided once its own write has a number. -/
def Core.releaseHeld (k : Core) (e : Nat) : Core :=
  if k.ownWrite e || k.stopped then k
  else
    let mine := k.ftheld.filter (·.1 == e)
    mine.foldl (fun k x => k.takeFtw e x.2.1 x.2.2) { k with ftheld := k.ftheld.filter (·.1 != e) }

/-- A core whose clock runs takes the format writes that came while it stood (R39). -/
def Core.takeHeld (k : Core) : Core := (k.ftheld.map (·.1)).eraseDups.foldl Core.releaseHeld k

/-- FTW_PROPAGATION (R262): the write takes its number, then reaches every other core holding tasks of the context. -/
def execFtwPropagation (core entry : Nat) (s : State) : Step :=
  match (s.core core).opAt entry with
  | none => .next s
  | some o =>
    if !(o.kind == .ftw && s.cpRuns && s.opReady core o
        && !((s.core core).formats.any fun l => l.1 == o.slot && l.2.seq == o.seq)) then .next s
    else
      let e := o.width
      if o.resume = 0 then
        let n := (s.ctx o.ctx).ftNo + 1
        let s1 := s.updCtx o.ctx fun x => { x with ftNo := n, ftab := x.ftab.setIfInBounds (e - 32) o.x1 }
        let p := s1.pace core { o with resume := 1, x2 := BitVec.ofNat 64 n }
        let s2 := p.2.setOp core p.1
        .next (s2.updCore core fun k => (k.ownNumber e n o.x1).releaseHeld e)
      else
        let cores := s.cores.mapIdx fun c k =>
          if c != core && k.owner == some o.ctx then k.takeFtw e o.x2.toNat o.x1 else k
        .next ({ s with cores := cores }.endOp core o)

/-! ### Flow requests, events, watchpoints, ticks, yield (R265 to R272) -/

/-- FLOWREQ (R268). -/
def execFlowreq (d a b : BitVec 6) (s : State) : Step :=
  let gb := s.g b
  let gr := s.g d
  let o := { s.newOp .flowreq 0 with
    addr := gr, x1 := gb, x2 := s.g a, resume := s.tick, hasComp := true
    comp := (1#64 <<< 63) ||| ((gr + 8) &&& 0xFFFFFFFFFFFF) }
  coreWord (.flowreq d a b) {} 0 s (checked
    (firstFault [faultIf (gb.extractLsb' 41 23 != 0) .shapeRange, s.bufferChecks true gr.toNat 16 16]) (s.fork o))

/-- EVENT (R269, Table 14.2): one record when tracing is on. -/
def execEvent (gs : BitVec 6) (code : BitVec 14) (s : State) : Step :=
  let x := code.toNat + s.who.core * 2 ^ 16 + s.cur.ctx * 2 ^ 22 + s.taskSlot * 2 ^ 28
  coreWord (.event gs code) {} 0 s (.ok
    (if s.dbg.trsel.getLsbD 3 then s.putRecord (s.dbg.sel 0) 1 s.tick [BitVec.ofNat 64 x, s.g gs] else s))

/-- WPSET (R265). -/
def execWpset (n a b : BitVec 6) (s : State) : Step :=
  let gb := s.g b
  coreWord (.wpset n a b) {} 1 s (checked
    (faultIf (gb.extractLsb' 34 2 == 3 || gb.extractLsb' 36 28 != 0) .shapeRange)
    (s.land 1 (.wp n.toNat (gb.setWidth 128 <<< 64 ||| (s.g a).setWidth 128))))

/-- ICINV (R271): a write the CP accepts to instruction memory has landed when the CP's action is over (R463). -/
def execIcinv (m : BitVec 1) (s : State) : Step := coreWord (.icinv m) {} 0 s (.ok s)

/-- WAITT (R270). -/
def execWaitt (d a : BitVec 6) (imm : BitVec 8) (s : State) : Step :=
  offsetWord (.waitt d a imm) true 0 imm s fun off =>
    let t := s.g a + off
    checked (faultIf (decide (s.tick + s.cur.tdead.toNat < t.toNat)) .waitDeadline t)
      (if t.toNat ≤ s.tick + 1 then s.land 1 (.late d.toNat t) else s.freezeOn (.waitt t.toNat d.toNat) none)

/-- WAITT_RESUME (R270): the task's next cycle runs on the named tick, or on its first cycle after it. -/
def execWaittResume (core slot : Nat) (s : State) : Step :=
  match (s.slot core slot).freeze with
  | some z => match z.hold with
    | .waitt t gd =>
      .next (if s.frozenActs core slot && decide (t ≤ s.tick) then
          ((s.asFrozen core slot z).land 1 (.late gd (BitVec.ofNat 64 t))).thawNow core slot
        else s)
    | _ => .next s
  | none => .next s

/-- YIELD (R272): its cycle is a boundary; in E-mode the task gives way where another slot is ready. -/
def execYield (s : State) : Step :=
  coreWord .yield {} 0 s (.ok
    (if s.inHandler || s.cur.dmode then s else s.updCur fun t => { t with yielding := true }))

end Sys2Proof.Machine
end

