-- ==== Sys2Proof/Machine/Security.lean ====
section
/-!
DEFINITION. The manager words and the security block behind them (R273 to R278, R448 to R453): fuses, key slots,
measurements, debug unlock, attestation, the lifecycle, SPDM and IDE_KM.
-/
namespace Sys2Proof.Machine

/-! ### Fuses and measurements (R274, R277, R448, R452) -/

/-- A fuse word. -/
def Security.fuse (x : Security) (i : Nat) : Word := x.fuses[i]?.getD 0
/-- A fuse word as the shadow registers hold it; indices 12 to 255 read zero (R274). -/
def Security.shadowFuse (x : Security) (i : Nat) : Word := x.shadow[i]?.getD 0

/-- LIFECYCLE: 0 MANUFACTURE, 1 DEPLOYED, 2 RETIRED (Table 8.10). -/
def Security.lifecycle (x : Security) : Nat := ((x.fuse 4).extractLsb' 0 2).toNat
def Security.counter (x : Security) : Nat := ((x.fuse 11).extractLsb' 0 32).toNat
def Security.deviceId (x : Security) : List Byte := (List.range 4).flatMap fun i => bytesLE 8 (x.fuse i).toNat
def Security.vendorDigest (x : Security) : List Byte := (List.range 6).flatMap fun i => bytesLE 8 (x.fuse (5 + i)).toNat

def Security.measure (x : Security) (n : Nat) : BitVec 384 := x.meas[n]?.getD 0

/-- The 48 bytes of a digest, byte 0 least significant. -/
def digestBytes (x : BitVec 384) : List Byte := bytesLE 48 x.toNat

/-- MEASn := SHA-384(MEASn ‖ digest) (R277). -/
def Security.extend (x : Security) (n : Nat) (digest : List Byte) : Security :=
  { x with meas := x.meas.setIfInBounds n (Config.sha384 (digestBytes (x.measure n) ++ digest)) }

/-- After a cold reset the boot ROM measures the CP firmware's image and the firmware its configuration block (Table 15.7), before the
first event of tick 0: DESIGN CHOICE (log 6). -/
def State.boot (s : State) : State :=
  if s.sec.booted then s
  else { s with sec := { (s.sec.extend 0 (digestBytes Config.firmwareDigest)).extend 1 (digestBytes Config.configDigest) with booted := true } }

/-! ### Key slots (R275, R449, R451) -/

def Security.key (x : Security) (n : Nat) : Option Key := x.keys[n]?.getD none

def Security.firstEmpty (x : Security) : Option Nat := (List.range 64).find? fun n => (x.key n).isNone

/-- Is HREG n enabled, and keyed from a slot? -/
def Security.regionKeyed (x : Security) (n slot : Nat) : Bool :=
  let r := x.hreg[n]?.getD 0
  r.getLsbD 118 && (r.extractLsb' 112 6).toNat == slot

/-- Wipe a slot: its regions read as poison, its stream is Insecure (R451). -/
def Security.wipe (x : Security) (n : Nat) : Security :=
  match x.key n with
  | none => x
  | some k =>
    let regions := (List.range 16).foldl (fun (b : BitVec 16) i =>
      if k.hbm && x.regionKeyed i n then b ||| ((1 : BitVec 16) <<< i) else b) x.hwiped
    let streams := match k.stream with
      | some st => if x.insecure.contains st.1 then x.insecure else x.insecure ++ [st.1]
      | none => x.insecure
    { x with keys := x.keys.setIfInBounds n none, hwiped := regions, insecure := streams }

def Security.loaded (x : Security) : Nat := (List.range 64).countP fun n => (x.key n).isSome

/-- KEYWIPE's effect and result (R275). -/
def Security.keywipe (x : Security) (imm : Nat) : Security × Nat :=
  if imm = 0x3FFF then ((List.range 64).foldl (fun x n => x.wipe n) x, x.loaded)
  else (x.wipe imm, if (x.key imm).isSome then 1 else 0)

/-- KEYLD's effect and status (R275), the statuses in their order. -/
def Security.keyld (x : Security) (open_ : Bool) (blob : List Byte) (b : Nat) : Security × Nat :=
  let n := b % 64
  if open_ then (x, 3)
  else if x.lifecycle ≠ 1 then (x, 1)
  else if (x.key n).isSome then (x, 2)
  else match x.spdm.wrapKey.bind fun w => Config.aesUnwrap w blob with
    | none => (x, 1)
    | some k => ({ x with keys := x.keys.setIfInBounds n (some { key := k, hbm := b.testBit 6 }) }, 0)

/-- A write to HREGn (R450, Table 15.6): the register's new value, or none where it is refused. A region whose slot
was wiped takes a new value again, once its slot has been reloaded (R451). -/
def Security.writeHreg (x : Security) (n : Nat) (v : BitVec 128) : Option Security :=
  let old := x.hreg[n]?.getD 0
  let f := fun (r : BitVec 128) => ((r.extractLsb' 0 48).toNat, (r.extractLsb' 64 48).toNat)
  let wiped := x.hwiped.getLsbD n
  let key := x.key (v.extractLsb' 112 6).toNat
  let overlaps := (List.range 16).any fun i =>
    let r := x.hreg[i]?.getD 0
    i != n && r.getLsbD 118 && decide ((f v).1 ≤ (f r).2) && decide ((f r).1 ≤ (f v).2)
  if old.getLsbD 118 && !wiped then none
  else if overlaps then none
  else if !((key.map (·.hbm)).getD false) then none
  else if v.getLsbD 118 && x.lifecycle == 0 then none
  else
    let y := { x with hreg := x.hreg.setIfInBounds n v }
    if wiped then some { y with
      hwiped := y.hwiped &&& ~~~((1 : BitVec 16) <<< n)
      stale := y.stale ++ [f old]
      rewritten := y.rewritten.filter fun g => !(decide ((f old).1 ≤ g) && decide (g ≤ (f old).2)) }
    else some y

/-! ### Debug tokens (R276, Tables 8.11 and 8.12) -/

/-- Bytes of a token as a number. -/
def tokenField (t : List Byte) (lo n : Nat) : Nat := leNat ((t.drop lo).take n)

/-- The first failed check of Table 8.12; DBGUNLK makes check 1, a lifecycle advance takes scope 0 (R448). A nonce that an advance has
consumed fails check 5 and not check 2, as the last row of Table 19.10 has it: DESIGN CHOICE (log 6). -/
def Security.tokenFail (x : Security) (t : List Byte) (unlock : Bool) : Option Nat :=
  let part := fun lo n => (t.drop lo).take n
  let scope := tokenField t 64 8
  if unlock && x.loaded != 0 then some 1
  else if x.nonce.isNone && !x.advanced then some 2
  else if digestBytes (Config.sha384 (part 96 96)) ≠ x.vendorDigest then some 3
  else if !Config.ecdsaVerifies (part 96 96) (part 192 96) (Config.sha384 (part 0 192)) then some 4
  else if part 0 32 ≠ x.deviceId ∨ some (part 32 32) ≠ x.nonce.map (fun n => bytesLE 32 n.toNat)
      ∨ tokenField t 72 4 ≠ x.counter ∨ tokenField t 76 1 ≠ x.lifecycle ∨ tokenField t 77 19 ≠ 0
      ∨ scope / 16 ≠ 0 ∨ (!unlock ∧ scope ≠ 0) then some 5
  else if x.counter = 0xFFFFFFFF then some 6
  else none

/-- MEAS7 takes the digest of token bytes 0 to 95 (R276, R448). -/
def Security.extendToken (x : Security) (t : List Byte) : Security :=
  x.extend 7 (digestBytes (Config.sha384 (t.take 96)))

/-- DBGUNLK with gb[0] = 1: its result, and what a success changes (R276). -/
def State.unlock (s : State) (t : List Byte) : State × Nat :=
  let x := s.sec
  let spent := { x with nonce := none, advanced := false }
  match x.tokenFail t true with
  | some n => ({ s with sec := spent }, n)
  | none =>
    let y := { spent with fuses := x.fuses.setIfInBounds 11 (BitVec.ofNat 64 (x.counter + 1)) }
    ({ s with
      sec := y.extendToken t
      dbg := { s.dbg with open_ := true, pscope := BitVec.ofNat 4 (tokenField t 64 8) } }, 0)

/-- The lifecycle advance of command 6 (R448): the number of the failed check, 0 where the state has no successor,
or the advanced block. -/
def Security.advance (x : Security) (t : List Byte) : Except Nat Security × Security :=
  let spent := { x with nonce := none, advanced := false }
  if 2 ≤ x.lifecycle then (.error 0, spent)
  else match x.tokenFail t false with
    | some n => (.error n, spent)
    | none =>
      let y := { spent with advanced := true, fuses := x.fuses.setIfInBounds 4 (BitVec.ofNat 64 (x.lifecycle + 1)) }
      (.ok (y.extendToken t), spent)

/-! ### The attestation report (R278) -/

def Security.report (x : Security) (nonce : List Byte) : List Byte :=
  let body := x.deviceId ++ nonce ++ (List.range 8).flatMap (fun n => digestBytes (x.measure n))
    ++ bytesLE 4 x.lifecycle ++ bytesLE 4 x.counter ++ List.replicate 8 0
  body ++ bytesLE 96 (Config.deviceSignature (Config.sha384 body) x.draws).toNat

/-! ### Manager words at issue (R273) -/

def execFuserd (d a : BitVec 6) (imm : BitVec 8) (s : State) : Step :=
  offsetWord (.fuserd d a imm) false 2 imm s fun off =>
    .ok (s.land 4 (.g d.toNat (s.sec.shadowFuse ((s.g a + off).toNat % 256))))

/-- A freezing manager word joins the security block's queue. -/
def State.askBlock (s : State) : State :=
  let me : SecItem := .word s.who.core s.who.slot
  let s1 := s.freezeOn .secure none
  { s1 with sec := { s1.sec with queue := s1.sec.queue.filter (· != me) ++ [me] } }

def managerWord (i : Instr) (s : State) (checks : List (Option Raised)) : Step :=
  coreWord i {} 2 s (checked (firstFault checks) s.askBlock)

/-- A buffer of the security block's words (R273). -/
def State.blockBuffer (s : State) (write : Bool) (a : Word) (len : Nat) : Option Raised :=
  s.bufferChecks write a.toNat len 8

def execKeywipe (d : BitVec 6) (imm : BitVec 14) (s : State) : Step := managerWord (.keywipe d imm) s []

def execKeyld (d a b : BitVec 6) (s : State) : Step :=
  managerWord (.keyld d a b) s [faultIf ((s.g b).extractLsb' 7 57 != 0) .shapeRange, s.blockBuffer false (s.g a) 40]

def execDbgunlk (d a b : BitVec 6) (s : State) : Step :=
  managerWord (.dbgunlk d a b) s [faultIf ((s.g b).extractLsb' 1 63 != 0) .shapeRange,
    if (s.g b).getLsbD 0 then s.blockBuffer false (s.g a) 288 else s.blockBuffer true (s.g a) 32]

def execMeasure (a b : BitVec 6) (s : State) : Step :=
  managerWord (.measure a b) s [faultIf (decide (6 < (s.g b).toNat)) .shapeRange, s.blockBuffer false (s.g a) 48]

def execAttest (a b : BitVec 6) (s : State) : Step :=
  managerWord (.attest a b) s [s.blockBuffer false (s.g a) 32, s.blockBuffer true (s.g b) 560]

/-! ### The block's work (R273 to R278) -/

/-- Write bytes of a core's scratchpad. -/
def State.putLocal (s : State) (c a : Nat) (bs : List Byte) : State := s.storeSeen c (fun _ _ => true) (bytesToMasked a bs)

/-- What a manager word does at the block: the state, and the value of gd where it has one. MEASURE of 0 or 1 extends nothing: Table 15.7
gives those registers to the boot alone, and R277 names no fault for them: DESIGN CHOICE (log 6). -/
def State.blockWord (s : State) (c n : Nat) (w : Half) : State × Option (Nat × Nat) :=
  let g := fun (r : BitVec 6) => (s.slot c n).regs.readG r.toNat
  let a := fun r => (g r).toNat
  match decode w 0 with
  | some (.keywipe d imm) =>
    let r := s.sec.keywipe imm.toNat
    ({ s with sec := r.1 }, some (d.toNat, r.2))
  | some (.keyld d ga gb) =>
    let r := s.sec.keyld s.dbg.open_ (s.localBytes c (a ga) 40) (a gb)
    ({ s with sec := r.1 }, some (d.toNat, r.2))
  | some (.dbgunlk d ga gb) =>
    if (g gb).getLsbD 0 then
      let r := s.unlock (s.localBytes c (a ga) 288)
      (r.1, some (d.toNat, r.2))
    else
      let x := Config.nonce s.sec.draws
      let s1 := { s with sec := { s.sec with nonce := some x, advanced := false, draws := s.sec.draws + 1 } }
      (s1.putLocal c (a ga) (bytesLE 32 x.toNat), some (d.toNat, 0))
  | some (.measure ga gb) =>
    (if a gb % 8 < 2 then s else { s with sec := s.sec.extend (a gb % 8) (s.localBytes c (a ga) 48) }, none)
  | some (.attest ga gb) =>
    let s1 := s.putLocal c (a gb) (s.sec.report (s.localBytes c (a ga) 32))
    ({ s1 with sec := { s1.sec with draws := s1.sec.draws + 1 } }, none)
  | _ => (s, none)

/-! ### SPDM and IDE_KM (R449, R453) -/

/-- The steps of an SPDM exchange that must have been made before a request (SPDM 1.3). -/
def spdmReady (p : Spdm) (i : Instr) : Bool :=
  match i with
  | .getVersion => true
  | .getCapabilities => p.versioned
  | .negotiateAlgorithms => p.capable
  | .finish _ => p.handshake
  | .endSession => p.session
  | _ => p.negotiated

/-- The request code of an SPDM request. -/
def spdmCode (i : Instr) : Nat :=
  match i with
  | .getVersion => 0x84
  | .getCapabilities => 0xE1
  | .negotiateAlgorithms => 0xE3
  | .getDigests => 0x81
  | .getCertificate .. => 0x82
  | .challenge .. => 0x83
  | .getMeasurements .. => 0xE0
  | .keyExchange .. => 0xE4
  | .finish _ => 0xE5
  | .endSession => 0xEC
  | .unsupportedRequest c => c
  | _ => 0

/-- Only certificate slot 0 is provisioned (R453); measurement index n + 1 is MEASn, 0 asks the count, 255 for all. -/
def spdmValid (i : Instr) : Bool :=
  match i with
  | .getCertificate slot _ _ => slot == 0
  | .challenge slot _ => slot == 0
  | .keyExchange slot _ => slot == 0
  | .getMeasurements k _ => decide (k ≤ 8) || k == 255
  | .finish mac => mac.toNat < 2 ^ 384
  | _ => true

/-- What a request leaves of the responder. -/
def Spdm.after (p : Spdm) (i : Instr) : Spdm :=
  match i with
  | .getVersion => { ({} : Spdm) with versioned := true, exchanges := p.exchanges }
  | .getCapabilities => { p with capable := true }
  | .negotiateAlgorithms => { p with negotiated := true }
  | .keyExchange .. => { p with handshake := true, exchanges := p.exchanges + 1 }
  | .finish _ => { p with handshake := false, session := true, wrapKey := some (Config.sessionKey p.exchanges) }
  | .endSession => { p with session := false, wrapKey := none }
  | _ => p

/-- The measurements a response reports: 48-byte raw digests (R453). -/
def Security.measurementBytes (x : Security) (k : Nat) : List Byte :=
  if k = 0 then [8]
  else if k = 255 then (List.range 8).flatMap fun n => digestBytes (x.measure n)
  else digestBytes (x.measure (k - 1))

/-- The algorithms of R453 in the coding of SPDM 1.3: ECDSA with P-384, SHA-384, ECDHE on P-384, AES-256-GCM. PRESUMED (log 6). -/
def spdmAlgorithms : List Byte := bytesLE 4 0x80 ++ bytesLE 4 2 ++ bytesLE 2 0x10 ++ bytesLE 2 2

/-- A request outside the list gets UnsupportedRequest, ErrorCode 7 (R453). -/
def spdmUnsupported (i : Instr) : Bool :=
  match i with
  | .unsupportedRequest _ => true
  | _ => false

/-- The answer to a request whose turn has come: the version is 1.3, one certificate slot, slot 0; what the rule leaves to SPDM is free. -/
def State.spdmAnswer (s : State) (i : Instr) : State :=
  let p := s.sec.spdm
  let code := spdmCode i
  let verified := match i with
    | .finish mac => Config.finishVerifies p.exchanges mac
    | _ => true
  let chain := Config.certificateChain
  if spdmUnsupported i then s.emit (.spdm code false [7])
  else if !spdmReady p i || !spdmValid i || !verified then s.emit (.spdm code false [])
  else
    let bytes := match i with
      | .getVersion => [0x13]
      | .negotiateAlgorithms => spdmAlgorithms
      | .getDigests => 1 :: digestBytes (Config.sha384 chain)
      | .getCertificate _ offset len => (chain.drop offset).take len
      | .getMeasurements k _ => s.sec.measurementBytes k
      | _ => Config.spdmBytes code s.sec.draws
    { s with sec := { s.sec with spdm := p.after i, draws := s.sec.draws + 1 } }.emit (.spdm code true bytes)

/-- An SPDM request joins the block's one arrival order (R453). -/
def State.spdmArrive (s : State) (i : Instr) : State :=
  if s.sec.queue.isEmpty then s.spdmAnswer i
  else { s with sec := { s.sec with queue := s.sec.queue ++ [.spdm i] } }

def execGetVersion (s : State) : Step := .next (s.spdmArrive .getVersion)
def execGetCapabilities (s : State) : Step := .next (s.spdmArrive .getCapabilities)
def execNegotiateAlgorithms (s : State) : Step := .next (s.spdmArrive .negotiateAlgorithms)
def execGetDigests (s : State) : Step := .next (s.spdmArrive .getDigests)
def execGetCertificate (slot offset len : Nat) (s : State) : Step :=
  .next (s.spdmArrive (.getCertificate slot offset len))
def execChallenge (slot : Nat) (nonce : BitVec 256) (s : State) : Step := .next (s.spdmArrive (.challenge slot nonce))
def execGetMeasurements (index : Nat) (nonce : BitVec 256) (s : State) : Step :=
  .next (s.spdmArrive (.getMeasurements index nonce))
def execKeyExchange (slot : Nat) (share : BitVec 768) (s : State) : Step :=
  .next (s.spdmArrive (.keyExchange slot share))
def execFinish (mac : BitVec 384) (s : State) : Step := .next (s.spdmArrive (.finish mac))
def execEndSession (s : State) : Step := .next (s.spdmArrive .endSession)

/-- Any other request joins the same arrival order, and gets UnsupportedRequest (R453). -/
def execUnsupportedRequest (code : Nat) (s : State) : Step := .next (s.spdmArrive (.unsupportedRequest code))

/-- SECURITY_BLOCK_REPLY (R273): the block serves the head of its queue; a freezing word's task goes on, gd landing
at its next task cycle. -/
def execSecurityBlockReply (s : State) : Step :=
  match s.sec.queue with
  | [] => .next s
  | .spdm i :: rest => .next ({ s with sec := { s.sec with queue := rest } }.spdmAnswer i)
  | .word c n :: rest =>
    let served : State := { s with sec := { s.sec with queue := rest } }
    match (s.slot c n).freeze with
    | some z =>
      if z.hold != .secure then .next (if (s.slot c n).behind.any (·.hold == .secure) then s else served)
      else if !(s.frozenActs c n && decide (z.start < s.tick)) then .next s
      else
        let r := served.blockWord c n z.q.word
        let s1 := match r.2 with
          | some (d, v) => (r.1.asFrozen c n z).land 1 (.g d (BitVec.ofNat 64 v))
          | none => r.1
        .next (s1.thaw c n (s.tick + 1))
    | none => .next served

/-- Does an attachment have four selective IDE streams beside one that is new (R443)? Stream numbers are the model's: 256 × attachment + the
stream's, 0 the link's own: DESIGN CHOICE (log 24). -/
def Security.streamsFull (x : Security) (stream : Nat) : Bool :=
  let keyed := ((List.range 64).filterMap fun n => (x.key n).bind (·.stream)).map (·.1)
  let others := (keyed.filter fun y => y / 256 == stream / 256 && y % 256 != 0 && y != stream).eraseDups
  stream % 256 != 0 && decide (4 ≤ others.length)

/-- IDE_KM KEY_PROG (R449): over a secured session, into the lowest empty slot, bound to its stream and direction. -/
def execKeyProg (stream dir : Nat) (key : BitVec 256) (s : State) : Step :=
  match s.sec.firstEmpty with
  | some n =>
    .next (if !s.sec.spdm.session || s.sec.streamsFull stream then s.emit (.report 0x19 stream)
      else { s with sec := { s.sec with
        keys := s.sec.keys.setIfInBounds n (some { key := key, hbm := false, stream := some (stream, dir) }) } })
  | none => .next s

/-- IDE_KM K_SET_GO (R449): the stream carries traffic; the error status where no slot is empty or it has no key. -/
def execKSetGo (stream dir : Nat) (s : State) : Step :=
  let x := s.sec
  let keyed := (List.range 64).any fun n => ((x.key n).bind (·.stream)) == some (stream, dir)
  if x.firstEmpty.isNone || !keyed || !x.spdm.session then .next (s.emit (.report 0x1A stream))
  else .next { s with sec := { x with
    streams := (stream, dir) :: x.streams.filter (· != (stream, dir))
    insecure := x.insecure.filter (· != stream) } }

/-! ### Cold reset (R452, R459) -/

/-- COLD_RESET: the state after reset, with the fuses, the memory cells and, unless the device is RETIRED, the keys
it holds (Table 15.5). -/
def execColdReset (s : State) : Step :=
  let keys := if s.sec.lifecycle = 2 then State.reset.sec.keys else s.sec.keys
  .next { State.reset with
    sec := { State.reset.sec with fuses := s.sec.fuses, shadow := s.sec.fuses, keys := keys, draws := s.sec.draws }
    free := s.free, lat := s.lat, out := s.out, script := s.script, mem := s.mem, hostMem := s.hostMem
    hostPoison := s.hostPoison, hosts := s.hosts, cp := { State.reset.cp with twoLinks := s.cp.twoLinks } }

end Sys2Proof.Machine
end

