-- ==== Sys2Proof/Machine/Traps.lean ====
section
/-!
DEFINITION. Traps, frames and translation (11): the violation log, context frames and their park records, entering a
handler for the faults of a slot, handler deadlines, pre-emption and restore, ATS and PRI.
-/
namespace Sys2Proof.Machine

/-- The TDISP state of a context, and whether it holds the context's configuration (R447). -/
def Ctx.tdisp (x : Ctx) : Nat := (x.cfg.extractLsb' 24 2).toNat
def Ctx.locked (x : Ctx) : Bool := x.tdisp == 1 || x.tdisp == 2

/-! ### The violation log (R360) -/

/-- A violation-log entry (Table 11.15). -/
def vlogEntry (master core slot entry hwq : Nat) (addr : Word) (tick : Nat) (word : Half) (pc : WordIdx) : BitVec 256 :=
  BitVec.ofNat 256 (FaultCode.windowViolation.toNat + master % 8 * 2 ^ 8 + core % 64 * 2 ^ 11 + slot % 4 * 2 ^ 17
    + entry % 64 * 2 ^ 19 + hwq % 2048 * 2 ^ 25 + addr.toNat * 2 ^ 64 + tick % 2 ^ 64 * 2 ^ 128
    + word.toNat * 2 ^ 192 + pc.toNat * 2 ^ 224)

/-- The CP enters a violation in a context's log, its sixteen entries filled in turn; a halted CP owes the entry (R457). -/
def State.logViolation (s : State) (ctx : Nat) (e : BitVec 256) : State :=
  if !s.cpRuns then { s with cp := { s.cp with owedLog := s.cp.owedLog ++ [(ctx, e)] } }
  else s.updCtx ctx fun x => { x with vlog := x.vlog.setIfInBounds (x.vlogN % 16) e, vlogN := x.vlogN + 1 }

/-! ### Frame images (R352 to R357) -/

/-- Bytes at rising offsets, zero between them, to a total length. -/
def layBytes (pieces : List (Nat × List Byte)) (total : Nat) : List Byte :=
  let body := pieces.foldl (fun (acc : List Byte) p => acc ++ List.replicate (p.1 - acc.length) 0 ++ p.2) []
  body ++ List.replicate (total - body.length) 0

/-- Fields at bit offsets, as one number. -/
def layBits (fields : List (Nat × Nat)) : Nat := fields.foldl (fun a f => a + f.2 * 2 ^ f.1) 0

/-- PSTATE (Table 11.7) of an operation as a pre-emption saves it (R351). -/
def PState.saved (p : PState) : PState :=
  match p with
  | .run | .xlate => .parked
  | x => x

def PState.toNat (p : PState) : Nat :=
  match p with
  | .run => 0 | .xlate => 1 | .parked => 2 | .stopped => 3 | .frozen => 4 | .done => 5

def roundingNo (m : Rounding) : Nat :=
  match m with
  | .rne => 0 | .rtz => 1 | .rdn => 2 | .rup => 3 | .rto => 4

/-- The index vector of a loop nest at an iteration. -/
def lnIndex (ln : List LnLevel) (q : Nat) : List Nat :=
  (ln.foldl (fun (acc : Nat × List Nat) l =>
    (acc.1 / l.count.toNat, acc.2 ++ [acc.1 % l.count.toNat])) (q, [])).2

/-- A park record (Table 11.9). The source of a scatter is the shape its word names, the destination its table (R237). -/
def Op.parkRecord (o : Op) : List Byte :=
  let iter := if o.kind = .lnrun then
      o.resume * 4096 / max 1 (o.dst.sh.rows * o.dst.sh.cols * o.dst.cb) else 0
  let nest := o.ln.mapIdx fun i l =>
    (1280 + 96 * i, l.count.toNat + l.sstr.toNat * 2 ^ 32 + l.dstr.toNat * 2 ^ 64)
  let index := (lnIndex o.ln iter).mapIdx fun i x => (1856 + 32 * i, x % 2 ^ 32)
  let back := o.kind == .gscat || o.kind == .gsadd
  let src := if back then (o.sh2, o.v2, o.f2.2) else (o.sh1, o.v1, o.f1.2)
  let dst := if back then ((0 : Shape256), 0, o.f1.2) else (o.sh2, o.v2, o.f2.2)
  let carried := match o.carried with
    | some w => [(59, if w.lands.isNone then 1 else 0), (64, w.word.toNat), (2176, w.csh.toNat), (2432, w.ash.toNat)]
    | none => []
  bytesLE 512 (layBits ([(0, o.word.toNat), (32, o.wpc.toNat), (48, o.pst.saved.toNat), (51, if o.supp then 1 else 0),
    (52, o.cls), (56, roundingNo o.mode), (96, o.resume), (128, o.comp.toNat), (192, o.xpay.toNat),
    (256, src.1.toNat), (512, dst.1.toNat), (768, o.grec.toNat), (2048, src.2.1), (2080, dst.2.1), (2112, o.faddr.toNat),
    (2688, src.2.2.toNat), (2752, dst.2.2.toNat)] ++ nest ++ index ++ carried))

def SlotSt.toNat (x : SlotSt) : Nat :=
  match x with
  | .empty => 0 | .bound => 1 | .active => 2 | .standby => 3 | .blocked => 4 | .frozen => 5 | .retiring => 6

/-- A slot record (Table 11.13), with its device-private part. -/
def State.slotRecord (s : State) (c n stamp : Nat) : List Byte :=
  let t := s.slot c n
  let r := t.regs
  let words := fun (xs : List Word) => xs.flatMap fun x => bytesLE 8 x.toNat
  let eights := [t.st.toNat, (s.tstat c n).toNat, t.pc.toNat, t.wid.toNat, t.lidx, t.tc, r.vgp.toNat, t.rmode.toNat,
    t.fstat.toNat, t.bstat.toNat, t.tdead.toNat, (s.lnstat c n).toNat]
  layBytes [
    (0x0000, words ((List.range 64).map r.readG)),
    (0x0200, words ((List.range 48).map r.readP)),
    (0x0380, eights.flatMap fun x => bytesLE 8 x),
    (0x0400, (r.t.toList.flatMap fun x => bytesLE 2 x.toNat) ++ r.fs.toList),
    (0x0420, r.b.toList.flatMap fun b => bytesLE 8 b.lo.toNat ++ bytesLE 8 b.hi.toNat ++ bytesLE 16 b.act.toNat),
    (0x0800, r.sh.toList.flatMap fun x => bytesLE 32 x.toNat),
    (0x0C00, t.wp.toList.flatMap fun x => bytesLE 16 x.toNat),
    (0x0C40, t.ln.toList.flatMap fun l =>
      bytesLE 4 l.count.toNat ++ bytesLE 4 l.sstr.toNat ++ bytesLE 8 l.dstr.toNat),
    (0x1000, r.v.toList.flatMap fun v => v.toList.flatMap fun x => bytesLE 4 x.toNat),
    (0x3000, words [t.hcause, t.haddr, t.hpc.setWidth 64, t.hword.setWidth 64]),
    (0x4000, (List.range 0x4000).map (Config.privateByte stamp))] 0x8000

/-- A weight slot's 128 bits of the core header (Table 11.12). -/
def WSlot.header (w : WSlot) : Nat :=
  layBits [(0, if w.loaded then 1 else 0), (1, w.fmtNo.toNat), (9, w.fmt.toNat), (73, w.k), (84, w.n), (93, w.sparse),
    (95, if w.pair then 1 else 0)]

/-- The core header (Table 11.12) for slot and park records present. -/
def Core.header (k : Core) (slots entries : List Nat) (shared : Bool) : List Byte :=
  let bits := fun (xs : List Nat) => xs.foldl (fun a n => a ||| 2 ^ n) 0
  layBytes [(0, bytesLE 4096 (layBits ([(0, bits slots), (4, if shared then 1 else 0), (64, bits entries),
    (768, k.acctag.toNat)] ++ (k.sfmt.toList.mapIdx fun i x => (128 + 8 * i, x.toNat))
    ++ (k.ws.toList.mapIdx fun i w => (256 + 128 * i, w.header)))))] 4096

/-- Frame base of a context (Table 15.3), and the area of a core (Table 11.10). -/
def Ctx.cframe (x : Ctx) : Nat := (x.cfg.extractLsb' 192 48).toNat
def Ctx.area (x : Ctx) (c : Nat) : Nat := x.cframe + 0x1000 + c * 0x200000

/-- The CP, or the port, writes bytes at a package address (R451). -/
def State.putBytes (s : State) (a : Nat) (bs : List Byte) : State :=
  let xs := s.keyed (bytesToMasked a bs)
  (s.writeUnit xs).unmark (xs.map (·.addr))

/-- The bytes of a weight slot's 64 KiB: byte 256k + n holds the low byte of element (k, n), and the odd slot of a
pair the high one. -/
def WSlot.image (w : WSlot) (high : Bool) : List Byte :=
  (List.range 65536).map fun i => BitVec.ofNat 8 ((w.live.lookup i).getD 0 / (if high then 256 else 1))

def Core.wslotImage (k : Core) (n : Nat) : List Byte :=
  let w := k.ws[n]?.getD {}
  let even := k.ws[n - 1]?.getD {}
  if n % 2 = 1 && even.pair && even.loaded then even.image true else w.image false

/-- The dirty granules and slots the launch was granted, written at their offsets (R357 step 2). -/
def State.writeGranules (s : State) (ctx c : Nat) (j : Job) : State :=
  let k := s.core c
  let base := (s.ctx ctx).area c
  let put := fun (s : State) (src off : Nat) => s.putBytes (base + off) (s.mem.bytes (localAddr c src) 512)
  let s1 := (List.range 640).foldl (fun s g =>
    if k.dirtyS.getLsbD g && decide (512 * g < j.spadb * 0x5000) then put s (512 * g) (0x30000 + 512 * g) else s) s
  let s2 := (List.range 2048).foldl (fun s g =>
    if k.dirtyA.getLsbD g && decide (g < 2 * j.accr) then put s (accBase + 512 * g) (0x100000 + 512 * g) else s) s1
  (List.range 4).foldl (fun s n =>
    if k.dirtyW.getLsbD n && (j.slotMask.testBit n || (n == 3 && j.hpart)) then
      s.putBytes (base + 0x80000 + 0x10000 * n) (k.wslotImage n) else s) s2

/-- The frame header (Table 11.11), with SEQ one above the last image's (R357 step 3). -/
def State.writeFrameHeader (s : State) (ctx : Nat) (cores : List Nat) : State :=
  let x := s.ctx ctx
  let seq := x.frameSeq + 1
  let words := (List.range 12).map fun i => (s.sec.fuse i).toNat
  let dev := (List.range 4).map fun i => (256 + 64 * i, words[i]?.getD 0)
  let head := layBits ([(0, 0x46524D31), (32, 3), (40, ctx), (64, seq), (128, s.tick),
    (192, cores.foldl (fun a c => a ||| 2 ^ c) 0), (512, x.hcfg.toNat)] ++ dev)
  let bytes := layBytes [(0, bytesLE 256 head), (256, x.win.toList.flatMap fun w => bytesLE 16 w.toNat),
    (512, x.mwin.toList.flatMap fun w => bytesLE 16 w.toNat),
    (1024, (List.range 256).flatMap fun e =>
      bytesLE 8 (if e < 32 then presetEntry e else x.ftab[e - 32]?.getD 0).toNat)] 4096
  (s.putBytes x.cframe bytes).updCtx ctx fun x => { x with frameSeq := seq }

/-- Does another launch of the context keep a task or a launch-queue entry on the core (R327)? -/
def State.otherLaunch (s : State) (c ctx n : Nat) : Bool :=
  let k := s.core c
  let mine := fun (l : Nat) => l != n && (((s.job l).map (·.ctx)) == some ctx)
  (k.slots.toList.any fun t => t.st != .empty && (t.launch.map mine).getD false) || k.lq.any fun e => mine e.1

/-- A core's clearing as it leaves a context (R464). -/
def State.clearCore (s : State) (c : Nat) : State :=
  let lo := localAddr c 0
  let gone := fun (a : Nat) => decide (lo ≤ a) && (decide (a < lo + scratchSize)
    || decide (lo + accBase ≤ a) && decide (a < lo + accEnd))
  let s1 : State := { s with mem := s.mem.filter fun x => !gone x.1 }
  s1.updCore c fun k => { k with
    acctag := 0, ws := Vector.replicate 4 {}, sfmt := Vector.replicate 16 1, ops := []
    owner := none, dirtyS := 0, dirtyA := 0, dirtyW := 0 }

/-- The header of a core's area: beside records of its own it names those that stand there for other launches of the context. -/
def State.writeAreaHeader (s : State) (ctx c : Nat) (slots entries : List Nat) (shared : Bool) : State :=
  let there := (s.ctx ctx).saved.filter (·.core == c)
  let all := slots ++ there.flatMap fun x => x.slots.map (·.1)
  let parks := entries ++ there.flatMap fun x => (x.ops.filter fun o => o.pst != .done).map (·.entry)
  s.putBytes ((s.ctx ctx).area c) ((s.core c).header all parks shared)

/-- One core's part of an image: park records, slot records and header, the shared state apart (R357 step 1). -/
def State.writeCoreArea (s : State) (ctx c : Nat) (slots : List Nat) : State × List (Nat × List Byte) :=
  let base := (s.ctx ctx).area c
  let mine := (s.core c).held_.filter fun o => slots.contains o.slot
  let s1 := mine.foldl (fun s o => s.putBytes (base + 0x21000 + 512 * o.entry) o.parkRecord) s
  let recs := slots.map fun n => (n, s.slotRecord c n (s.free + n))
  let s2 := recs.foldl (fun s r => s.putBytes (base + 0x1000 + 0x8000 * r.1) r.2) s1
  let s3 := s2.writeAreaHeader ctx c slots (mine.map (·.entry)) false
  ({ s3 with free := s3.free + 4 }, recs)

/-- Slots of a core whose state an image holds. -/
def State.imageSlots (s : State) (c : Nat) (sel : Slot → Bool) : List Nat :=
  (List.range 4).filter fun n =>
    let t := s.slot c n
    sel t && (t.st == .standby || t.st == .blocked || t.st == .frozen)

/-- A core leaves the context whose state stands on it: the CP writes the shared state of launches saved without it into their area and
sets SHARED (R327), and clears the core (R464). -/
def State.leaveContext (s : State) (c : Nat) : State :=
  match (s.core c).owner with
  | none => s.clearCore c
  | some ctx =>
    let late := (s.ctx ctx).saved.filter fun x => x.core == c && !x.shared
    let k := s.core c
    let s1 := late.foldl (fun s x => match s.job x.launch with
      | none => s
      | some j =>
        ((s.writeAreaHeader ctx c [] [] true).writeGranules ctx c j).updCtx ctx fun y => { y with saved := y.saved.map fun z =>
          if z == x then { z with shared := true, sfmt := k.sfmt, ws := k.ws, acctag := k.acctag } else z }) s
    s1.clearCore c

/-! ### Handler entry (R338 to R345, R359, R499) -/

/-- The image of a frozen slot's core, before the abort of a violation that no handler serves; areas written before still hold
state. A core on which the launch was the last one leaves the context (R355, R357, R359, R464). -/
def State.violationImage (s : State) (c : Nat) (t : Slot) : State :=
  match t.launch.bind s.job with
  | some j =>
    if (s.ctx t.ctx).cframe = 0 then s
    else
      let last := !s.otherLaunch c t.ctx j.n
      let slots := s.imageSlots c fun x => x.ctx == t.ctx
      let parks := ((s.core c).held_.filter fun o => slots.contains o.slot).map (·.entry)
      let s1 := (s.writeCoreArea t.ctx c slots).1
      let s2 := if last then (s1.writeAreaHeader t.ctx c slots parks true).writeGranules t.ctx c j else s1
      let s3 := s2.writeFrameHeader t.ctx (c :: (s.ctx t.ctx).saved.map (·.core))
      if last then
        (s3.updCtx t.ctx fun x => { x with saved := x.saved.map fun y =>
          if y.core == c && !y.shared then
            { y with shared := true, sfmt := (s.core c).sfmt, ws := (s.core c).ws, acctag := (s.core c).acctag } else y }).clearCore c
      else s3
  | none => s

/-- A fault that goes to no handler: the kernel aborts with its code, after a log entry and an image for a
violation (R338, R359). -/
def State.unserved (s : State) (c n : Nat) (f : Raised) : State :=
  let t := s.slot c n
  if f.code = .windowViolation then
    let hwq := t.launch.getD 0
    let master := if n = 4 then 2 else if f.async then 1 else 0
    let slot := if n = 4 then t.hserve else n
    let s1 := s.logViolation t.ctx
      (vlogEntry master c slot (if f.async then f.entry else 0) hwq f.addr f.tick f.word f.idx)
    (if n = 4 then s1 else s1.violationImage c t).abortSlot c n f.code
  else s.abortSlot c n f.code

/-- Does a fault wait for the CP: a violation that no handler serves, whose image a halted CP does not write (R357, R359, R457)? -/
def State.waitsForCp (s : State) (c n : Nat) (f : Raised) : Bool :=
  f.code == .windowViolation && !s.cpRuns && (n == 4 || !routed (s.ctx (s.slot c n).ctx).hcfg (s.slot c n) f)

/-- A fault of a slot is served: a violation freezes the slot first (R359). -/
def State.serve (s : State) (c n : Nat) (f : Raised) (b : Nat) : State :=
  let t := s.slot c n
  let s1 := if f.code = .windowViolation then s.updSlot c n (·.freezeBy f) else s
  if routed (s.ctx t.ctx).hcfg t f then s1.enterHandler c n f b else s1.unserved c n f

/-- The fault waiting for a slot that is served next, of those that arose before the present tick: of an ACTIVE or RETIRING one,
the oldest, those of one tick in fork order (R343); of one that is switched out, or FROZEN by it, a violation by one of its operations (Table 1.3, R359). -/
def State.nextWaiting (s : State) (c n : Nat) : Option Raised :=
  let t := s.slot c n
  let first := fun (xs : List Raised) => xs.foldl (fun (best : Option Raised) f => match best with
    | none => some f
    | some g => if g.async && f.async && g.tick == f.tick && decide (f.fork < g.fork) then some f else some g) none
  let due := t.waiting.filter fun f => decide (f.tick < s.tick)
  if n = 4 || t.st == .active || t.st == .retiring then first due
  else if t.st == .standby || t.st == .blocked || t.st == .frozen then
    first (due.filter fun f => f.async && f.code == .windowViolation)
  else none

/-- HANDLER_ENTRY (R339). The fault standing at a slot's boundary is entered, or else the first one waiting for it;
a fault in the handler slot aborts the kernel (R344). -/
def execHandlerEntry (core slot : Nat) (s : State) : Step :=
  let t := s.slot core slot
  let k := s.core core
  if k.stopped then .next s
  else match t.flt with
  | some f =>
    .next (if s.tick ≤ t.fltAt.1 || s.waitsForCp core slot f then s
      else if slot = 4 then s.unserved core 4 f
      else if k.hslot.st != .empty then s
      else s.serve core slot f t.fltAt.2)
  | none =>
    match s.nextWaiting core slot with
    | none => .next s
    | some f =>
      let s1 := s.updSlot core slot fun t => { t with waiting := t.waiting.erase f }
      if s.waitsForCp core slot f then .next s
      else if slot = 4 then .next (s1.unserved core 4 f)
      else if k.hslot.st != .empty then .next s
      else .next (s1.serve core slot f (k.cyc - 1))

/-- HANDLER_DEADLINE (R344). A handler still running TDEAD ticks after its first word issued aborts the kernel. -/
def execHandlerDeadline (core : Nat) (s : State) : Step :=
  let h := (s.core core).hslot
  match h.hstart with
  | some t0 =>
    .next (if h.st == .active && decide (t0 + h.tdead.toNat ≤ s.tick) then s.abortSlot core 4 .waitDeadline else s)
  | none => .next s

/-! ### Pre-emption and restore (R326 to R329, R357, R358) -/

/-- Does the handler of a core serve a task of a launch? -/
def Core.handles (k : Core) (n : Nat) : Bool := k.hslot.st != .empty && k.hslot.launch == some n

/-- A slot of a pre-empted launch takes the request at its boundary (R327 step 1); a freezing word issues again. -/
def State.takeRequest (s : State) (n c i : Nat) : State :=
  let t := s.slot c i
  if t.launch == some n && t.st == .active && t.flt.isNone && !(s.core c).handles n && !(s.core c).stopped then
    (s.reissueAll c i 0).updSlot c i fun t => { t with st := .standby, ready := true }
  else s

/-- Have all slots of the launch on a core given way, matrix operations, format writes and multicast stores landed and handlers ended
(R227, R327 steps 1 and 2), on a core whose clock runs, or whose zone is quarantined (R417)? An arrival on its way has applied (R250), and a FLOWREQ
has its decision (R414). A multicast store that waits for its class is saved with the class (R293).
A task that is RETIRING is not saved: it retires first (R144). -/
def State.givenWay (s : State) (n c : Nat) : Bool :=
  let k := s.core c
  (!k.stopped || (s.zone (zoneOf c)).state == 5) && !(s.sync.any fun u => match u.src with
      | some (x, i) => x == c && (k.slot i).launch == some n
      | none => false)
    && (k.slots.toList.all fun t => !(t.launch == some n) || (t.st != .active && t.st != .retiring))
    && !(k.formats.any fun x => (k.slot x.1).launch == some n) && !k.handles n && !(k.mats.any fun m => m.launch == some n)
    && !(k.ops.any fun o => o.launch == some n && o.pst == .run && !o.finished
      && (o.kind == .flowreq || (o.kind == .mcst && s.classClear c o)))
    && !s.flitOnCore c

/-- A core of a pre-empted launch is written to the frame and freed of it (R327 steps 3 to 5): with the last launch of the context there
the shared state follows, and the core leaves the context. -/
def State.saveCore (s : State) (j : Job) (c : Nat) : State :=
  let n := j.n
  let slots := s.imageSlots c fun t => t.launch == some n
  let k := s.core c
  let boundSlots := (List.range 4).filter fun i =>
    (s.slot c i).launch == some n && (s.slot c i).st == .bound
  let back := (boundSlots.map fun i => (c, (n, (s.slot c i).wid, (s.slot c i).lidx, (s.slot c i).rank)))
    ++ ((k.lq.filter fun e => e.1 == n).map fun e => (c, e))
  let r := s.writeCoreArea j.ctx c slots
  let ops := (k.ops.filter fun o => o.launch == some n).map fun o => { o with pst := o.pst.saved }
  let saved : SavedCore := {
    launch := n, core := c, shared := false, slots := slots.map fun i => (i, s.slot c i), ops := ops
    records := r.2, sfmt := k.sfmt, ws := k.ws, acctag := k.acctag }
  let s1 := r.1.updCtx j.ctx fun x => { x with saved := x.saved ++ [saved] }
  let s2 := s1.updCore c fun k => { k with
    slots := k.slots.map fun t => if t.launch == some n then Slot.init else t
    ops := k.ops.filter fun o => o.launch != some n
    lq := k.lq.filter fun e => e.1 != n }
  let s3 := s2.updJob n fun j => { j with
    back := j.back ++ back, preq := j.preq.filter (· != c), gone := j.gone ++ [c] }
  if k.owner == some j.ctx && !s.otherLaunch c j.ctx n then s3.leaveContext c else s3

/-- FRAME_WRITE (R357). The slots of a pre-empted launch give way at their boundaries; the CP writes the areas of the cores
on which they have, the header last, and the slots become EMPTY. -/
def execFrameWrite (n : Nat) (s : State) : Step :=
  match s.job n with
  | none => .next s
  | some j =>
    if j.preq.isEmpty || j.saved || j.stage != .running then .next s
    else
      let s1 := j.preq.foldl (fun s c => (List.range 4).foldl (fun s i => s.takeRequest n c i) s) s
      let cores := j.preq.filter (s1.givenWay n)
      if cores.isEmpty then .next s1
      else
        let s2 := cores.foldl (fun s c => s.saveCore j c) s1
        .next (s2.writeFrameHeader j.ctx ((s2.ctx j.ctx).saved.map (·.core)))

/-- Do a frame's header and slot records pass the CP's check (R358)? -/
def State.frameGood (s : State) (j : Job) (saved : List SavedCore) : Bool :=
  let a := (s.ctx j.ctx).cframe
  s.mem.nat a 4 == 0x46524D31 && s.mem.nat (a + 4) 1 == 3 && s.mem.nat (a + 5) 1 % 64 == j.ctx
    && s.mem.bytes (a + 32) 32 == s.sec.deviceId
    && saved.all fun x => x.records.all fun r =>
        s.mem.bytes ((s.ctx j.ctx).area x.core + 0x1000 + 0x8000 * r.1) 0x8000 == r.2

/-- May a core take back what a frame holds: is it free of every other launch, tasks, queue and rows, and of those that wait for it having
pre-empted this one (R317, R329, R358, R463)? An area without shared state needs the context's to stand on the core still, but one that
holds nothing. -/
def State.coreFreeFor (s : State) (j : Job) (x : SavedCore) : Bool :=
  let k := s.core x.core
  let other := fun (y : Job) => y.n != j.n && y.cores.contains x.core && !y.saved && !y.gone.contains x.core
    && (y.stage == .running || (y.stage == .held && y.admitted && decide (j.prio < y.prio)))
  (k.slots.toList.all fun t => t.st == .empty) && k.lq.isEmpty && !s.cp.jobs.any other
    && k.mats.isEmpty && k.formats.isEmpty && k.hslot.st == .empty && !s.flitOnCore x.core
    && (x.shared || k.owner == some j.ctx || (x.slots.isEmpty && x.ops.isEmpty))

/-- A saved slot as a core takes it back: it keeps its state and its pending landings (R358). -/
def Slot.restored (t : Slot) (cyc : Nat) : Slot := { t with startAt := cyc, startTick := 0, fltAt := (0, cyc) }

/-- The shared state of a context's area comes back to its core from the image, with all that launches saved there were granted; it stands
on the core from then on (R328, R358). -/
def State.loadShared (s : State) (ctx c : Nat) (x : SavedCore) : State :=
  let base := (s.ctx ctx).area c
  let jobs := ((s.ctx ctx).saved.filter fun y => y.core == c && y.shared).filterMap fun y => s.job y.launch
  let most := fun (f : Job → Nat) => (jobs.map f).foldl max 0
  let m1 := s.mem.write (localAddr c 0) (s.mem.bytes (base + 0x30000) (most Job.spadb * 0x5000))
  let m2 := m1.write (localAddr c accBase) (m1.bytes (base + 0x100000) (most Job.accr * 1024))
  (({ s with mem := m2 } : State).updCore c fun k => { k with sfmt := x.sfmt, ws := x.ws, acctag := x.acctag }).updCtx ctx fun y =>
    { y with saved := y.saved.map fun z => if z.core == c then { z with shared := false } else z }

/-- A core that takes over a context has its format table, where the launch's own writes of it that have no number yet stand above
the rest (R262). -/
def Core.enter (k : Core) (ctx : Nat) (y : Ctx) (ops : List Op) : Core :=
  { k with
    owner := some ctx, ftseq := Vector.replicate 224 y.ftNo, ftheld := []
    ftab := (ops.filter fun o => o.kind == .ftw && o.resume == 0).foldl
      (fun t o => t.setIfInBounds (o.width - 32) o.x1) y.ftab }

/-- One core takes back its area (R358): the shared state where an area of the context holds it, slots and operations. Parked operations
enter XLATE and translate afresh (Table 11.8). -/
def State.restoreCore (s : State) (j : Job) (x : SavedCore) : State :=
  let c := x.core
  let s0 := if (s.core c).owner != some j.ctx then
      (s.leaveContext c).updCore c fun k => k.enter j.ctx (s.ctx j.ctx) x.ops
    else s
  let area := (s.ctx j.ctx).saved.find? fun y => y.core == c && y.shared
    && (y.launch == x.launch || (s.core c).owner != some j.ctx)
  let s2 := match area with
    | some y => s0.loadShared j.ctx c y
    | none => s0
  let s3 : State := { s2 with mem := s2.mem.write (localAddr c imemBase) (j.form.code.flatMap fun w => bytesLE 4 w.toNat) }
  let s4 := x.slots.foldl (fun s y => s.setSlot c y.1 (y.2.restored (s.core c).cyc)) s3
  let s5 := s4.updCore c fun k => { k with dirtyS := 0, dirtyA := 0, dirtyW := 0, ops := k.ops ++ x.ops }
  x.ops.foldl (fun s o =>
    if o.pst = .parked then
      let o1 := { o with xl := [], tries := 0, asked := false }
      if o.needR || o.needW then s.askXlate c o1 o.xaddr.toNat o.needR o.needW else s.setOp c { o1 with pst := .xlate }
    else s) s5

/-- RESTORE (R358). A checked frame returns slots, park records and memory to their cores once these are free; a frame
that fails its check is refused and reported. -/
def execRestore (n : Nat) (s : State) : Step :=
  match s.job n with
  | none => .next s
  | some j =>
    let saved := (s.ctx j.ctx).saved.filter fun x => x.launch == n
    if j.gone.isEmpty || !j.rreq then .next s
    else if !saved.all (s.coreFreeFor j) then .next s
    else if !s.frameGood j saved then
      .next ((s.updJob n fun j => { j with rreq := false }).emit (.report 0x20 j.ctx))
    else
      let s1 := saved.foldl (fun s x => s.restoreCore j x) s
      let s2 := j.back.foldl (fun s e => s.updCore e.1 fun k => { k with lq := k.lq ++ [e.2] }) s1
      let s3 := s2.updCtx j.ctx fun x => { x with saved := x.saved.filter fun y => y.launch != n }
      .next (s3.updJob n fun j => { j with gone := [], rreq := !j.preq.isEmpty, back := [] })

/-! ### Translation (R347 to R350) -/

/-- Does a completion permit the access asked for (R348)? -/
def permits (a : Translation) (o : Op) : Bool := !a.untr && (a.rd || a.wr) && (!o.needR || a.rd) && (!o.needW || a.wr)

/-- ATS_COMPLETION (R348). A completion that permits the access fills the cache and the operation goes on; a refusal
sends it to PRI. -/
def execAtsCompletion (core entry : Nat) (answer : Translation) (s : State) : Step :=
  match (s.core core).opAt entry with
  | none => .next s
  | some o =>
    if !(o.pst == .xlate && (o.needR || o.needW)) then .next s
    else if !permits answer o then .next (s.parkOp core o)
    else
      let x := s.ctx o.ctx
      let page := o.xaddr.toNat / 4096
      let e : TEntry := { pasid := x.pasid, size := answer.size, rd := answer.rd, wr := answer.wr
                          host := BitVec.ofNat 2 x.host, vpn := BitVec.ofNat 52 page, ppn := answer.ppn }
      let s1 := (s.learnPages e).updCore core fun k => { k with tlb := (e :: k.tlb).take 64 }
      .next (s1.setOp core { o with
        pst := .run, delay := s.tick + 1, needR := false, needW := false
        xl := (page, answer.rd, answer.wr) :: o.xl.filter (·.1 != page) })

/-- The parked operations whose requests wait in the engine ask for their pages as far as the allocations allow (R349); a restored one that
has no page to ask for runs (R351). -/
def State.askNext (s : State) : State :=
  let all := fun (sel : Op → Bool) => (List.range 64).flatMap fun c => ((s.core c).held_.filter sel).map fun o => (c, o)
  let s1 := (all fun o => o.pst == .xlate && !o.needR && !o.needW).foldl
    (fun (s : State) x => s.setOp x.1 { x.2 with pst := .run, delay := s.tick + 1 }) s
  (all fun o => o.pst == .parked && !o.asked).foldl (fun s x => s.parkOp x.1 x.2) s1

/-- PRI_RESPONSE (R349). Success returns the operation that holds the group index to XLATE; any other response stops it with PAGE_FAULT,
and after a Response Failure the function sends no more requests. A response for a group index that no operation holds, because it has
been saved, is discarded. -/
def execPriResponse (core entry : Nat) (answer : PageAnswer) (s : State) : Step :=
  let key := (answer.att, answer.group)
  if !s.cp.groups.contains key then .next s
  else
    let off := if answer.code == .responseFailure then s.cp.priOff.setIfInBounds answer.att true else s.cp.priOff
    let s1 := ({ s with cp := { s.cp with priOff := off } } : State).setGroups (s.cp.groups.erase key)
    match (s.core core).opAt entry with
    | none => .next s1.askNext
    | some o =>
      if !(o.pst == .parked && o.asked && o.group == answer.group && (s.ctx o.ctx).host == answer.att) then .next s1.askNext
      else .next (match answer.code with
        | .success => s1.askXlate core { o with tries := o.tries + 1 } o.xaddr.toNat o.needR o.needW
        | _ => s1.stopOp core o .pageFault o.xaddr.toNat).askNext

/-- Does an entry overlap a range of a PASID? -/
def TEntry.overlaps (e : TEntry) (pasid : BitVec 20) (base len : Nat) : Bool :=
  let n := 2 ^ (9 * e.size.toNat)
  let lo := e.vpn.toNat / n * n * 4096
  e.pasid == pasid && decide (lo < base + len) && decide (base < lo + n * 4096)

/-- ATS_INVALIDATION (R350): matching entries go on the tick it arrives, and with them the pages an operation has
translated for its next step. -/
def execAtsInvalidation (att : Nat) (pasid : BitVec 20) (base len : Nat) (s : State) : Step :=
  let host := BitVec.ofNat 2 att
  let clean := fun (o : Op) =>
    if (s.ctx o.ctx).pasid == pasid && (s.ctx o.ctx).host == att then
      { o with xl := o.xl.filter fun p => !(decide (p.1 * 4096 < base + len) && decide (base < (p.1 + 1) * 4096)) }
    else o
  .next { s with
    cores := s.cores.map fun k => { k with
      tlb := k.tlb.filter fun e => !(e.host == host && e.overlaps pasid base len)
      ops := k.ops.map clean }
    hosts := { s.hosts with pages := s.hosts.pages.filter fun (e : TEntry) => !(e.host == host && e.overlaps pasid base len) }
    cp := { s.cp with invals := s.cp.invals ++ [(att, pasid, base, len)] } }

/-- INVALIDATION_COMPLETION (R350): every request made with a removed translation belongs to a step that is over. -/
def execInvalidationCompletion (att : Nat) (pasid : BitVec 20) (base len : Nat) (s : State) : Step :=
  if s.cp.invals.contains (att, pasid, base, len) then
    .next ({ s with cp := { s.cp with invals := s.cp.invals.erase (att, pasid, base, len) } }.emit (.invalidated att))
  else .next s

end Sys2Proof.Machine
end

