-- ==== Sys2Proof/Machine/Zones.lean ====
section
/-!
DEFINITION. Flow demand, reservations and admission (R407 to R415), power envelopes (R316, R425), and the cores a
launch may use (R422).
-/
namespace Sys2Proof.Machine

/-- The core of a core zone. -/
def coreOf (z : Nat) : Option Nat := if z % 20 < 16 then some (16 * (z / 20) + z % 20) else none

/-- VPOS: in step 4 of Table 13.7 ten pulses, the valve at 15 for 1,250,000 ticks, then at 0 for as many. -/
def Zone.valve (y : Zone) (tick : Nat) : Nat :=
  if y.phase = 3 then (if (tick + 25000000 - y.until_) / 1250000 % 2 = 0 then 15 else 0) else y.vpos

def State.updZone (s : State) (z : Nat) (f : Zone → Zone) : State :=
  { s with cool := { s.cool with zones := s.cool.zones.setIfInBounds z (f (s.zone z)) } }

/-- Is a grant in force on a tick (R413, R415)? -/
def Grant.inForce (g : Grant) (t : Nat) : Bool := decide (g.start ≤ t) && (g.stop.map fun e => decide (t < e)).getD true

/-- A launch's units on a core at a tick, some grants and launches not yet recorded counted: its FLOW, or the largest grant in force
then (R413). -/
def State.unitsAt (s : State) (j : Job) (c t : Nat) (more : List Grant) : Nat :=
  if j.cmask.testBit c then
    (more ++ s.cool.grants).foldl (fun u g => if g.launch == j.n && g.core == c && g.inForce t then max u g.units else u) j.flow
  else 0

/-- What stands besides the reservations made: grants, and launches that ask to be admitted. -/
structure Asked where
  grants : List Grant := []
  jobs   : List Job := []

/-- The demand of a zone at a tick (R413). -/
def State.demandAt (s : State) (z t : Nat) (x : Asked) : Nat :=
  match coreOf z with
  | some c => ((s.cp.jobs.filter (·.admitted) ++ x.jobs).map fun j => s.unitsAt j c t x.grants).foldl (· + ·) 0
  | none => (s.zone z).minf

/-- RESV (Table 13.2) at a tick, and the sum over the zones; a zone that is to flow, or that a launch asks for, counts as one in
STATE 2. -/
def State.resvAt (s : State) (z t : Nat) (x : Asked) (also : Nat → Bool) : Nat :=
  if (s.zone z).state = 2 ∨ also z then max (s.zone z).minf (s.demandAt z t x) else 0

def State.sumAt (s : State) (t : Nat) (x : Asked) (also : Nat → Bool) : Nat :=
  ((List.range 80).map fun z => s.resvAt z t x also).foldl (· + ·) 0

/-- The ticks on which demands may rise: the present one, and the starts of grants to come. -/
def State.riseTicks (s : State) : List Nat := s.tick :: (s.cool.grants.map (·.start)).filter fun t => decide (s.tick < t)

/-- Does the sum of RESV stay within 256 on all of them (R409)? -/
def State.sumFits (s : State) (x : Asked) (also : Nat → Bool) : Bool := s.riseTicks.all fun t => decide (s.sumAt t x also ≤ 256)

/-- The demand of a zone, and its RESV, now. -/
def State.demand (s : State) (z : Nat) : Nat := s.demandAt z s.tick {}

def State.resv (s : State) (z : Nat) : Nat := s.resvAt z s.tick {} fun _ => false

/-- Do the zones' reservations fit where a zone takes STATE 2 (R409)? -/
def State.roomFor (s : State) (z : Nat) : Bool := s.sumFits {} (· == z)

/-- OWNER (Table 13.2). -/
def State.zoneOwner (s : State) (z : Nat) : Nat :=
  match coreOf z with
  | none => 0xFE
  | some c => (s.cp.jobs.filter fun j => j.admitted && s.unitsAt j c s.tick [] != 0).foldl (fun a j => min a j.ctx) 0xFF

/-- The answers of an admission (R316, R414). -/
inductive Admission where
  | granted | hold | denied (code : FaultCode)
  deriving DecidableEq, Repr

/-- Is a core absent from placement (R422)? -/
def State.coreAbsent (s : State) (c : Nat) : Bool :=
  let st := fun z => (s.zone z).state
  st (zoneOf c) == 0 || st (zoneOf c) == 5
    || (List.range 4).any fun i => st (20 * (c / 16) + 16 + i) == 0

/-- POWER, or PLIM where it is 0 (R316); an admitted launch keeps its envelope (R424). -/
def State.envelope (s : State) (j : Job) : Nat := if j.admitted then j.limit else if j.power = 0 then s.cool.plim else j.power

/-- Flow and power admission of a launch at this tick, for the cores of CMASK that are not absent (R316, R414, R422): every grant already
made counts, those that start later too. -/
def State.admission (s : State) (j : Job) : Admission :=
  let zs := ((List.range 64).filter fun c => j.cmask.testBit c && !s.coreAbsent c).map zoneOf
  let minf := fun z => (s.zone z).minf
  let x : Asked := { jobs := [j] }
  let alone := ((List.range 80).map fun z =>
    if zs.contains z then max (minf z) j.flow else if (s.zone z).state = 2 then minf z else 0).foldl (· + ·) 0
  let power := ((s.cp.jobs.filter fun x => x.admitted && x.n != j.n).map s.envelope).foldl (· + ·) 0
  if zs.any (fun z => decide ((s.zone z).maxf < j.flow)) || decide (256 < alone) then .denied .flowDenied
  else if s.cool.plim < s.envelope j then .denied .powerLimit
  else if (s.riseTicks.all fun t => zs.all fun z => decide (s.demandAt z t x ≤ (s.zone z).maxf)) && s.sumFits x zs.contains
      && decide (power + s.envelope j ≤ s.cool.plim) then .granted
  else .hold

/-- Is a launch that needs the core, which is not absent, held at step 7 (R422)? -/
def State.coreHeld (s : State) (c : Nat) : Bool :=
  let st := fun z => (s.zone z).state
  !s.coreAbsent c && (st (zoneOf c) == 1 || st (zoneOf c) == 3 || st (zoneOf c) == 4
    || (List.range 4).any fun i => st (20 * (c / 16) + 16 + i) == 1)

/-- The usable cores of a launch's CMASK, ascending (R422). -/
def State.usable (s : State) (j : Job) : List Nat :=
  (List.range 64).filter fun c => j.cmask.testBit c && !s.coreAbsent c

/-! ### Co-residency blocks (R319) -/

/-- Group size g of co-residency level i, and the block size G. -/
def Job.groupSize (j : Job) : Nat := ((List.range j.cor).map j.extent).foldl (· * ·) 1

def blockSize (g : Nat) : Nat := ((List.range 7).map fun i => 2 ^ i).find? (g ≤ ·) |>.getD 128

/-- First cores of the aligned blocks of G usable cores. -/
def blocks (cores : List Nat) (G : Nat) : List Nat :=
  ((List.range 64).filter fun c => c % G == 0).filter fun c => (List.range G).all fun i => cores.contains (c + i)

/-- Can a launch with co-residency be placed (R319)? -/
def corOk (j : Job) (cores : List Nat) : Bool :=
  j.cor == 0 || (decide (j.groupSize ≤ 64) && !(blocks cores (blockSize j.groupSize)).isEmpty)

end Sys2Proof.Machine
end

