-- ==== Sys2Proof/Machine/Loader.lean ====
section
/-!
DEFINITION. Code objects (16) and the checks of a launch record (R310 to R315): the Funov container, variant selection,
patching, link programs, and the images a record names.
-/
namespace Sys2Proof.Machine

/-! ### The container (R461, R462) -/

/-- A section entry (Table 16.2). -/
structure Section where
  kind   : Nat
  var    : Nat
  rev    : Nat
  size   : Nat
  off    : Nat
  spadb  : Nat
  accr   : Nat
  slots  : Nat
  huse   : Bool
  nwords : Nat
  dbytes : Nat
  /-- reserved bits, and resource fields of other kinds, are zero -/
  clean  : Bool
  deriving DecidableEq, Repr

def sectionOf (x : Nat) : Section :=
  let f := fun lo len => x / 2 ^ lo % 2 ^ len
  { kind := f 0 8, var := f 8 8, rev := f 16 8, size := f 32 32, off := f 64 64, spadb := f 128 8, accr := f 136 16
    slots := f 152 4, huse := f 156 1 == 1, nwords := f 157 16, dbytes := f 173 19
    clean := f 24 8 == 0 && f 192 64 == 0 && (f 0 8 == 1 || (f 16 8 == 0 && f 128 64 == 0)) }

/-- The 16-bit NWORDS field holds 32,768 whole. -/
def Section.fieldsOk (x : Section) (objSize : Nat) : Bool :=
  x.clean && decide (1 ≤ x.kind ∧ x.kind ≤ 9) && x.off % 8 == 0 && decide (x.off + x.size ≤ objSize)
    && (if x.kind ≤ 6 then decide (x.var ≤ 15) else x.var == 0)
    && match x.kind with
      | 1 => decide (1 ≤ x.rev ∧ x.rev ≤ 3) && decide (1 ≤ x.spadb ∧ x.spadb ≤ 16)
          && decide (1 ≤ x.accr ∧ x.accr ≤ 960) && decide (1 ≤ x.nwords ∧ x.nwords ≤ 32768)
          && decide (x.dbytes ≤ 0x5000 * x.spadb) && x.size == 4 * x.nwords
      | 3 => x.size % 2 == 0
      | 4 => x.size % 16 == 0
      | 5 => x.size == 8
      | 6 | 7 => x.size % 8 == 0
      | 8 => x.size % 64 == 0
      | _ => true

/-- Sections of one variant and of the object appear as Table 16.3 allows. -/
def sectionsOk (xs : List Section) : Bool :=
  let count := fun k v => xs.countP fun x => x.kind == k && x.var == v
  (List.range 16).all (fun v =>
    !(xs.any fun x => x.kind ≤ 6 && x.var == v)
      || (count 1 v == 1 && count 3 v == 1 && decide (count 2 v ≤ 1) && decide (count 4 v ≤ 1)
          && decide (count 5 v ≤ 1) && decide (count 6 v ≤ 1)))
    && decide (count 7 0 ≤ 1) && decide (count 8 0 ≤ 1) && decide (count 9 0 ≤ 1)
    && xs.all fun x => x.kind != 2 || (xs.any fun y => y.kind == 1 && y.var == x.var && y.dbytes == x.size)

/-- A parsed object: its address, size and sections. -/
structure Funov where
  addr : Nat
  size : Nat
  digest : Nat
  secs : List Section
  deriving DecidableEq, Repr

/-- The bytes of a section. -/
def State.secBytes (s : State) (o : Funov) (x : Section) : List Byte := s.mem.bytes (o.addr + x.off) x.size

/-- Bytes 64 to SIZE − 1, those of SVAL sections as zero (Table 16.1). -/
def State.digestInput (s : State) (a size : Nat) (secs : List Section) : List Byte :=
  (List.range (size - 64)).map fun i =>
    let p := 64 + i
    if secs.any fun x => x.kind == 7 && decide (x.off ≤ p ∧ p < x.off + x.size) then 0 else s.mem.get (a + p)

/-- The object at an address, where its header and directory pass their checks (R461). -/
def State.funov (s : State) (a : Nat) : Option Funov :=
  let h := s.mem.nat a 64
  let f := fun lo len => h / 2 ^ lo % 2 ^ len
  let nsec := f 40 8
  let size := f 64 64
  let secs := (List.range nsec).map fun i => sectionOf (s.mem.nat (a + 64 + 32 * i) 32)
  if f 0 32 = 0x564F4E46 ∧ f 32 8 = 1 ∧ 1 ≤ nsec ∧ nsec ≤ 64 ∧ f 48 16 = 0 ∧ 64 + 32 * nsec ≤ size
      ∧ secs.all (·.fieldsOk size) ∧ sectionsOk secs
      ∧ (Config.sha384 (s.digestInput a size secs)).toNat = f 128 384 then
    some { addr := a, size := size, digest := f 128 384, secs := secs }
  else none

def Funov.find (o : Funov) (kind var : Nat) : Option Section := o.secs.find? fun x => x.kind == kind && x.var == var

/-! ### Variant selection (R314) -/

/-- The slots a launch's tasks are granted (R312). -/
def Job.granted (j : Job) : Nat := if j.hpart then j.slotMask % 8 else j.slotMask

/-- Does a variant's resource vector fit? -/
def Section.fits (x : Section) (j : Job) : Bool :=
  decide (x.spadb ≤ j.spadb) && decide (x.accr ≤ j.accr) && (x.slots &&& j.granted) == x.slots
    && decide (x.nwords ≤ 32768) && (!x.huse || j.hpart)

/-- The highest revision accepted. -/
def Job.isa (j : Job) : Nat :=
  let r := rfield j.record 8 8
  if r = 0 ∨ 3 < r then 3 else r

def Funov.variant (o : Funov) (j : Job) : Option Section :=
  (o.secs.filter fun x => x.kind == 1 && decide (x.rev ≤ j.isa) && x.fits j).foldl (fun best x =>
    match best with
    | some y => if y.rev < x.rev then some x else some y
    | none => some x) none

/-! ### Format images and patches (R311, R467, R468) -/

/-- A format-table image of 16-byte records: entries 32 to 255, reserved bits zero. -/
def fmtImage (bs : List Byte) : Option (List (Nat × Word)) :=
  (List.range (bs.length / 16)).mapM fun i =>
    let r := leNat ((bs.drop (16 * i)).take 16)
    let e := r % 256
    let v := r / 2 ^ 64
    if e < 32 ∨ r / 2 ^ 8 % 2 ^ 56 ≠ 0 ∨ v % 2 ^ 24 ≠ 0 then none else some (e, BitVec.ofNat 64 v)

/-- The width and the least and greatest value of a patch type (Table 16.5). -/
def patchRange (ty : Nat) : Nat × Int × Int :=
  match ty with
  | 0 => (8, -128, 127)
  | 1 => (8, 0, 255)
  | 2 => (14, -8192, 8191)
  | 3 => (14, 0, 16383)
  | 4 => (20, -524288, 524287)
  | 5 => (20, 0, 1048575)
  | 6 => (8, 1, 255)
  | _ => (32, -2 ^ 31, 2 ^ 32 - 1)

/-- One patch site applied to code and data, or none where the entry fails (R468). -/
def applySite (svals : List Byte) (site : Nat) (cd : List Half × List Byte) : Option (List Half × List Byte) :=
  let slot := site % 2 ^ 16
  let ty := site / 2 ^ 16 % 8
  let inData := site.testBit 19
  let pos := site / 2 ^ 24 % 2 ^ 32
  let v := signedOf 64 (leNat ((svals.drop (8 * slot)).take 8))
  let r := patchRange ty
  if site / 2 ^ 20 % 16 ≠ 0 ∨ site / 2 ^ 56 ≠ 0 ∨ svals.length < 8 * slot + 8 then none
  else if v < r.2.1 ∨ r.2.2 < v ∨ inData != (ty == 7) then none
  else
    let x := (v % 2 ^ r.1).toNat
    if inData then
      if pos % 4 ≠ 0 ∨ cd.2.length < pos + 4 then none
      else some (cd.1, cd.2.take pos ++ bytesLE 4 x ++ cd.2.drop (pos + 4))
    else if cd.1.length ≤ pos then none
    else some (cd.1.modify pos fun w => BitVec.ofNat 32 (w.toNat / 2 ^ r.1 * 2 ^ r.1 + x), cd.2)

/-- HCFG of a handler descriptor (Table 11.2); none where it sets a bit that must be zero. -/
def hcfgOf (x : Word) : Option Word :=
  if x.extractLsb' 16 16 != 0 || (x.extractLsb' 32 32 &&& 0xFC9E8001) != 0 then none else some x

/-! ### Link programs (R470) -/

/-- The chip's own index (R363). -/
def Fabric.chip (x : Fabric) : Nat :=
  let f := fun lo => (x.podcfg.extractLsb' lo 3).toNat
  f 0 + 8 * f 3 + 64 * f 6 + 512 * f 9

def Fabric.dset (x : Fabric) : Nat := (x.podcfg.extractLsb' 96 8).toNat

/-- Port code of link engine n, and the engine of a port code (Table 12.1). -/
def portOf (n : Nat) : Nat := ([0, 1, 8, 2, 3, 9, 4, 5, 10, 6, 7, 11][n]?).getD 0
def linkOf (port : Nat) : Nat := ([0, 1, 3, 4, 6, 7, 9, 10, 2, 5, 8, 11][port]?).getD 12

def Fabric.link (x : Fabric) (n : Nat) : Link := x.eng[n]?.getD Link.init

/-- The records of a LINK section: chip, port, set, D, words. Each record is followed by its program. -/
def linkRecords (bs : List Byte) : Nat → Nat → List (Nat × Nat × Nat × Nat × List Half)
  | 0, _ => []
  | fuel + 1, p =>
    if bs.length < p + 16 then []
    else
      let r := leNat ((bs.drop p).take 16)
      let f := fun lo len => r / 2 ^ lo % 2 ^ len
      let n := f 64 16
      let words := (List.range n).map fun i => BitVec.ofNat 32 (leNat ((bs.drop (f 96 32 + 4 * i)).take 4))
      (f 0 12, f 12 4, f 16 8, f 24 12, words) :: linkRecords bs fuel (f 96 32 + 4 * n)

/-- Do the records of a LINK section have zero reserved bits and 1 to 8,192 words each, within the section (R461, R470)? -/
def linkSectionOk (bs : List Byte) : Nat → Nat → Bool
  | 0, _ => true
  | fuel + 1, p =>
    if bs.length < p + 16 then true
    else
      let r := leNat ((bs.drop p).take 16)
      let f := fun lo len => r / 2 ^ lo % 2 ^ len
      let n := f 64 16
      let off := f 96 32
      f 36 28 == 0 && f 80 16 == 0 && decide (f 12 4 ≤ 11) && decide (1 ≤ n ∧ n ≤ 8192) && off % 4 == 0
        && decide (p + 16 ≤ off ∧ off + 4 * n ≤ bs.length) && linkSectionOk bs fuel (off + 4 * n)

/-- The programs of this chip and detour set, with the D each was scheduled for. -/
def State.chipPrograms (s : State) (bs : List Byte) (dset : Nat) : List (Nat × Nat × List Half) :=
  ((linkRecords bs (bs.length / 16) 0).filter fun r => r.1 == s.fab.chip && r.2.2.1 == dset && decide (r.2.1 ≤ 11)).map
    fun r => (linkOf r.2.1, r.2.2.2.1, r.2.2.2.2)

/-! ### Forms -/

/-- A failed step of Table 10.3: the status. -/
abbrev Load (α : Type) := Except FaultCode α

def need (b : Bool) (code : FaultCode) : Load Unit := if b then .ok () else .error code

def orFail {α : Type} (o : Option α) (code : FaultCode) : Load α :=
  match o with
  | some x => .ok x
  | none => .error code

/-- The native form of a variant (R463), as step 4 chooses it. -/
def State.nativeForm (s : State) (o : Funov) (c : Section) (entry : Nat) : Load Form := do
  let bytes := fun (x : Option Section) => (x.map (s.secBytes o)).getD []
  let code := (List.range c.nwords).map fun i => BitVec.ofNat 32 (s.mem.nat (o.addr + c.off + 4 * i) 4)
  let syms := bytes (o.find 3 c.var)
  need (decide (2 * entry + 2 ≤ syms.length)) .reservedField
  let at_ := leNat ((syms.drop (2 * entry)).take 2)
  need (decide (at_ < c.nwords)) .reservedField
  let fmts ← orFail (fmtImage (bytes (o.find 4 c.var))) .reservedField
  let hcfg ← orFail (hcfgOf (BitVec.ofNat 64 (leNat (bytes (o.find 5 c.var))))) .reservedField
  let sites := bytes (o.find 6 c.var)
  return { rev := c.rev, entry := BitVec.ofNat 15 at_, code := code, data := bytes (o.find 2 c.var), fmts := fmts, hcfg := hcfg
           sites := (List.range (sites.length / 8)).map fun i => leNat ((sites.drop (8 * i)).take 8), svals := bytes (o.find 7 0) }

/-- The copy that step 8 loads, its sites patched; none where a site is bad or its value out of range (R468). -/
def Form.patched (x : Form) : Option Form :=
  (x.sites.foldlM (fun cd site => applySite x.svals site cd) (x.code, x.data)).map fun cd => { x with code := cd.1, data := cd.2 }

/-! ### The Huith section (R471, R472, R474) -/

/-- The 64-byte records of a section, as numbers. -/
def huithRecords (bs : List Byte) : List Nat :=
  (List.range (bs.length / 64)).map fun i => leNat ((bs.drop (64 * i)).take 64)

/-- Is an index one of so many records, or where it may be none 0xFFFF? -/
def indexOk (n i : Nat) (none_ : Bool) : Bool := decide (i < n) || (none_ && i == 0xFFFF)

/-- The operands an op must name (Table 16.7): T0, T1, T2, A0. -/
def huithNeeds (hop : Nat) : Bool × Bool × Bool × Bool :=
  match hop with
  | 1 => (false, false, false, true)
  | 3 => (true, true, true, false)
  | 4 => (true, false, true, false)
  | 5 | 6 | 7 => (true, false, true, false)
  | _ => (false, false, false, false)

/-- PARAM of an op. -/
def huithParam (hop p : Nat) : Bool :=
  match hop with
  | 1 => decide (p ≤ 5)
  | 4 => decide (p ≤ 0x16) && p != 0x10
  | 6 => decide (p ≤ 2)
  | _ => true

/-- The value of an affine expression at loop levels 0 to 5 and WID fields 0 to 5 (R471): CONST + Σ coefficient × index. -/
def affineValue (r : Nat) (index : List Nat) : Int :=
  (List.range 12).foldl (fun v i =>
    v + (BitVec.ofNat 32 (r / 2 ^ (128 + 32 * i))).toInt * (((index[i]?).getD 0 : Nat) : Int)) (BitVec.ofNat 64 (r / 2 ^ 64)).toInt

/-- The OP at which an entry begins. Table 16.6 lays the index over the kind of byte 0; it is read from bits [23:8], after the kind: DESIGN
CHOICE (log 10). -/
def entOp (r : Nat) : Nat := r / 2 ^ 8 % 2 ^ 16

/-- One record of Table 16.6, given the numbers of TEN, AFF and OP records; AFF has no reserved bits but [63:8], which the table
leaves out. -/
def huithRecordOk (tens affs ops r : Nat) : Bool :=
  let f := fun lo len => r / 2 ^ lo % 2 ^ len
  match f 0 8 with
  | 1 =>
    (f 8 3 == 0 || f 8 3 == 2 || f 8 3 == 3 || f 8 3 == 4) && f 11 5 == 0 && f 24 8 == 0 && f 160 352 == 0
      && (if f 8 3 = 0 then f 96 32 == 0xFFFFFFFF else decide (f 96 32 < affs))
  | 2 => true
  | 3 =>
    let hop := f 8 8
    let needs := huithNeeds hop
    decide (1 ≤ hop ∧ hop ≤ 8) && huithParam hop (f 120 8) && f 128 384 == 0
      && indexOk tens (f 16 16) (!needs.1) && indexOk tens (f 32 16) (!needs.2.1) && indexOk tens (f 48 16) (!needs.2.2.1)
      && indexOk affs (f 64 16) (!needs.2.2.2) && indexOk affs (f 80 16) true && indexOk affs (f 96 16) true
  | 4 => decide (entOp r < ops) && f 24 488 == 0
  | _ => false

/-- Does a section keep Tables 16.6 and 16.7? -/
def huithOk (bs : List Byte) : Bool :=
  let rs := huithRecords bs
  let count := fun k => rs.countP fun r => r % 256 == k
  bs.length % 64 == 0 && rs.all (huithRecordOk (count 1) (count 2) (count 3))

/-- The Huith section of a code object, its SVAL bytes, and the key that its translation has beside the DIGEST: what the launch is granted. -/
def State.huithInputs (s : State) (o : Funov) (x : Section) (j : Job) : List Byte × List Byte × Nat :=
  (s.secBytes o x, ((o.find 7 0).map (s.secBytes o)).getD [],
    j.spadb + 2 ^ 8 * j.accr + 2 ^ 24 * j.granted + (if j.hpart then 2 ^ 28 else 0))

/-- A fresh translation (R473): one that does not fit 32,768 words, or has an entry outside them, is none. -/
def State.translate (s : State) (o : Funov) (x : Section) (j : Job) : Option Translated :=
  let i := s.huithInputs o x j
  (Config.translateHuith i.1 i.2.1 j.spadb j.accr j.granted j.hpart).bind fun r =>
    if 32768 < r.1.length || r.2.1.any (fun e => decide (r.1.length ≤ e.toNat)) then none
    else some { digest := s.mem.nat (o.addr + 16) 48, granted := i.2.2, svals := i.2.1, code := r.1, entries := r.2.1, fmts := r.2.2 }

/-- The translation of a launch's Huith section: the one kept for equal key inputs, else a fresh one (R474). -/
def State.translated (s : State) (j : Job) : Option Translated := do
  let o ← s.funov (rfield j.record 64 48)
  let x ← o.find 8 0
  let i := s.huithInputs o x j
  let kept := (s.ctx j.ctx).xlats.find? fun y => y.digest == s.mem.nat (o.addr + 16) 48 && y.granted == i.2.2 && y.svals == i.2.1
  match kept with
  | some y => some y
  | none => s.translate o x j

/-- The form of the Huith section (R473, R474); ENTRY names one of its ENT records (R471). -/
def State.huithForm (s : State) (o : Funov) (j : Job) (entry : Nat) : Load Form := do
  let x ← orFail (o.find 8 0) .launchExceeds
  let bytes := s.secBytes o x
  need (huithOk bytes) .reservedField
  need (decide (entry < (huithRecords bytes).countP fun r => r % 256 == 4)) .reservedField
  let r ← orFail (s.translated j) .launchExceeds
  let at_ ← orFail (r.entries[entry]?) .launchExceeds
  return { rev := 3, xlat := true, entry := at_, code := r.code, fmts := r.fmts }

/-- Does the handler descriptor of the chosen form keep HMASK's zero bits (R337)? -/
def State.descriptorOk (s : State) (j : Job) : Bool :=
  let bad := do
    let o ← s.funov (rfield j.record 64 48)
    let c ← o.variant j
    let x ← o.find 5 c.var
    pure (hcfgOf (BitVec.ofNat 64 (leNat (s.secBytes o x)))).isNone
  !bad.getD false

/-- Step 4 (R314, R379, R461, R470). -/
def State.selectForm (s : State) (j : Job) : Load Form := do
  let entry := rfield j.record 32 16
  let o ← orFail (s.funov (rfield j.record 64 48)) .reservedField
  let form ← match o.variant j with
    | some c => s.nativeForm o c entry
    | none => s.huithForm o j entry
  match o.find 9 0 with
  | none => return form
  | some l =>
    let bytes := s.secBytes o l
    need (j.dmode && linkSectionOk bytes (bytes.length / 16) 0) .reservedField
    return { form with pod := true }

/-- The link programs that the code object of a launch gives this chip for a detour set, each with its engine and the D it was scheduled
for (R380, R470). -/
def State.linkPrograms (s : State) (j : Job) (dset : Nat) : List (Nat × Nat × List Half) :=
  match (s.funov (rfield j.record 64 48)).bind fun o => (o.find 9 0).map fun x => s.secBytes o x with
  | some bytes => s.chipPrograms bytes dset
  | none => []

/-- Was each of them scheduled for the D of its link (R470)? -/
def State.linksFit (s : State) (j : Job) : Bool :=
  (s.linkPrograms j s.fab.dset).all fun p => p.2.1 == (s.fab.link p.1).ldly

/-! ### The record and its images (Table 10.3 steps 1 to 3) -/

/-- One bound-image record, its unused bytes zero (R311). -/
def boundOf (bs : List Byte) : Option Bound :=
  let r := leNat bs
  if r / 2 ^ 130 ≠ 0 then none
  else some { lo := BitVec.ofNat 64 r, hi := BitVec.ofNat 64 (r / 2 ^ 64), act := BitVec.ofNat 2 (r / 2 ^ 128) }

/-- The sixteen 16-byte records of a window image. -/
def State.image16 (s : State) (a : Nat) : List (BitVec 128) :=
  (List.range 16).map fun i => BitVec.ofNat 128 (s.mem.nat (a + 16 * i) 16)

/-- Is a value one WINn may take (R285)? -/
def windowOk (w : BitVec 128) : Bool :=
  let base := (w.extractLsb' 0 48).toNat
  let limit := (w.extractLsb' 64 48).toNat
  (w.extractLsb' 0 12).toNat == 0 && (w.extractLsb' 64 12).toNat == 0xFFF && (w.extractLsb' 48 16).toNat == 0
    && (w.extractLsb' 116 12).toNat == 0 && decide (base ≤ limit)
    && !(decide (base < mgmtEnd) && decide (mgmtBase ≤ limit))

/-- A record of a window image: a value WINn may take (R285, R311). -/
def windowRecordOk (w : BitVec 128) : Bool := windowOk w

/-- Is a value one MWINw may take (Table 7.4)? -/
def mwindowOk (w : BitVec 128) : Bool :=
  (w.extractLsb' 84 44).toNat == 0 && (w.extractLsb' 64 6).toNat == 0
    && decide ((w.extractLsb' 64 19).toNat + 0x1000 ≤ scratchSize)

def Job.addrOf (j : Job) (lo : Nat) : Nat := rfield j.record lo 64

/-- Step 1 for a launch (KIND 1). -/
def State.recordChecks (s : State) (j : Job) : Load Unit := do
  let f := fun lo len => rfield j.record lo len
  let addrs := [64, 640, 704, 768, 832, 896]
  need (f 30 2 == 0 && f 56 8 == 0 && f 1064 24 == 0 && f 1152 896 == 0) .reservedField
  need (addrs.all fun lo => f (lo + 48) 16 == 0) .reservedField
  need (f 1008 15 == 0 && j.trace != 3 && decide (j.cor ≤ 5)) .reservedField
  need (decide (1 ≤ j.spadb ∧ j.spadb ≤ 16) && decide (1 ≤ j.accr ∧ j.accr ≤ 960)) .reservedField
  need (decide (1 ≤ f 576 64) && decide (f 1024 16 ≤ 224) && (j.trace != 0 || f 640 64 == 0)) .reservedField
  need (f 704 64 == 0 || (fmtImage (s.mem.bytes (f 704 64) (16 * f 1024 16))).isSome) .reservedField
  need (f 768 64 == 0 || (List.range 16).all fun i => (boundOf (s.mem.bytes (f 768 64 + 32 * i) 32)).isSome)
    .reservedField
  need (f 832 64 == 0 || (s.image16 (f 832 64)).all windowRecordOk) .reservedField
  need (f 896 64 == 0 || (s.image16 (f 896 64)).all mwindowOk) .reservedField

/-- Step 2 (R12). -/
def widLimits (j : Job) : Load Unit := do
  need (((List.range 6).map j.width).all (· ≤ 64) && decide (j.fieldOff 6 ≤ 64)) .launchExceeds
  need ((List.range 6).all fun i => decide (1 ≤ j.extent i ∧ j.extent i ≤ 2 ^ j.width i)) .launchExceeds
  need (decide (j.tasks ≤ 2 ^ 48)) .launchExceeds

/-- First byte of a range outside the context's windows. -/
def State.outsideWindows (s : State) (ctx : Nat) (acc : Access) (a len : Nat) : Option Nat :=
  (s.ctx ctx).outside acc a len

/-- A launch within the limits of Table 15.3. -/
def State.withinLimits (s : State) (j : Job) : Bool :=
  let f := fun lo len => ((s.ctx j.ctx).cfg.extractLsb' lo len).toNat
  let lp := if f 158 11 = 0 then s.cool.plim else f 158 11
  decide (j.spadb ≤ f 128 5) && decide (j.accr ≤ f 133 10) && (j.slotMask &&& f 143 4) == j.slotMask
    && decide (j.prio ≤ f 147 3) && decide (j.flow ≤ f 150 8) && decide (s.envelope j ≤ lp)

/-- Is a window of an image wholly covered by windows the context holds, with every grant it gives? -/
def covered (held : List (BitVec 128)) (w : BitVec 128) : Bool :=
  let f := fun (x : BitVec 128) => ((x.extractLsb' 0 48).toNat, (x.extractLsb' 64 48).toNat)
  !w.getLsbD 115 || held.any fun h =>
    h.getLsbD 115 && decide ((f h).1 ≤ (f w).1) && decide ((f w).2 ≤ (f h).2)
      && (w.extractLsb' 112 3 &&& ~~~(h.extractLsb' 112 3)) == 0

/-- Step 3: the first offending address (R313, R446). -/
def State.windowStep (s : State) (j : Job) : Option Word :=
  let f := fun lo len => rfield j.record lo len
  let x := s.ctx j.ctx
  let area := 1024 + 8 * j.tasks
  let see := fun acc a len => (x.outside acc a len).map fun b => (BitVec.ofNat 64 b : Word)
  let opt := fun (a : Nat) acc len => if a = 0 then none else see acc a len
  let code := f 64 48
  let list := [see .read code 64, see .read code (s.mem.nat (code + 8) 8),
    if j.trace = 1 then see .write (f 640 48) area else none,
    opt (f 704 48) .read (16 * f 1024 16), opt (f 768 48) .read 512, opt (f 832 48) .read 256, opt (f 896 48) .read 256,
    if f 1023 1 = 1 then see .write (f 960 48) 32 else none,
    if (BitVec.ofNat 64 j.cmask &&& ~~~x.cmask) != 0 || j.cmask == 0 then some 0 else none,
    if f 832 48 != 0 && !(s.image16 (f 832 48)).all (covered x.win.toList) then some 0 else none,
    if f 896 48 != 0 && (s.image16 (f 896 48)).any (fun w =>
      w.getLsbD 83 && (w.extractLsb' 0 64 &&& ~~~x.cmask) != 0) then some 0 else none,
    if s.withinLimits j then none else some 0]
  list.foldl (fun a b => match a with | some x => some x | none => b) none

/-- The lists of a bound trace, where they pass R322: core, WIDs. -/
def State.traceLists (s : State) (j : Job) (usable : List Nat) : Option (List (Nat × List Word)) :=
  let base := rfield j.record 640 48
  let area := 1024 + 8 * j.tasks
  let dir := (List.range 64).map fun c => (c, s.mem.nat (base + 16 * c) 8, s.mem.nat (base + 16 * c + 8) 8)
  let ok := ((s.ctx j.ctx).outside .read base area).isNone && dir.all fun (c, off, n) =>
    decide (off < 2 ^ 48) && off % 8 == 0 && (n == 0 || (usable.contains c && decide (off + 8 * n ≤ area)))
  if !ok then none
  else
    let lists := dir.map fun (c, off, n) =>
      (c, (List.range n).map fun i => (BitVec.ofNat 64 (s.mem.nat (base + off + 8 * i) 8) : Word))
    let all := lists.flatMap (·.2)
    if all.all j.hasWid && all.length == j.tasks
        && (List.range j.tasks).all fun l => all.contains (j.widOf l) then some lists else none

end Sys2Proof.Machine
end

