-- ==== Sys2Proof/Machine/Fabric.lean ====
section
/-!
DEFINITION. The pod fabric as a chip sees it (12): topology, the claims of outgoing directions, and the NOTICEs of splices and aborts.
-/
namespace Sys2Proof.Machine

/-- Chips of the pod (R363). -/
def Fabric.chips (x : Fabric) : Nat :=
  let f := fun lo => (x.podcfg.extractLsb' lo 3).toNat + 1
  f 12 * f 15 * f 18 * f 21

def Fabric.root (x : Fabric) : Bool := x.podcfg.getLsbD 24
def Fabric.parent (x : Fabric) : Nat := (x.podcfg.extractLsb' 25 4).toNat
def Fabric.horizon (x : Fabric) : Nat := (x.podcfg.extractLsb' 32 32).toNat

def State.setLink (s : State) (n : Nat) (l : Link) : State :=
  { s with fab := { s.fab with eng := s.fab.eng.setIfInBounds n l } }

def State.updLink (s : State) (n : Nat) (f : Link → Link) : State := s.setLink n (f (s.fab.link n))

/-- The engine whose program word is executed. -/
def State.engine (s : State) : Link := s.fab.link s.who.link

/-! ### Topology (R363 to R365) -/

/-- A field of PODCFG. -/
def Fabric.pod (x : Fabric) (lo len : Nat) : Nat := (x.podcfg.extractLsb' lo len).toNat

/-- The extents (R363). -/
def Fabric.extent (x : Fabric) (d : Nat) : Nat := x.pod (12 + 3 * d) 3 + 1

/-- The dimension of a port code, and its step; a chord's is 4. -/
def portDim (port : Nat) : Nat := if port < 8 then port / 2 else port - 8

/-- The chip a port reaches, and the port code at that end (Table 12.1). -/
def Fabric.far (x : Fabric) (port : Nat) : Nat × Nat :=
  let d := portDim port
  let n := x.extent d
  let w := x.pod (3 * d) 3
  let v := if 8 ≤ port then (w + 4) % 8 else if port % 2 = 0 then (w + 1) % n else (w + n - 1) % n
  (x.chip - w * 8 ^ d + v * 8 ^ d, if 8 ≤ port then port else port / 2 * 2 + (1 - port % 2))

/-- Does a port carry a link: an extent above 1, and 8 for a chord (R364, R365)? -/
def Fabric.carries (x : Fabric) (port : Nat) : Bool :=
  decide (port < 12) && (if 8 ≤ port then x.extent (portDim port) == 8 else decide (1 < x.extent (portDim port)))

/-- The link ID of a port (R365); 0xFFFF, which names no link, where it carries none. -/
def Fabric.linkId (x : Fabric) (port : Nat) : Nat :=
  if !x.carries port then 0xFFFF
  else
    let far := x.far port
    if x.chip ≤ far.1 then 16 * x.chip + port else 16 * far.1 + far.2

/-- Ports that work: trained, and not the failed link (R402). -/
def Fabric.working (x : Fabric) (link : Nat) : List Nat :=
  (List.range 12).filter fun n => (x.link n).up && (x.linkId (portOf n) != link || link == 0xFFFF)

/-! ### NOTICEs and faults (R398, R399, R402 to R404) -/

/-- From its first NOTICE a chip lands, forwards and sends nothing, until it resumes (R402). -/
def State.quiet (s : State) : Bool :=
  s.fab.splice.isSome || s.fab.notices.any fun p => decide (p.start ≤ s.tick)

/-- A flit claims an outgoing direction for a first-beat tick (R394). -/
def State.claim (s : State) (n tick kind : Nat) (payload : List Byte) : State :=
  s.updLink n fun l => { l with sends := l.sends ++ [(tick, kind, payload)] }

/-- The word an engine stands at: the one that executes, else the next to decode (R398). -/
def Link.atWord (l : Link) (tick : Nat) : Nat := ((l.timed.find? fun w => decide (w.tick ≤ tick)).map (·.wpc)).getD l.pc

/-- The payload of a NOTICE (Table 12.3). -/
def noticeBytes (x : Notice) : List Byte :=
  bytesLE 8 x.f ++ bytesLE 8 x.s ++ bytesLE 2 x.link ++ bytesLE 1 (if x.abort then 1 else 0) ++ bytesLE 1 x.code
    ++ bytesLE 1 x.cause ++ List.replicate 235 0

/-- A NOTICE as it was received. -/
def noticeOf (bs : List Byte) : Notice :=
  let f := fun lo n => leNat ((bs.drop lo).take n)
  { f := f 0 8, s := f 8 8, link := f 16 2, abort := f 18 1 % 2 == 1, code := f 19 1, cause := f 20 1 }

/-- A NOTICE takes effect on the chip and goes out on every working port but the one it came by, once (R402). One that arises
in the wake of a splice that has stopped the chip changes nothing (R404). -/
def State.takeNotice (s : State) (x : Notice) (by_ : Option Nat) (start beat : Nat) : State :=
  let key := (x.f, x.link, x.abort)
  if s.fab.seen.contains key then s
  else
    let known := decide (0 < s.fab.lastS) && decide (x.f ≤ s.fab.lastS) && (!x.abort || decide (s.fab.lastF < x.f))
    let fab := { s.fab with
      seen := key :: s.fab.seen
      notices := if known then s.fab.notices else s.fab.notices ++ [{ notice := x, start := start }] }
    let s1 : State := { s with fab := fab }
    let skip := if x.abort then 0xFFFF else x.link
    ((s1.fab.working skip).filter fun n => by_ != some (portOf n)).foldl (fun s n => s.claim n beat 5 (noticeBytes x)) s1

/-- The chip detects a fault: S := F + H, and a NOTICE with first beat at F + 2 (R402, R399). -/
def State.startNotice (s : State) (link : Nat) (abort : Bool) (code cause : Nat) : State :=
  s.takeNotice { f := s.tick, s := s.tick + s.fab.horizon, link := link, abort := abort, code := code, cause := cause }
    none (s.tick + 2) (s.tick + 2)

end Sys2Proof.Machine
end

