-- ==== Sys2Proof/Machine/Launch.lean ====
section
/-!
DEFINITION. Hardware work queues and launches (10): observing entries, launch records through the steps of Table 10.3,
loading, the dispatchers' placement, completion.
-/
namespace Sys2Proof.Machine

/-! ### HWQ registers (Table 10.1) -/

def State.hwq (s : State) (n : Nat) : BitVec 256 := (s.cp.hwqs.lookup n).getD 0

def State.setHwq (s : State) (n : Nat) (v : BitVec 256) : State :=
  let rest := s.cp.hwqs.filter (·.1 != n)
  { s with cp := { s.cp with hwqs := if v = 0 then rest else (n, v) :: rest } }

/-- A field of a 256-bit register. -/
def rget (x : BitVec 256) (lo len : Nat) : Nat := x.toNat / 2 ^ lo % 2 ^ len

/-- A field of a 256-bit register replaced. -/
def rset (x : BitVec 256) (lo len v : Nat) : BitVec 256 :=
  let m : BitVec 256 := BitVec.ofNat 256 ((2 ^ len - 1) * 2 ^ lo)
  (x &&& ~~~m) ||| BitVec.ofNat 256 (v % 2 ^ len * 2 ^ lo)

def hwqCtx (x : BitVec 256) : Nat := rget x 64 6
def hwqHead (x : BitVec 256) : Nat := rget x 80 16
def hwqTail (x : BitVec 256) : Nat := rget x 96 16
def hwqEn (x : BitVec 256) : Bool := rget x 54 1 == 1
def hwqDb (x : BitVec 256) : Bool := rget x 53 1 == 1

/-- Address of entry HEAD (R309). -/
def hwqEntry (x : BitVec 256) : Nat := rget x 0 48 + 256 * (hwqHead x % 2 ^ rget x 48 4)

/-- Bytes the CP reads, at a package or a host virtual address of a context. -/
def State.cpRead (s : State) (ctx : Nat) (package : Bool) (a n : Nat) : Nat :=
  if package then s.mem.nat a n else s.hostMem.nat (hostKey (s.ctx ctx).pasid a) n

/-- Bytes the CP writes. -/
def State.cpWrite (s : State) (ctx : Nat) (package : Bool) (a : Nat) (bs : List Byte) : State :=
  if package then s.putBytes a bs
  else s.writeHost (s.ctx ctx).host (s.ctx ctx).pasid (bytesToMasked a bs)

/-- Does a read of the CP meet poison (R451, R455)? -/
def State.cpPoison (s : State) (a n : Nat) : Bool :=
  !(s.poison.isEmpty && s.sec.hwiped == 0 && s.sec.stale.isEmpty)
    && (List.range ((a + n + 63) / 64 - a / 64)).any fun i =>
      s.poison.contains ((a / 64 + i) * 64) || s.regionPoison (max a ((a / 64 + i) * 64))

/-- Does the CP watch an HWQ now? -/
def State.hwqOpen (s : State) (n : Nat) : Bool :=
  let x := s.hwq n
  s.cpRuns && hwqEn x && (s.job n).isNone && ((s.ctx (hwqCtx x)).cfg.getLsbD 22)

/-- The entry at HEAD is taken on this tick, its visibility tick (R309). -/
def State.takeEntry (s : State) (n : Nat) : State :=
  let x := s.hwq n
  let ctx := hwqCtx x
  let package := rget x 52 1 == 1
  let r := BitVec.ofNat 2048 (s.cpRead ctx package (hwqEntry x) 256)
  let s1 := if hwqDb x then s else s.cpWrite ctx package (hwqEntry x) [0]
  let s2 := s1.setHwq n (rset x 80 16 (hwqHead x + 1))
  let j : Job := { n := n, ctx := ctx, record := r, prio := rfield r 24 3, vis := s.tick, hqAt := s.tick, stage := .taken }
  let s3 : State := { s2 with cp := { s2.cp with jobs := s2.cp.jobs ++ [j] } }
  if package && s.cpPoison (hwqEntry x) 256 then
    s3.updJob n fun j => { j with stage := .ended, status := FaultCode.poison.toNat, etick := s.tick }
  else s3

/-- DOORBELL (R309): a host writes TAIL; a write that would overrun the ring is ignored, as is one from an attachment
the queue's context is not bound to (R444). -/
def execDoorbell (att n : Nat) (tail : BitVec 16) (s : State) : Step :=
  let x := s.hwq n
  let used := (tail.toNat + 2 ^ 16 - hwqHead x) % 2 ^ 16
  .next (if (s.ctx (hwqCtx x)).host != att || (hwqDb x && decide (2 ^ rget x 48 4 < used)) then s
    else s.setHwq n (rset x 96 16 tail.toNat))

/-- HWQ_POLL (R309): every 256 ticks the CP reads byte 0 of a polled queue's entry; a non-zero one is taken. The
polls stand at ticks divisible by 256, where R309 gives the period alone: DESIGN CHOICE (log 27). -/
def execHwqPoll (n : Nat) (s : State) : Step :=
  let x := s.hwq n
  .next (if s.hwqOpen n && !hwqDb x && s.tick % 256 == 0
      && s.cpRead (hwqCtx x) (rget x 52 1 == 1) (hwqEntry x) 1 != 0 then s.takeEntry n else s)

/-! ### Launch processing (R313, Table 10.3) -/

/-- An entry ends before any task runs: its status and its tick. XWID has no stated value (R323). -/
def State.endEntry (s : State) (n : Nat) (status : Nat) : State :=
  let w := s.fresh
  w.2.updJob n fun j => { j with
    stage := .ended, admitted := false, status := status, etick := s.tick, xcode := 0, nz := 0
    xwid := if status = 0 then 0 else w.1 }

/-- The CP's answer to a record outside its windows: a log entry, and EN := 0 where a host submitted it (R359). -/
def State.recordViolation (s : State) (j : Job) (a : Word) : State :=
  let s1 := s.logViolation j.ctx (vlogEntry 3 0 0 0 j.n a s.tick 0 0)
  if j.graph.isSome then s1 else s1.setHwq j.n (rset (s1.hwq j.n) 54 1 0)

/-- Steps 1, 2, 4 and 5 of Table 10.3: the form and, for a bound trace, its lists. -/
def State.recordSteps (s : State) (j : Job) : Load (Form × List (Nat × List Word)) := do
  s.recordChecks j
  widLimits j
  need (s.sec.lifecycle != 2 || (s.ctx j.ctx).cfg.getLsbD 23) .privilege
  let code := rfield j.record 64 48
  need (!s.cpPoison code (max 64 (s.mem.nat (code + 8) 8))) .poison
  let form ← s.selectForm j
  let usable := s.usable j
  need (!usable.isEmpty && corOk j usable) .launchExceeds
  let lists ← if j.trace = 2 then orFail (s.traceLists j usable) .shapeMismatch else .ok []
  let a := rfield j.record 768 48
  let bounds := if a = 0 then [] else (List.range 16).map fun i => (boundOf (s.mem.bytes (a + 32 * i) 32)).getD {}
  let beyond := (fmtImage (s.mem.bytes (rfield j.record 704 48)
    (if rfield j.record 704 64 = 0 then 0 else 16 * rfield j.record 1024 16))).getD []
  return ({ form with fmts := form.fmts ++ beyond, bounds := bounds }, lists)

/-- The first two steps, before the windows of step 3; a handler descriptor of the chosen form fails the first (R337). -/
def State.firstSteps (s : State) (j : Job) : Load Unit := do
  s.recordChecks j
  need (s.descriptorOk j) .reservedField
  widLimits j

/-- The translation that a launch has taken is kept, sixteen per context, the newest first (R474). -/
def State.keepTranslation (s : State) (j : Job) : State :=
  match s.translated j with
  | some x => s.updCtx j.ctx fun y => { y with xlats := (x :: y.xlats.filter (· != x)).take 16 }
  | none => s

/-- A launch record through steps 1 to 5 (KIND 1). -/
def State.launchSteps (s : State) (n : Nat) (j0 : Job) : State :=
  let mask := BitVec.ofNat 64 (rfield j0.record 1088 64)
  let j := { j0 with mask := if mask = 0 then (s.ctx j0.ctx).cmask else mask }
  let s0 := s.updJob n fun _ => j
  match s.firstSteps j with
  | .error c => s0.endEntry n c.toNat
  | .ok _ =>
    match s.windowStep j with
    | some a => (s0.recordViolation j a).endEntry n FaultCode.windowViolation.toNat
    | none =>
      match s.recordSteps j with
      | .error c => s0.endEntry n c.toNat
      | .ok r =>
        let s1 := if r.1.xlat then s0.keepTranslation j else s0
        s1.updJob n fun j => { j with
          form := r.1, lists := r.2, admitted := false, stage := .held, cores := s.usable j }

/-- A graph-start record uses KIND, PRIO, CODE and COMPADDR alone (R310). -/
def graphRecordOk (r : BitVec 2048) : Bool :=
  let f := fun lo len => rfield r lo len
  f 8 16 == 0 && f 27 37 == 0 && f 112 16 == 0 && f 128 832 == 0 && f 1008 15 == 0 && f 1024 1024 == 0

/-- Step 3 for a graph-start record: its first node and its completion record lie in the context's windows, and its PRIO within LPRIO (R313,
R446). -/
def State.graphWindow (s : State) (j : Job) : Option Word :=
  let x := s.ctx j.ctx
  let see := fun acc a len => (x.outside acc a len).map fun b => (BitVec.ofNat 64 b : Word)
  match see .read (rfield j.record 64 48) 64 with
  | some b => some b
  | none =>
    if (x.cfg.extractLsb' 147 3).toNat < j.prio then some 0
    else if rfield j.record 1023 1 = 1 then see .write (rfield j.record 960 48) 32 else none

/-- A graph-start record through steps 1 and 3 (KIND 2). -/
def State.graphSteps (s : State) (n : Nat) (j : Job) : State :=
  if !graphRecordOk j.record then s.endEntry n FaultCode.reservedField.toNat
  else match s.graphWindow j with
    | some a => (s.recordViolation j a).endEntry n FaultCode.windowViolation.toNat
    | none => s.updJob n fun j => { j with stage := .held }

/-- LAUNCH_RECORD (R313). The CP takes the next entry of a doorbell queue, or a record a poll or a graph node has
taken, and puts it through steps 1 to 5. -/
def execLaunchRecord (n : Nat) (s : State) : Step :=
  let x := s.hwq n
  let s1 := if s.hwqOpen n && hwqDb x && hwqHead x != hwqTail x then s.takeEntry n else s
  match s1.job n with
  | none => .next s1
  | some j =>
    if j.stage != .taken || !s1.cpRuns then .next s1
    else match rfield j.record 0 8, j.graph with
      | 1, _ => .next (s1.launchSteps n j)
      | 2, none => .next (s1.graphSteps n j)
      | _, _ => .next (s1.endEntry n FaultCode.reservedField.toNat)

/-! ### Loading (R315, R317, R318, R463, R464) -/

/-- Does a running launch keep a core? -/
def Job.holds (j : Job) (c : Nat) : Bool :=
  j.stage == .running && !j.saved && j.cores.contains c && !j.gone.contains c

/-- May tasks of a launch enter a core's queue or become ACTIVE on it: is it not pre-empted there? -/
def Job.mayRun (j : Job) (c : Nat) : Bool := !j.saved && !j.preq.contains c && !j.gone.contains c

/-- Is a core free for a launch: no task, queued task or running launch of another kind stands on it, and the rows
of an aborted one have landed (R317, R324, R463)? -/
def State.coreFree (s : State) (j : Job) (c : Nat) : Bool :=
  let k := s.core c
  (k.slots.toList.all fun t => t.st == .empty) && k.hslot.st == .empty && k.lq.isEmpty && k.mats.isEmpty && k.formats.isEmpty
    && !s.flitOnCore c && !s.cp.jobs.any fun x => x.n != j.n && x.holds c

/-- Does a master of a context run: a task, a handler, an engine operation, a link engine of its pod launch (R285)? -/
def State.ctxRuns (s : State) (k : Nat) : Bool :=
  ((s.fab.podJob.bind s.job).map (·.ctx) == some k && s.fab.eng.toList.any fun l => !(l.len == 0 || l.frozen)) || s.cores.toList.any fun c => (c.slots.toList.any fun t => t.st != .empty && t.ctx == k)
    || c.hslot.st != .empty && c.hslot.ctx == k || c.held_.any fun o => o.ctx == k

/-- Do the images of a record leave the context's windows as they are, or do no masters run (R317)? -/
def State.windowsFree (s : State) (j : Job) : Bool :=
  let x := s.ctx j.ctx
  let a := rfield j.record 832 48
  let m := rfield j.record 896 48
  ((a == 0 || s.image16 a == x.win.toList) && (m == 0 || s.image16 m == x.mwin.toList)) || !s.ctxRuns j.ctx

/-- Launches a waiting one may pre-empt, and the cores: of other contexts, lower priority, E-mode (R326). -/
def State.lowerRunning (s : State) (j : Job) : List (Nat × List Nat) :=
  let cores := fun (x : Job) => j.cores.filter fun c => x.holds c && !x.preq.contains c
  (s.cp.jobs.filter fun x => x.ctx != j.ctx && decide (x.prio < j.prio) && !x.dmode
    && (s.ctx x.ctx).cframe != 0 && !(cores x).isEmpty).map fun x => (x.n, cores x)

/-- Set a record of sixteen registers from an image. -/
def sixteen (xs : List (BitVec 128)) : Vector (BitVec 128) 16 := Vector.ofFn fun i => (xs[i.val]?).getD 0

/-- Step 8 on the context: format table, handler configuration, windows (R315). The entries take numbers as writes of FTW do, and
every core of the context takes them (R21, R262). -/
def State.loadContext (s : State) (j : Job) : State :=
  let a := rfield j.record 832 48
  let m := rfield j.record 896 48
  let wins := s.image16 a
  let mwins := s.image16 m
  let no := (s.ctx j.ctx).ftNo
  let fmts : List (Nat × Nat × Word) := j.form.fmts.mapIdx fun i e => (e.1, no + 1 + i, e.2)
  let take := fun (k : Core) =>
    if k.owner == some j.ctx then fmts.foldl (fun k e => k.takeFtw e.1 e.2.1 e.2.2) k else k
  let s1 : State := { s with cores := s.cores.map take }
  s1.updCtx j.ctx fun x => { x with
    ftab := j.form.fmts.foldl (fun t e => t.setIfInBounds (e.1 - 32) e.2) x.ftab
    ftNo := no + fmts.length
    hcfg := j.form.hcfg
    win := if a = 0 || x.locked then x.win else sixteen wins
    mwin := if m = 0 || x.locked then x.mwin else sixteen mwins }

/-- Dirty bits of the granted granules and slots (R357). -/
def Core.dirtyGranted (k : Core) (j : Job) : Core :=
  { k with
    dirtyS := k.dirtyS ||| BitVec.ofNat 640 (2 ^ (40 * j.spadb) - 1)
    dirtyA := k.dirtyA ||| BitVec.ofNat 2048 (2 ^ (2 * j.accr) - 1)
    dirtyW := k.dirtyW ||| BitVec.ofNat 4 (j.slotMask ||| if j.hpart then 8 else 0) }

/-- Step 8 on one core: a core that leaves another context is cleared (R464); code and data image (R463). -/
def State.loadCore (s : State) (j : Job) (c : Nat) : State :=
  let mine := (s.core c).owner == some j.ctx
  let s1 := if mine then s else s.leaveContext c
  let a := localAddr c 0
  let m1 := s1.mem.write (a + imemBase) (j.form.code.flatMap fun w => bytesLE 4 w.toNat)
  let s2 : State := { s1 with mem := m1.write a j.form.data }
  let s3 := (List.range ((j.form.data.length + 511) / 512)).foldl (fun s g => s.updCore c (·.dirty (512 * g))) s2
  let x := s3.ctx j.ctx
  s3.updCore c fun k => { k.dirtyGranted j with
    owner := some j.ctx, ftab := if mine then k.ftab else x.ftab
    ftseq := if mine then k.ftseq else Vector.replicate 224 x.ftNo, ftheld := if mine then k.ftheld else [] }

/-- An engine as new programs are loaded: one that a fault had stopped runs none (R399). -/
def Link.cleared (l : Link) : Link :=
  if l.frozen then { l with frozen := false, inspect := false, len := 0, started := false, timed := [], lands := [] } else l

/-- Link programs into the engines of the chip, their origin O and deadline (R380, R382, R402). -/
def State.loadLinks (s0 : State) (programs : List (Nat × List Half)) (origin dl : Nat) : State :=
  let s : State := { s0 with fab := { s0.fab with eng := s0.fab.eng.map Link.cleared } }
  programs.foldl (fun s p =>
    let words := p.2.flatMap fun w => bytesLE 4 w.toNat
    let s1 : State := { s with mem := s.mem.write (linkProgAddr p.1) words }
    let l := s1.fab.link p.1
    let l1 := { l with
      len := p.2.length, origin := origin, deadline := origin + dl, pc := 0, started := false, run := false
      timed := [], lands := [] }
    { s1 with fab := { s1.fab with eng := s1.fab.eng.setIfInBounds p.1 l1 } }) s

/-- The pod start tick is known: link origins and first issue of the loaded launch follow (R380). -/
def State.podStart (s : State) (pst : Nat) : State :=
  let s1 : State := { s with fab := { s.fab with pst := some pst, ready := [] } }
  match s.fab.podJob.bind s.job with
  | none => s1
  | some j =>
    (s1.loadLinks j.form.links (pst + 640) (rfield j.record 576 64)).updJob j.n fun j => { j with startTick := pst + 640 }

/-- A CP sends a management message on a port (R380); its layout is the model's. -/
def mgmtBytes (m : Mgmt) : List Byte :=
  match m with
  | .ready x => 1 :: bytesLE 8 x
  | .pst x => 2 :: bytesLE 8 x
  | .stop x => 3 :: bytesLE 8 x
  | .resume x => 4 :: bytesLE 8 x

/-- It goes out on the first tick on which the direction carries no scheduled flit. -/
def State.sendMgmt (s : State) (port : Nat) (m : Mgmt) : State :=
  let l := s.fab.link (linkOf port)
  { s with fab := { s.fab with eng := s.fab.eng.setIfInBounds (linkOf port) { l with mgmt := l.mgmt ++ [mgmtBytes m] } } }

/-- The message of a management flit's payload. -/
def mgmtOf (bs : List Byte) : Option Mgmt :=
  let x := leNat ((bs.drop 1).take 8)
  match leNat (bs.take 1) with
  | 1 => some (.ready x)
  | 2 => some (.pst x)
  | 3 => some (.stop x)
  | 4 => some (.resume x)
  | _ => none

/-- The same message on every trained port but one. -/
def State.floodMgmt (s : State) (but : Option Nat) (m : Mgmt) : State :=
  (List.range 12).foldl (fun s n =>
    if (s.fab.link n).up && but != some (portOf n) then s.sendMgmt (portOf n) m else s) s

/-- The root sets PST once every chip is ready, and sends it down the tree (R380). -/
def State.podReady (s : State) (chip : Nat) : State :=
  let ready := if s.fab.ready.contains chip then s.fab.ready else s.fab.ready ++ [chip]
  let s1 : State := { s with fab := { s.fab with ready := ready } }
  if !s1.fab.root then s1.sendMgmt s1.fab.parent (.ready chip)
  else if s1.fab.pst.isNone && decide (s1.fab.chips ≤ ready.length) then
    let pst := s1.tick + s1.fab.horizon
    (s1.floodMgmt none (.pst pst)).podStart pst
  else s1

/-- Has an engine no program left to run? -/
def Link.over (l : Link) : Bool := l.len == 0 || l.frozen

/-- Have the link engines of the chip halted (R379)? -/
def Fabric.idle (x : Fabric) : Bool := x.podJob.isNone && x.eng.toList.all (·.over)

/-- Is a pod launch announced, on which the next one waits? -/
def State.otherAnnounced (s : State) (n : Nat) : Bool := s.cp.jobs.any fun j => j.n != n && j.announced && j.stage != .ended

/-- The CP has taken the record of a pod launch: its ready notice goes out, unless a pod launch stands before it or it continues one
(R379, R380, R402). -/
def State.podAnnounce (s : State) (n : Nat) : State :=
  match s.job n with
  | none => s
  | some j =>
    if !j.form.pod || j.announced || j.stage != .held || s.fab.podJob.isSome || s.fab.cont.isSome || s.otherAnnounced n
        || !s.fab.notices.isEmpty || !s.linksFit j then s
    else
      let s1 : State := { s with fab := { s.fab with pst := none } }
      (s1.updJob n fun j => { j with announced := true }).podReady s1.fab.chip

/-- May a pod launch load: no other stands before it, or it is the continuation that a splice resumed (R379, R402)? -/
def State.podFree (s : State) (n : Nat) : Bool :=
  match s.fab.cont with
  | some (_, m) => m == n
  | none => s.fab.idle && !s.otherAnnounced n && s.fab.notices.isEmpty

/-- A pod launch has been loaded: a continuation starts at R + 640; another once its start tick is known (R380, R402). -/
def State.podLoaded (s : State) (n : Nat) : State :=
  match s.fab.cont with
  | some (r, _) => ({ s with fab := { s.fab with podJob := some n, cont := none } } : State).podStart r
  | none =>
    let s1 := { s with fab := { s.fab with ckpts := [], past := none } }.podAnnounce n
    let s2 : State := { s1 with fab := { s1.fab with podJob := some n } }
    match s2.fab.pst with
    | some p => s2.podStart p
    | none => s2

/-- Step 6 (R313, R316): a held launch is admitted, with the cores of its mask that are not absent (R422), waits on for flow or power, or
ends. -/
def State.admitStep (s : State) (n : Nat) : State :=
  match s.job n with
  | none => s
  | some j =>
    if j.admitted then s
    else match s.admission j with
      | .denied c => s.endEntry n c.toNat
      | .granted =>
        let here := (List.range 64).foldl (fun (m : Word) c => if s.coreAbsent c then m &&& ~~~(1#64 <<< c) else m) j.mask
        s.updJob n fun j => { j with admitted := true, limit := s.envelope j, mask := here }
      | .hold => s

/-- A pod launch whose link programs were scheduled for another D than is measured (R470): it ends with LINK_FAILURE, and so that nothing
runs on any chip (R475) an abort NOTICE tells the others: that the news goes that way is a DESIGN CHOICE (log 19). -/
def State.linksMisfit (s : State) (n : Nat) : State :=
  let s1 := s.endEntry n FaultCode.linkFailure.toNat
  if 1 < s.fab.chips then s1.startNotice 0xFFFF true FaultCode.linkFailure.toNat 0 else s1

/-- LAUNCH_LOAD (R313, R315 to R318, R380, R402). A held launch goes through step 6, and a pod launch announces
itself; once it is admitted, and its cores and windows are free, it is loaded and goes to the dispatchers; while it waits it may
pre-empt launches of lower priority. -/
def execLaunchLoad (n : Nat) (s0 : State) : Step :=
  let held := (s0.job n).map (fun j => j.stage == .held && !j.saved && rfield j.record 0 8 == 1) == some true && s0.cpRuns
  let s := if held then (s0.admitStep n).podAnnounce n else s0
  match s.job n with
  | none => .next s
  | some j0 =>
    if !(held && j0.stage == .held && j0.admitted) then .next s
    else
      let cores := s.usable j0
      let j := { j0 with cores := cores }
      if !corOk j cores || cores.isEmpty then .next (s.endEntry n FaultCode.launchExceeds.toNat)
      else if ((List.range 64).filter fun c => j.cmask.testBit c).any s.coreHeld then .next s
      else if (j.form.pod && !s.podFree n) || !s.windowsFree j then .next s
      else if !cores.all (s.coreFree j) then
        .next ((s.lowerRunning j).foldl (fun s m => s.updJob m.1 fun x => { x with preq := x.preq ++ m.2, rreq := true }) s)
      else if j.form.pod && !s.linksFit j then .next (s.linksMisfit n)
      else match j.form.patched with
      | none => .next (s.endEntry n FaultCode.reservedField.toNat)
      | some form =>
        let j := { j with form := form }
        let s1 := s.loadContext j
        let s2 := cores.foldl (fun s c => s.loadCore j c) s1
        let links := if j.form.pod then (s.linkPrograms j s.fab.dset).map fun p => (p.1, p.2.2) else []
        let s3 := s2.updJob n fun x => { j with
          form := { j.form with links := links }
          stage := .running, ran := true, announced := x.announced, watts := [], startTick := if j.form.pod then 0 else j.vis + 640 }
        .next (if j.form.pod then s3.podLoaded n else s3)

/-! ### Placement (R319 to R321) -/

/-- The i-th task of a core under static placement (Table 10.5, R319). -/
def Job.staticTask (j : Job) (c i : Nat) : Option Nat :=
  if j.cor = 0 then
    (j.cores.findIdx? (· == c)).bind fun p =>
      let l := p + i * j.cores.length
      if l < j.tasks then some l else none
  else
    let g := j.groupSize
    let G := blockSize g
    let bs := blocks j.cores G
    (bs.findIdx? (· == c / G * G)).bind fun p =>
      let l := (p + i * bs.length) * g + c % G
      if c % G < g ∧ l < j.tasks then some l else none

def Job.givenTo (j : Job) (c : Nat) : Nat := (j.given.lookup c).getD 0

def addOne (c : Nat) (xs : List (Nat × Nat)) : List (Nat × Nat) :=
  (c, (xs.lookup c).getD 0 + 1) :: xs.filter (·.1 != c)

/-- Does the dispatcher of a core's die run (Table 13.1, R417), and may it place a task there: is the core not absent (R422)? -/
def State.dispatcherRuns (s : State) (c : Nat) : Bool := !(s.zone (20 * (c / 16) + 19)).halted && !s.coreAbsent c

/-- A task enters a core's launch queue. -/
def State.enqueue (s : State) (n c l rank : Nat) (w : Word) : State :=
  s.updCore c fun k => { k with lq := k.lq ++ [(n, w, l, rank)] }

/-- Static placement and bound lists: the core's own next tasks while its queue has room. -/
def State.fillCore (s : State) (n c : Nat) : Nat → State
  | 0 => s
  | fuel + 1 =>
    match s.job n with
    | none => s
    | some j =>
      if 64 ≤ (s.core c).lq.length ∨ !s.dispatcherRuns c ∨ !j.mayRun c then s
      else if j.trace = 2 then
        match (j.lists.lookup c).getD [] with
        | [] => s
        | w :: rest =>
          let s1 := s.enqueue n c (j.lidxOf w) (j.givenTo c) w
          (s1.updJob n fun j => { j with
            lists := (c, rest) :: j.lists.filter (·.1 != c), given := addOne c j.given }).fillCore n c fuel
      else match j.staticTask c (j.givenTo c) with
        | none => s
        | some l =>
          let s1 := s.enqueue n c l l (j.widOf l)
          (s1.updJob n fun j => { j with given := addOne c j.given }).fillCore n c fuel

/-- The first of a list with the least weight. -/
def leastBy (f : Nat → Nat) (xs : List Nat) : Option Nat :=
  xs.foldl (fun best x => match best with
    | some y => if f x < f y then some x else some y
    | none => some x) none

/-- Placements made, per core (R322). -/
def addMade (c : Nat) (w : Word) (xs : List (Nat × List Word)) : List (Nat × List Word) :=
  (c, (xs.lookup c).getD [] ++ [w]) :: xs.filter (·.1 != c)

/-- The next task of a launch in logical order, a discarded one first. -/
def Job.nextTask (j : Job) : Option Nat :=
  match j.again with
  | l :: _ => some l
  | [] => if j.next < j.tasks ∧ j.trace ≠ 2 then some j.next else none

/-- A task, or a whole group, leaves the dispatcher. -/
def State.give (s : State) (j : Job) (l c : Nat) : State :=
  let w := j.widOf l
  (s.enqueue j.n c l l w).updJob j.n fun x => { x with
    next := if x.again.isEmpty then max x.next (l + 1) else x.next
    rerun := if x.again.contains l then l :: x.rerun.filter (· != l) else x.rerun
    again := x.again.filter (· != l), made := addMade c w x.made }

/-- Dynamic placement (R321). -/
def State.fillDynamic (s : State) (n : Nat) : Nat → State
  | 0 => s
  | fuel + 1 =>
    match s.job n with
    | none => s
    | some j =>
      let len := fun c => (s.core c).lq.length
      match j.nextTask with
      | none => s
      | some l =>
        if j.cor = 0 ∨ !j.again.isEmpty then
          match leastBy len (j.cores.filter fun c => decide (len c < 2) && s.dispatcherRuns c && j.mayRun c) with
          | some c => (s.give j l c).fillDynamic n fuel
          | none => s
        else
          let g := j.groupSize
          let G := blockSize g
          let total := fun b => ((List.range G).map fun i => len (b + i)).foldl (· + ·) 0
          let open_ := (blocks j.cores G).filter fun b =>
            (List.range G).all fun i => decide (len (b + i) < 2) && s.dispatcherRuns (b + i) && j.mayRun (b + i)
          match leastBy total open_ with
          | some b => ((List.range g).foldl (fun s i => s.give j (l + i) (b + i)) s).fillDynamic n fuel
          | none => s

/-- Jobs in the order in which the CP serves them (R309). -/
def insertJob (j : Job) : List Job → List Job
  | [] => [j]
  | x :: t => if x.prio < j.prio ∨ (x.prio = j.prio ∧ j.n < x.n) then j :: x :: t else x :: insertJob j t

def State.servedJobs (s : State) : List Job := s.cp.jobs.foldl (fun a j => insertJob j a) []

/-- The dispatchers' work of one tick (R320). -/
def State.dispatch (s : State) : State :=
  (s.servedJobs.filter fun j => j.stage == .running && !j.saved && (!j.form.pod || j.startTick != 0)).foldl
    (fun s j =>
      if j.trace = 2 ∨ (j.dmode ∧ j.trace = 0) then
        let s1 := j.cores.foldl (fun s c => s.fillCore j.n c 64) s
        if j.again.isEmpty then s1 else s1.fillDynamic j.n 192
      else s.fillDynamic j.n 192) s

/-! ### Binding (R319, R320) -/

/-- The first EMPTY slot of a core that may bind: its clock runs (R39) and the rows of ended launches have landed (R324). -/
def State.emptySlot (s : State) (c : Nat) : Option Nat :=
  let k := s.core c
  if k.stopped || k.mats.any fun m => ((m.launch.bind s.job).map fun j => j.stage == .ended).getD true then none
  else (List.range 4).find? fun n => (k.slot n).st == .empty

/-- A task as binding leaves its slot (R19, R20). -/
def boundSlot (j : Job) (mgr : Bool) (e : Nat × Word × Nat × Nat) : Slot :=
  let bounds : Vector Bound 16 := Vector.ofFn fun i => (j.form.bounds[i.val]?).getD {}
  { Slot.init with
    st := .bound, launch := some j.n, wid := e.2.1, lidx := e.2.2.1, rank := e.2.2.2, ctx := j.ctx
    lvl := if mgr then 2 else 0, dmode := j.dmode, regs := { Regs.init with b := bounds }
    pc := j.form.entry, tdead := BitVec.ofNat 64 (rfield j.record 576 64), startTick := j.startTick }

/-- The head of a core's launch queue is bound into a slot; a launch's first binding on the core resets the bank
formats and weight slots (R92, Table 6.3). -/
def State.bindHead (s : State) (c i : Nat) : State :=
  match (s.core c).lq with
  | [] => s
  | e :: rest =>
    match s.job e.1 with
    | none => s.updCore c fun k => { k with lq := rest }
    | some j =>
      let first := !(s.core c).bound1.contains e.1
      let slot := boundSlot j ((s.ctx j.ctx).cfg.getLsbD 23) e
      s.updCore c fun k =>
        let k1 := { k.setSlot i slot with lq := rest }
        if first then { k1 with bound1 := e.1 :: k.bound1, sfmt := Vector.replicate 16 1, ws := Vector.replicate 4 {} }
        else k1

/-- May the head of a core's queue be bound: for a co-resident group, does every member stand at its core's head
with a slot free (R319)? A member that a pre-emption sent back to its queue joins those that stand in slots or have retired (R320,
R329). The cores it binds on. -/
def State.bindable (s : State) (c : Nat) : List Nat :=
  match (s.core c).lq with
  | [] => []
  | e :: _ =>
    match s.job e.1 with
    | none => [c]
    | some j =>
      if j.cor = 0 ∨ j.rerun.contains e.2.2.1 then (if (s.emptySlot c).isSome then [c] else [])
      else
        let g := j.groupSize
        let l0 := e.2.2.1 / g * g
        let base := c - e.2.2.1 % g
        let cores := (List.range g).map (base + ·)
        let ok := fun (x : Nat) => (s.emptySlot x).isSome && match (s.core x).lq with
          | y :: _ => y.1 == e.1 && y.2.2.1 == l0 + (x - base)
          | [] => false
        let stands := fun (x : Nat) => decide (l0 + (x - base) < j.low) || j.high.contains (l0 + (x - base))
          || (s.core x).slots.toList.any fun t => t.st != .empty && t.launch == some e.1 && t.lidx == l0 + (x - base)
        if cores.all fun x => ok x || stands x then cores.filter fun x => ok x && !stands x else []

def State.bindAll (s : State) (c : Nat) : Nat → State
  | 0 => s
  | fuel + 1 =>
    match s.bindable c with
    | [] => s
    | cs => (cs.foldl (fun s x => s.bindHead x ((s.emptySlot x).getD 0)) s).bindAll c fuel

/-- The heads of the launch queues that hold tasks of a launch, where every one is of the launch, has a slot free and waits for its group:
core, WID, logical index. None while a task of the launch stands in a slot. -/
def State.unbindable (s : State) (j : Job) : List (Nat × Word × Nat) :=
  let cores := (List.range 64).filter fun c => (s.core c).lq.any fun e => e.1 == j.n
  let stands := s.cores.toList.any fun (k : Core) => k.slots.toList.any fun t => t.st != .empty && t.launch == some j.n
  let head := fun (c : Nat) => match (s.core c).lq with
    | e :: _ => if e.1 == j.n && (s.emptySlot c).isSome && (s.bindable c).isEmpty then some (c, e.2.1, e.2.2.1) else none
    | [] => none
  if stands || (cores.any fun c => (head c).isNone) then [] else cores.filterMap head

/-- A launch bound by a trace that breaks co-residency has no task that could wait; it ends as a wait of its tasks would, its DEADLINE
after it comes to a stand (R47, R322). -/
def State.stuckStep (s : State) (j : Job) : State :=
  match s.unbindable j with
  | [] => if j.stuck.isSome then s.updJob j.n fun j => { j with stuck := none } else s
  | x :: rest =>
    let first := rest.foldl (fun (a b : Nat × Word × Nat) => if b.2.2 < a.2.2 then b else a) x
    let t0 := j.stuck.getD s.tick
    if t0 + rfield j.record 576 64 ≤ s.tick then s.abort j.n .waitDeadline (some (first.2.2, first.2.1))
    else s.updJob j.n fun j => { j with stuck := some t0 }

/-- The launches that a bound trace may bring to a stand. -/
def State.stuckSteps (s : State) : State :=
  (s.cp.jobs.filter fun j => j.stage == .running && j.trace == 2 && j.cor != 0 && !j.saved).foldl (·.stuckStep ·) s

/-- TASK_BIND (R320): queued tasks of a core are bound into its EMPTY slots. -/
def execTaskBind (core : Nat) (s : State) : Step := .next (s.bindAll core 4)

/-! ### Choosing the ACTIVE slot (R325, R353) -/

/-- Is an operation of the slot PARKED that makes a completion object (R46)? -/
def Core.parkedOn (k : Core) (c n : Nat) (comp : Word) : Bool :=
  k.held_.any fun o => o.slot == n && o.pst == .parked && o.hasComp && compBitmap o.comp == compBitmap comp
    && compPackage c o.comp == compPackage c comp

/-- The object a wait freezes on (Table 1.10). -/
def Hold.waits (h : Hold) : Option Word :=
  match h with
  | .waitg x _ | .waitm x _ | .align x _ _ => some x
  | _ => none

def Hold.isAlign (h : Hold) : Bool :=
  match h with
  | .align .. => true
  | _ => false

/-- Does a task that stands in it give way to one of its launch before it (R325): a wait on an object, or on the task's own
operations, which may hold a ticket of the other's (R333)? -/
def Hold.givesWay (h : Hold) : Bool :=
  match h with
  | .fence .. | .tableFull => true
  | _ => h.waits.isSome

/-- Has the cause of a STANDBY or BLOCKED slot cleared (R353)? -/
def State.slotReady (s : State) (c n : Nat) : Bool :=
  let t := s.slot c n
  match t.freeze with
  | some z =>
    if z.late then
      !((z.hold.waits.map fun x => (s.core c).parkedOn c n x).getD false)
        || (z.deadline.map fun d => decide (d ≤ s.tick)).getD false
    else t.ready
  | none => t.ready

/-- May a slot become ACTIVE? -/
def State.candidate (s : State) (c n : Nat) : Bool :=
  let t := s.slot c n
  let free := ((t.launch.bind s.job).map (·.mayRun c)).getD true
  free && (t.st == .bound || ((t.st == .standby || t.st == .blocked) && s.slotReady c n))

/-- Order of choice: priority, rank, slot number (R325). -/
def State.better (s : State) (c a b : Nat) : Bool :=
  let prio := fun n => (((s.slot c n).launch.bind s.job).map (·.prio)).getD 0
  let rank := fun n => (s.slot c n).rank
  decide (prio b < prio a) || (prio a == prio b && (decide (rank a < rank b) || (rank a == rank b && decide (a < b))))

def State.bestSlot (s : State) (c : Nat) : Option Nat :=
  ((List.range 4).filter (s.candidate c)).foldl (fun best n => match best with
    | some b => if s.better c n b then some n else some b
    | none => some n) none

/-- A RETIRING slot that still has a word to issue, a frozen one among them, or a matrix operation in flight (R325). -/
def Core.busyRetiring (k : Core) : Bool :=
  (List.range 4).any fun n =>
    let t := k.slot n
    t.st == .retiring && (t.queues.toList.any (!·.isEmpty) || t.freeze.isSome || !t.behind.isEmpty || k.mats.any fun m => m.slot == n)

/-- Does the ACTIVE task of an E-mode launch, frozen on a wait, give way to a ready task of its launch before it in the order
of choice (R325)? The slot it stands in. -/
def State.givesWay (s : State) (c : Nat) : Option Nat :=
  (List.range 4).find? fun n =>
    let t := s.slot c n
    t.st == .active && !t.dmode && t.flt.isNone && (t.freeze.map fun z => z.hold.givesWay).getD false
      && (List.range 4).any fun m =>
        (s.slot c m).launch == t.launch && decide ((s.slot c m).rank < t.rank) && s.candidate c m

/-- A slot gives way. Its freezing word issues again (R248), but an ALIGN stands, since its arrival has been made. -/
def State.giveWay (s : State) (c n : Nat) : State :=
  if ((s.slot c n).freeze.map fun z => z.hold.isAlign).getD false then
    s.updSlot c n fun t => { t with st := .standby, freeze := t.freeze.map fun z => { z with late := true } }
  else (s.reissueAll c n 0).updSlot c n fun t => { t with st := .standby, ready := true }

/-- A task that waits on the object of its own PARKED operation is switched out, to STANDBY where another slot is ready
and else to BLOCKED; its deadline keeps running (R46, R254, R353). -/
def State.switchOut (s : State) (c : Nat) : State :=
  let waits := fun (n : Nat) => match (s.slot c n).freeze with
    | some z => (z.hold.waits.map fun x => (s.core c).parkedOn c n x).getD false
    | none => false
  match (List.range 4).find? fun n => (s.slot c n).st == .active && (s.slot c n).flt.isNone && waits n with
  | none => s
  | some n =>
    let other := (List.range 4).any fun m => s.candidate c m
    s.updSlot c n fun t => { t with
      st := if other then .standby else .blocked
      freeze := t.freeze.map fun z => { z with late := true } }

/-- The chosen slot becomes ACTIVE, its first word on the next cycle. A wait switched out past its deadline raises
WAIT_DEADLINE; otherwise it issues again (R254), or as an ALIGN goes on waiting, its deadline counted afresh. -/
def State.activate (s : State) (c n : Nat) : State :=
  let t := s.slot c n
  let expired := (t.freeze.map fun z => z.late && (z.deadline.map fun d => decide (d ≤ s.tick)).getD false).getD false
  let s1 := s.setSlot c n { t with st := .active, ready := false, startAt := max t.startAt ((s.core c).cyc + 1) }
  match t.freeze with
  | none => s1
  | some z =>
    if expired then s1.faultFrozen c n .waitDeadline (z.hold.haddr c)
    else if z.late && z.hold.isAlign then
      s1.updSlot c n fun t => { t with freeze := some { z with
        late := false, start := s.tick, deadline := z.deadline.map fun d => s.tick + (d - z.start) } }
    else s1.reissueAll c n 0

/-- SLOT_ACTIVATE (R325). -/
def execSlotActivate (core : Nat) (s : State) : Step :=
  let busy := (s.core core).hslot.st != .empty || (s.core core).busyRetiring
  let s1 := match if busy then none else s.givesWay core with
    | some n => s.giveWay core n
    | none => s.switchOut core
  let k := s1.core core
  if k.stopped then .next s
  else if k.hslot.st != .empty || k.slots.toList.any (·.st == .active) || k.busyRetiring then .next s1
  else match s1.bestSlot core with
    | some n => .next (s1.activate core n)
    | none => .next s1

/-! ### Retirement and completion (R45, R322, R323) -/

/-- Has nothing of a RETIRING task been left to happen (R45, R145)? After the EXIT of a handler of its own, the handler's outstanding words
and operations do not hold it, of which R45 and R145 say nothing: DESIGN CHOICE (log 27). -/
def State.retireReady (s : State) (c n : Nat) : Bool :=
  let t := s.slot c n
  let k := s.core c
  t.st == .retiring && t.exited && t.landings.isEmpty && t.flt.isNone && t.waiting.isEmpty
    && t.queues.toList.all (·.isEmpty) && t.freeze.isNone && !(k.formats.any (·.1 == n))
    && !(k.mats.any fun m => m.slot == n) && !(k.held_.any fun o => o.slot == n) && !k.stopped

/-- Lowest index not retired, and those retired above it. -/
def retireIndex : Nat → Nat → List Nat → Nat × List Nat
  | 0, low, high => (low, high)
  | fuel + 1, low, high =>
    if high.contains low then retireIndex fuel (low + 1) (high.filter (· != low)) else (low, high)

/-- A task has retired: its exit code, and the launch's last tick (R143, R323). -/
def Job.retire (j : Job) (t : Slot) (tick : Nat) : Job :=
  let r := retireIndex (j.high.length + 1) j.low (t.lidx :: j.high)
  let lower := (j.xlidx.map fun x => decide (t.lidx < x)).getD true
  let j1 := if t.xcode = 0 then j
    else if lower then { j with nz := j.nz + 1, xlidx := some t.lidx, xcode := t.xcode, xwid := t.wid }
    else { j with nz := j.nz + 1 }
  { j1 with low := r.1, high := r.2, etick := tick }

/-- A slot that a task has left: EMPTY, its registers as they stand until the next task is bound (R20, R26). -/
def Slot.vacated (t : Slot) : Slot :=
  { Slot.init with
    wid := t.wid, lidx := t.lidx, regs := t.regs, pc := t.pc, rmode := t.rmode, fstat := t.fstat, bstat := t.bstat, tdead := t.tdead
    hcause := t.hcause, haddr := t.haddr, hpc := t.hpc, hword := t.hword, lnLvl := t.lnLvl, lnErr := t.lnErr, ln := t.ln
    supp := t.supp, fcode := t.fcode, wp := t.wp, tc := t.tc }

/-- TASK_RETIRE (R45). -/
def execTaskRetire (core slot : Nat) (s : State) : Step :=
  if !s.retireReady core slot then .next s
  else
    let t := s.slot core slot
    let s1 := s.updCore core fun k => { k.setSlot slot t.vacated with ops := k.ops.filter fun o => o.slot != slot }
    let mine := fun (g : Grant) => g.core == core && some g.launch == t.launch && g.lidx == t.lidx
    let s2 : State := { s1 with cool := { s1.cool with grants := s1.cool.grants.filter fun g => !mine g } }
    match t.launch with
    | some n => .next (s2.updJob n fun j => if j.stage = .running then j.retire t s.tick else j)
    | none => .next s2

/-- The completion record (Table 10.7); REV and XLAT of a launch that was loaded. -/
def Job.recordBytes (j : Job) : List Byte :=
  bytesLE 32 (layBits [(0, j.status % 256), (8, if j.ran then j.form.rev else 0), (16, if j.ran && j.form.xlat then 1 else 0), (17, 1),
    (32, if j.status = 0 then j.xcode.toNat else 0), (64, j.xwid.toNat), (128, j.nz % 2 ^ 48), (192, j.etick % 2 ^ 64)])

/-- The trace area of a recorded launch (R322). -/
def State.writeTrace (s : State) (j : Job) : State :=
  let base := rfield j.record 640 48
  let r := (List.range 64).foldl (fun (acc : State × Nat × List Byte) c =>
    let ws := (j.made.lookup c).getD []
    let s1 := acc.1.putBytes (base + acc.2.1) (ws.flatMap fun w => bytesLE 8 w.toNat)
    (s1, acc.2.1 + 8 * ws.length,
      acc.2.2 ++ bytesLE 8 (if ws.isEmpty then 0 else acc.2.1) ++ bytesLE 8 ws.length)) (s, 1024, [])
  r.1.putBytes base r.2.2

/-- A completion address (Table 10.2) takes a record. -/
def State.writeRecord (s : State) (ctx : Nat) (comp : Word) (bs : List Byte) : State :=
  s.cpWrite ctx (comp.getLsbD 63) (if comp.getLsbD 63 then (comp.extractLsb' 0 48).toNat else comp.toNat) bs

/-- Raise an HWQ's vector at its context's attachment. -/
def State.raiseVec (s : State) (n : Nat) : State :=
  let x := s.hwq n
  s.emit (.msix (s.ctx (hwqCtx x)).host (rget x 112 11))

/-- A launch that is over leaves no binding and no saved state of its own behind. -/
def State.forgetLaunch (s : State) (n : Nat) : State :=
  { s with
    cores := s.cores.map fun k => { k with bound1 := k.bound1.filter (· != n) }
    ctxs := s.ctxs.map fun x => { x with saved := x.saved.filter fun y => y.launch != n } }

/-- The entry of an HWQ is over: LAST, its vector, and the next entry may be taken (R323). The record is written at COMPADDR even
where step 3 refused that address, on which R313 and R323 leave no other word: DESIGN CHOICE (log 27). -/
def State.closeEntry (s : State) (j : Job) (comp : Word) : State :=
  let s1 := s.writeRecord j.ctx comp j.recordBytes
  let s2 := s1.setHwq j.n (rset (s1.hwq j.n) 128 8 j.status)
  let s3 := if rget (s2.hwq j.n) 123 1 = 1 then s2.raiseVec j.n else s2
  let cont := if (s3.fab.cont.map (·.2)) == some j.n then none else s3.fab.cont
  { s3.forgetLaunch j.n with
    cp := { s3.cp with jobs := s3.cp.jobs.filter (·.n != j.n) }, fab := { s3.fab with cont := cont } }

/-- Have all tasks of a running launch retired, and on a pod launch its engines halted (R323, R382)? From the first NOTICE
a pod launch stands until tick S stops it (R402, R489). -/
def State.launchDone (s : State) (j : Job) : Bool :=
  j.stage == .running && !j.saved && j.low == j.tasks
    && (!j.form.pod || (s.fab.notices.isEmpty && s.fab.eng.toList.all (·.over)))

/-- What a graph's LAUNCH node holds of its NEXT, while its launch runs. -/
def GraphAt.afterLaunch (x : GraphAt) : Option Nat :=
  match x with
  | .launching next => some next
  | _ => none

/-- Does an entry in process run a launch: its own, or a node's? -/
def Job.runsLaunch (j : Job) : Bool := (j.graph.map fun g => g.doing.afterLaunch.isSome).getD true

/-- A launch that a graph's LAUNCH node ran is over: the graph goes on 96 ticks later, or ends with its status. -/
def State.graphAfterLaunch (s : State) (j : Job) (g : Graph) (next : Nat) : State :=
  let comp := BitVec.ofNat 64 (rfield j.record 960 64)
  let s1 := if comp = 0 then s else s.writeRecord j.ctx comp j.recordBytes
  if j.status ≠ 0 then s1.closeEntry { j with etick := s.tick } g.comp
  else (s1.forgetLaunch j.n).updJob j.n fun _ => { j with
    stage := .running, form := {}, admitted := false, record := 0, low := 0, high := [], nz := 0, xcode := 0
    xlidx := none, xwid := 0, next := 0, again := [], rerun := [], ran := false, announced := false, stuck := none, given := [], lists := [], made := [], ticketed := []
    cores := [], etick := 0, status := 0
    graph := some { g with node := next, doing := .starting (s.tick + 96) } }

/-- LAUNCH_COMPLETE (R323). The record of a finished, failed or aborted launch is written, LAST and the vector follow, and
the next entry may be taken; a graph goes on or ends. -/
def execLaunchComplete (n : Nat) (s : State) : Step :=
  match s.job n with
  | none => .next s
  | some j0 =>
    if !s.cpRuns || !(j0.stage == .ended || j0.runsLaunch && s.launchDone j0) then .next s
    else
      let j := if j0.stage = .ended then j0
        else { j0 with stage := .ended, status := 0, admitted := false, etick := if j0.form.pod then s.tick else j0.etick }
      let past := if s.fab.podJob == some n && j.status == 0 then some j else s.fab.past
      let s1 : State := if s.fab.podJob == some n || (j0.announced && s.fab.podJob.isNone) then
          { s with fab := { s.fab.freed with past := past } } else s
      let s2 := if j.ran && j.trace = 1 then s1.writeTrace j else s1
      match j.graph with
      | none => .next (s2.closeEntry j (BitVec.ofNat 64 (rfield j.record 960 64)))
      | some g =>
        .next (match g.doing.afterLaunch with
          | some next => s2.graphAfterLaunch j g next
          | none => s2.closeEntry j g.comp)

end Sys2Proof.Machine
end

