-- ==== Sys2Proof/Machine/Graph.lean ====
section
/-!
DEFINITION. CP graphs (R330 to R332): starting one and the seven kinds of node.
-/
namespace Sys2Proof.Machine

/-- A graph ends with a status, on the completion tick of its last node (R332). -/
def State.endGraph (s : State) (n status : Nat) : State :=
  s.updJob n fun j => { j with
    stage := .ended, admitted := false, status := status, etick := s.tick
    xwid := if status = 0 then 0 else BitVec.allOnes 64 }

/-- GRAPH_START (R330): the first node starts on the entry's visibility tick. -/
def execGraphStart (n : Nat) (s : State) : Step :=
  match s.job n with
  | none => .next s
  | some j =>
    if !(j.stage == .held && j.graph.isNone && rfield j.record 0 8 == 2 && s.cpRuns) then .next s
    else .next (s.updJob n fun j => { j with
      stage := .running
      graph := some { node := rfield j.record 64 64, doing := .starting j.vis
                      comp := BitVec.ofNat 64 (rfield j.record 960 64) }
      record := 0 })

/-- The kind of the node a graph is at. -/
def State.nodeKind (s : State) (g : Graph) : Nat := s.mem.nat g.node 1

/-- Has a node's start tick come? -/
def State.nodeStarts (s : State) (j : Job) (g : Graph) : Bool :=
  s.cpRuns && j.stage == .running && !j.saved && match g.doing with
    | .starting t => decide (t ≤ s.tick)
    | _ => false

/-- The checks of a node as the CP reads it (R331); poison that it reads (R455) ends the graph with POISON: DESIGN CHOICE (log 18). A NEXT or
ALT outside the windows is met only when that node is reached, on which R331 is silent: DESIGN CHOICE (log 27). -/
def State.nodeFault (s : State) (ctx : Nat) (g : Graph) : Option FaultCode :=
  let a := g.node
  let f := fun lo n => s.mem.nat (a + lo) n
  let k := f 0 1
  let see := fun acc x n => ((s.ctx ctx).outside acc x n).isSome
  let bad := (k == 0 || decide (7 < k)) || f 1 3 != 0 || f 48 8 != 0 || f 56 8 != 0 || a % 64 != 0
    || ((k == 3 || k == 5 || k == 6) && f 24 8 % 8 != 0) || (k == 5 && f 32 8 == 0)
    || (k == 6 && decide (1 < f 32 8))
  if see .read a 64 then some .windowViolation
  else if s.cpPoison a 64 then some .poison
  else if bad then some .reservedField
  else match k with
    | 1 => if see .read (f 32 8) 256 then some .windowViolation else if s.cpPoison (f 32 8) 256 then some .poison else none
    | 2 =>
      let d := f 32 8
      if see .read d 32 then some .windowViolation
      else if s.cpPoison d 32 then some .poison
      else if s.mem.nat (d + 24) 8 ≠ 0 then some .reservedField
      else if see .read (s.mem.nat d 8) (s.mem.nat (d + 16) 8) || see .write (s.mem.nat (d + 8) 8) (s.mem.nat (d + 16) 8)
        then some .windowViolation else none
    | 3 | 5 => if see .read (f 24 8) 8 then some .windowViolation else if s.cpPoison (f 24 8) 8 then some .poison else none
    | 4 => if see .write (a + 40) 8 then some .windowViolation else none
    | 6 => if see .write (f 24 8) 8 then some .windowViolation else none
    | _ => none

/-- The graph goes to a node, 96 ticks after this one completes. -/
def State.goTo (s : State) (n node : Nat) (completes : Nat) : State :=
  s.updJob n fun j => { j with graph := j.graph.map fun g =>
    { g with node := node, doing := .starting (completes + 96) } }

/-- Does a graph go on: it has not ended, and no splice has stopped it? -/
def State.nodeActs (s : State) (n : Nat) : Bool := (s.job n).any fun j => j.stage == .running && !j.saved

/-- A node of one kind acts on its start tick; a node that fails its checks ends the graph. -/
def nodeStep (kind n : Nat) (s : State) (body : Job → Graph → State) : Step :=
  match s.job n with
  | none => .next s
  | some j => match j.graph with
    | none => .next s
    | some g =>
      if !s.nodeStarts j g then .next s
      else match s.nodeFault j.ctx g with
        | some c => .next (s.endGraph n c.toNat)
        | none => .next (if s.nodeKind g = kind then body j g else s)

def State.nodeNext (s : State) (g : Graph) : Nat := s.mem.nat (g.node + 8) 8
def State.nodeAlt (s : State) (g : Graph) : Nat := s.mem.nat (g.node + 16) 8
def State.nodePred (s : State) (g : Graph) : Nat := s.mem.nat (g.node + 24) 8
def State.nodeArg (s : State) (g : Graph) : Nat := s.mem.nat (g.node + 32) 8
def State.nodeCount (s : State) (g : Graph) : Nat := s.mem.nat (g.node + 4) 4

/-- LAUNCH: the record at ARG, visible on the node's start tick (R318, R331). -/
def execNodeLaunch (n : Nat) (s : State) : Step :=
  nodeStep 1 n s fun _ g =>
    let r := BitVec.ofNat 2048 (s.mem.nat (s.nodeArg g) 256)
    s.updJob n fun j => { j with
      record := r, prio := rfield r 24 3, vis := s.tick, stage := .taken
      graph := some { g with doing := .launching (s.nodeNext g) } }

/-- The bytes of a COPY node that move on one tick: DESIGN CHOICE (log 18). -/
def nodePiece : Nat := 4096

/-- A COPY node's next piece, a write that waits at a bank which a link engine's flit holds (R284, R395); poison that it reads ends the graph.
The node completes when the last byte is visible, and not before its delay is over. -/
def State.nodeCopyPiece (s : State) (n : Nat) (x : NodeCopy) : State :=
  let len := min nodePiece (x.len - x.pos)
  let dst := x.dst + x.pos
  let waits := (List.range ((len + 511) / 256)).any fun i => s.unitWaits (dst + min (256 * i) (len - 1))
  let at_ := fun (pos : Nat) (s : State) =>
    s.updJob n fun j => { j with graph := j.graph.map fun g => { g with doing := .copying { x with pos := pos } } }
  if s.cpPoison (x.src + x.pos) len then s.endGraph n FaultCode.poison.toNat
  else if waits then at_ x.pos s
  else
    let s1 := s.putBytes dst (s.mem.bytes (x.src + x.pos) len)
    if x.pos + len < x.len then at_ (x.pos + len) s1
    else s1.goTo n x.next (max s.tick x.until_)

/-- COPY: bytes move without conversion, in pieces. -/
def execNodeCopy (n : Nat) (s : State) : Step :=
  match (s.job n).bind (·.graph) with
  | some g => match g.doing with
    | .copying x => .next (if s.cpRuns && s.nodeActs n then s.nodeCopyPiece n x else s)
    | _ => nodeStep 2 n s fun _ g =>
      let d := s.nodeArg g
      let f := fun lo => s.mem.nat (d + lo) 8
      let p := s.popLat
      p.2.nodeCopyPiece n { src := f 0, dst := f 8, len := f 16, next := s.nodeNext g, until_ := s.tick + p.1 }
  | none => .next s

def execNodeCond (n : Nat) (s : State) : Step :=
  nodeStep 3 n s fun _ g =>
    s.goTo n (if s.mem.nat (s.nodePred g) 8 ≠ 0 then s.nodeNext g else s.nodeAlt g) s.tick

/-- LOOP: STATE counts up to COUNT, then is reset; its write waits for the bank as any other (R284). -/
def execNodeLoop (n : Nat) (s : State) : Step :=
  nodeStep 4 n s fun _ g =>
    let st := s.mem.nat (g.node + 40) 8
    if s.unitWaits (g.node + 40) then s
    else if st < s.nodeCount g then (s.putBytes (g.node + 40) (bytesLE 8 (st + 1))).goTo n (s.nodeNext g) s.tick
    else (s.putBytes (g.node + 40) (bytesLE 8 0)).goTo n (s.nodeAlt g) s.tick

/-- WAIT's read: the node completes on the tick the word is at least COUNT; the node itself is read at its start tick alone. A deadline that
went by while the CP was halted ends the graph first (R460). -/
def State.waitNode (s : State) (n start pred count arg next : Nat) (g : Graph) : State :=
  if start + arg < s.tick then s.endGraph n FaultCode.waitDeadline.toNat
  else if s.cpPoison pred 8 then s.endGraph n FaultCode.poison.toNat
  else if count ≤ s.mem.nat pred 8 then s.goTo n next s.tick
  else s.updJob n fun j => { j with graph := some { g with doing := .waiting start pred count arg next } }

/-- WAIT: PRED is read on the start tick and on each tick after it. -/
def execNodeWait (n : Nat) (s : State) : Step :=
  match (s.job n).bind (·.graph) with
  | some g => match g.doing with
    | .waiting start pred count arg next => .next (if s.cpRuns && s.nodeActs n then s.waitNode n start pred count arg next g else s)
    | _ => nodeStep 5 n s fun _ g =>
      s.waitNode n s.tick (s.nodePred g) (s.nodeCount g) (s.nodeArg g) (s.nodeNext g) g
  | none => .next s

/-- WAIT_NODE_EXPIRY: the deadline of a WAIT node, counted from its start tick, ends the graph. -/
def execWaitNodeExpiry (n : Nat) (s : State) : Step :=
  match (s.job n).bind (·.graph) with
  | some g => match g.doing with
    | .waiting start _ _ arg _ =>
      .next (if s.cpRuns && s.nodeActs n && decide (start + arg ≤ s.tick) then s.endGraph n FaultCode.waitDeadline.toNat else s)
    | _ => .next s
  | none => .next s

/-- SIGNAL: COUNT to PRED, and the HWQ's vector where ARG asks for it. -/
def execNodeSignal (n : Nat) (s : State) : Step :=
  nodeStep 6 n s fun _ g =>
    let s1 := s.putBytes (s.nodePred g) (bytesLE 8 (s.nodeCount g))
    if s.unitWaits (s.nodePred g) then s
    else (if s.nodeArg g % 2 = 1 then s1.raiseVec n else s1).goTo n (s.nodeNext g) s.tick

def execNodeEnd (n : Nat) (s : State) : Step := nodeStep 7 n s fun _ _ => s.endGraph n 0

end Sys2Proof.Machine
end

