-- ==== Sys2Proof/Machine/Link.lean ====
section
/-!
DEFINITION. Link engines (12): their faults and NOTICEs, claims and banks, flits sent, taken and landed, the L words and
prefixes, words of no assigned pattern, and the events of the fabric but for MGMT.
-/
namespace Sys2Proof.Machine

/-- The guard flits still to come of an interval that an LGUARD has begun, up to the sixteenth: a guard interval has at least sixteen
(R375), though its program has stopped: DESIGN CHOICE (log 19). -/
def Link.endGuards (l : Link) (tick : Nat) : Link :=
  let begun := l.timed.filter fun w => w.act == .guard && decide (w.tick ≤ tick)
  let flits := begun.flatMap fun w => (List.range 16).map fun j => w.tick + j + 11
  let due := flits.filter fun t => decide (tick + 11 ≤ t) && !l.sends.any fun x => x.1 == t
  { l with sends := l.sends ++ due.map fun t => (t, 4, List.replicate 256 0) }

/-- A fault of a link engine (R398, R399): its status; a splice or an abort starts. Once the chip has stopped for a
NOTICE no abort cause is raised (R402); the port of a stopped engine still meets splice causes. CORE of its log entry (R360) is the engine's
number, 3 x die + port: DESIGN CHOICE (log 27). -/
def State.linkFault (s : State) (n : Nat) (code : FaultCode) (cause wpc : Nat) (addr : Word := 0) : State :=
  let l := s.fab.link n
  let splice := decide (1 ≤ cause ∧ cause ≤ 5)
  if (l.frozen && !splice) || (decide (6 ≤ cause) && s.quiet) then s
  else
    let s1 := s.setLink n { l with code := code.toNat, cause := cause, wpc := wpc, ftick := s.tick }
    let link := s.fab.linkId (portOf n)
    if splice then s1.startNotice link false code.toNat cause
    else
      let s2 := s1.updLink n fun l =>
        { (if code == .windowViolation then l else l.endGuards s.tick) with frozen := true, run := false, inspect := code == .windowViolation }
      let s3 := if code != .windowViolation then s2 else match s.fab.podJob.bind s.job with
        | none => s2
        | some j => s2.logViolation j.ctx (vlogEntry 4 n 0 0 j.n addr s.tick s.who.q.word s.who.q.idx)
      s3.startNotice link true code.toNat cause

/-- A link engine halts with the kernel; its registers stay, and the decode state of one that a violation froze (R399, R402). NOTICEs and
guards go out still. -/
def Link.halted (l0 : Link) (tick : Nat) : Link :=
  let l := if l0.frozen then l0 else l0.endGuards tick
  let sends := l.sends.filter fun x => decide (3 ≤ x.2.1)
  if l.inspect then { l with run := false, sends := sends }
  else { l with run := false, frozen := false, len := 0, timed := [], lands := [], started := false, sends := sends }

def State.haltEngines (s : State) : State :=
  { s with fab := { s.fab with eng := s.fab.eng.map (·.halted s.tick) } }

/-! ### Banks (R282, R395) -/

/-- A flit read or landed takes its banks for four ticks; a second one there within them raises BANK (R395), but where two
land-and-adds meet on elements of one landing tick both apply, in ascending master number (R406). -/
def State.takeBanks (s : State) (n wpc a len : Nat) (read : Bool) (add : Option Nat) : State × Bool :=
  let mine := ((linkBank a).toList ++ (linkBank (a + len - 1)).toList).eraseDups
  let recent := s.fab.banks.filter fun x => decide (s.tick < x.tick + 4)
  let uses := mine.map fun b => ({ bank := b, tick := s.tick, read := read, add := add } : BankUse)
  let s1 : State := { s with fab := { s.fab with banks := recent ++ uses } }
  let meets := fun (x : BankUse) => x.tick == s.tick && match x.add, add with
    | some p, some q => decide (p < q + 256) && decide (q < p + 256)
    | _, _ => false
  if recent.any fun x => mine.contains x.bank && !meets x then (s1.linkFault n .linkFailure 13 wpc, false) else (s1, true)

/-! ### Beats (R366, R367) -/

/-- One bit of a CRC-32 remainder. -/
def crcBit (c : BitVec 32) (b : Bool) : BitVec 32 :=
  let c1 := c <<< 1
  if c.getLsbD 31 != b then c1 ^^^ 0x04C11DB7 else c1

/-- The CRC of bits [543:0] of a beat (Table 12.2): the remainder, from zero; which bit is first is not stated. -/
def beatCrc (x : BitVec 576) : BitVec 32 :=
  let order := if Config.crcLowFirst then List.range 544 else (List.range 544).reverse
  order.foldl (fun c i => crcBit c (x.getLsbD i)) 0

def beatOk (x : BitVec 576) : Bool := beatCrc x == x.extractLsb' 544 32

/-- A beat with its CRC. -/
def crcBeat (x : BitVec 544) : BitVec 576 :=
  let y := x.setWidth 576
  y ||| ((beatCrc y).setWidth 576 <<< 544)

/-- The five beats of a flit of a KIND and payload, by its send tick (Table 12.2). -/
def flitBeats (kind send : Nat) (payload : List Byte) : List (BitVec 576) :=
  let data := (List.range 4).map fun k =>
    BitVec.ofNat 544 (leNat ((payload.drop (64 * k)).take 64) + send % 2 ^ 28 * 2 ^ 512 + kind % 16 * 2 ^ 540)
  (data ++ [data.foldl (· ^^^ ·) 0]).map crcBeat

/-! ### Sending (R388, R390, R394) -/

/-- The beats of a flit go out on this tick, its first-beat tick; its send tick is 11 before (R367). -/
def State.sendFlit (s : State) (n kind : Nat) (payload : List Byte) : State :=
  let s1 := s.emit (.flit (portOf n) kind s.tick (flitBeats kind (s.tick + 2 ^ 28 - 11) payload))
  if kind = 0 then s1 else s1.count 9 (portOf n) 1

/-- The payload of a TIMEBASE flit with first beat on a tick (Table 12.3). -/
def Link.timebase (l : Link) (beat : Nat) : List Byte :=
  bytesLE 8 beat ++ bytesLE 8 l.stamp.toNat ++ bytesLE 8 l.stampAt ++ List.replicate 232 0

/-- Is a flit that is due held back: a DATA or SIGNAL flit from the first NOTICE on, or of an engine that has stopped; any but a NOTICE
where a violation of the launch in force froze it (R399, R402)? Guards go on (R375). -/
def State.mute (s : State) (l : Link) (kind : Nat) : Bool :=
  ((kind == 1 || kind == 2) && (s.quiet || l.frozen)) || (l.inspect && s.fab.podJob.isSome)

/-- The direction carries nothing scheduled on this tick: a management message that waits, or an IDLE flit, goes out on a trained
link (R366, R380); on one that is to train, TIMEBASE flits with the echo of the far end's stamps (R372). -/
def State.sendUnscheduled (s : State) (n : Nat) : State :=
  let l := s.fab.link n
  if !l.up then (if s.fab.carries (portOf n) then s.sendFlit n 3 (l.timebase s.tick) else s)
  else match l.mgmt with
    | m :: rest => (s.setLink n { l with mgmt := rest }).sendFlit n 6 (m ++ List.replicate (256 - m.length) 0)
    | [] => s.sendFlit n 0 []

/-- The flit whose first beat is due on this tick goes out: a NOTICE displaces any other; two others meet in CONFLICT and
neither goes (R394, R402). -/
def State.emitBeats (s : State) (n : Nat) : State :=
  let l := s.fab.link n
  let now := l.sends.filter fun x => decide (x.1 ≤ s.tick)
  let rest := l.sends.filter fun x => decide (s.tick < x.1)
  let keep := fun (sends : List (Nat × Nat × List Byte)) => s.setLink n { l with sends := sends }
  match now.filter (·.2.1 == 5), now with
  | x :: more, _ => (keep (more.map (fun y => (s.tick + 1, y.2)) ++ rest)).sendFlit n x.2.1 x.2.2
  | [], [] => s.sendUnscheduled n
  | [], [x] => if s.mute l x.2.1 then (keep rest).sendUnscheduled n else (keep rest).sendFlit n x.2.1 x.2.2
  | [], _ => ((keep rest).linkFault n .linkFailure 10 (l.atWord s.tick)).sendUnscheduled n

/-- First byte of a range that no window of the pod launch's context grants; windows are made of 4 KiB pages (R285). -/
def State.podOutside (s : State) (acc : Access) (a len : Nat) : Option Nat :=
  match s.fab.podJob.bind s.job with
  | none => some a
  | some j =>
    let pages := (List.range ((a + len - 1) / 4096 - a / 4096 + 1)).map fun i => max a ((a / 4096 + i) * 4096)
    pages.find? fun p => ((s.ctx j.ctx).outside acc p 1).isSome

/-- What a timed word does on this tick, for flit j (Table 12.8a); taking a flit is done as it arrives. -/
def State.linkAct (s : State) (n : Nat) (w : Timed) : State :=
  let j := s.tick - w.tick
  match w.act with
  | .send =>
    let a := (w.ad.extractLsb' 0 48).toNat + 256 * j
    let s1 := s.takeBanks n w.wpc a 256 true none
    if s.quiet || !s1.2 then s1.1
    else match firstByte [a, a + 64, a + 128, a + 192] s.poisoned with
      | some b => s1.1.linkFault n .softError 0 w.wpc (BitVec.ofNat 64 b)
      | none => s1.1.claim n (s.tick + 11) 1 (s.mem.bytes a 256)
  | .sigSend =>
    if s.quiet then s else s.claim n (s.tick + 11) 2 (bytesLE 8 w.an.toNat ++ List.replicate 248 0)
  | .guard =>
    let l := s.fab.link n
    if j = 0 then (s.claim n (s.tick + 11) 3 (l.timebase (s.tick + 11))).updLink n fun l => { l with guard := s.tick }
    else s.claim n (s.tick + 11) 4 (List.replicate 256 0)
  | .chk k => { s with fab := { s.fab with ckpts := (s.fab.ckpts.filter fun x => x.1 != k) ++ [(k, s.tick, w.ad)] } }
  | .halt code => s.updLink n fun l => { l.endGuards s.tick with hcode := code, run := false, len := 0, timed := [], started := false }
  | _ => s

/-- Does a word take the flit that arrives on a tick? -/
def Timed.takes (w : Timed) (tick : Nat) : Bool :=
  decide (w.tick ≤ tick) && decide (tick < w.tick + w.n) && match w.act with
    | .recv | .fwd _ | .rfwd _ | .radd .. | .sigLand => true
    | _ => false

/-- The timed words of an engine on this tick: the flits they take must have come (R389, R394), those due act in
program order, and those that are over leave. -/
def State.linkExecute (s : State) (n : Nat) : State :=
  let s1 := s.emitBeats n
  let l := s1.fab.link n
  if l.frozen || !l.run then s1
  else
    let s2 := match l.timed.filter (·.takes s.tick) with
      | [] => s1
      | [w] => if l.tookAt = s.tick + 1 then s1 else s1.linkFault n .linkFailure 12 w.wpc
      | _ :: w :: _ => s1.linkFault n .linkFailure 10 w.wpc
    if (s2.fab.link n).frozen then s2
    else
      let due := l.timed.filter fun w => decide (w.tick ≤ s.tick)
      let s3 := due.foldl (fun s w => if (s.fab.link n).frozen then s else s.linkAct n w) s2
      s3.updLink n fun l => { l with timed := l.timed.filter fun w => decide (s.tick + 1 < w.tick + w.n) }

/-- May the engine decode a word on this tick (R381)? Sixteen words yet to execute stall it. -/
def State.linkDecodes (s : State) (n : Nat) : Bool :=
  let l := s.fab.link n
  l.run && !l.frozen && decide (l.decAt ≤ s.tick) && decide (l.pc < l.len)
    && decide ((l.timed.countP fun w => decide (s.tick ≤ w.tick)) < 16)

/-- The word at an index of an engine's program memory. -/
def State.linkWordAt (s : State) (n i : Nat) : Half := BitVec.ofNat 32 (s.mem.nat (linkProgAddr n + 4 * i) 4)

/-- The engine fetches the word to decode: its context, and the index after it. -/
def State.linkFetch (s : State) (n : Nat) : State :=
  let l := s.fab.link n
  let q : QWord := { word := s.linkWordAt n l.pc, idx := BitVec.ofNat 15 l.pc, seq := 0, dcyc := 0, pfx := l.latch }
  { s with who := { core := 0, slot := 5, q := q, cyc := 0, link := n } }.setLink n
    { l with pc := l.pc + 1, decAt := s.tick + 1 }

/-! ### L words (R383 to R392, R397) -/

/-- What an L word gives: a fault with its cause and address, or the state it leaves. -/
abbrev LinkVerdict := Except (FaultCode × Nat × Word) State

/-- The decode faults of an L word (R69, R384): fields, then prefixes. -/
def linkDecodeFault (i : Instr) (ximm : Bool) (xmod : BitVec 20 → Bool) (immOk resv : Bool) (p : Pfx) : Option FaultCode :=
  if !i.wf || !xmod (p.xmod.getD 0) || resv then some .reservedField
  else if p.xidle.isSome || (!p.ximm.isEmpty && !ximm) || !immOk then some .xprefix
  else none

/-- An L word at its decode: it faults, or completes and consumes its prefixes. -/
def linkWord (i : Instr) (ximm : Bool) (xmod : BitVec 20 → Bool) (immOk resv : Bool) (s : State)
    (body : LinkVerdict) : Step :=
  let n := s.who.link
  let at_ := s.who.q.idx.toNat
  match linkDecodeFault i ximm xmod immOk resv s.who.q.pfx with
  | some c => .next (s.linkFault n c 0 at_)
  | none => match body with
    | .error (c, cause, a) => .next (s.linkFault n c cause at_ a)
    | .ok s1 => .next (s1.updLink n fun l => { l with latch := {} })

def noMod (m : BitVec 20) : Bool := m == 0

/-- Link register n. -/
def Link.readA (l : Link) (n : Nat) : Word := l.a[n]?.getD 0
def Link.writeA (l : Link) (n : Nat) (v : Word) : Link := { l with a := l.a.setIfInBounds n v }
def State.a {w : Nat} (s : State) (r : BitVec w) : Word := s.engine.readA r.toNat

/-- The immediate of a word of n bits under the latched XIMM payloads. -/
def State.linkImm (s : State) (n : Nat) (sx : Bool) (imm : Nat) : Option Word := immediate s.who.q.pfx.ximm n sx imm

/-- LAT (R385): C := B + IMM. -/
def execLat (imm : BitVec 20) (s : State) : Step :=
  let v := s.linkImm 20 false imm.toNat
  linkWord (.lat imm) true noMod v.isSome false s
    (.ok (s.updLink s.who.link fun l => { l with c := l.b + v.getD 0 }))

/-- LSET (R385): ad := IMM. -/
def execLset (ad : BitVec 6) (imm : BitVec 14) (s : State) : Step :=
  let v := s.linkImm 14 true imm.toNat
  linkWord (.lset ad imm) true noMod v.isSome false s
    (.ok (s.updLink s.who.link fun l => l.writeA ad.toNat (v.getD 0)))

/-- LADD (R385): ad := aa + IMM. -/
def execLadd (ad aa : BitVec 6) (imm : BitVec 8) (s : State) : Step :=
  let v := s.linkImm 8 true imm.toNat
  linkWord (.ladd ad aa imm) true noMod v.isSome false s
    (.ok (s.updLink s.who.link fun l => l.writeA ad.toNat (l.readA aa.toNat + v.getD 0)))

/-- The index after the LEND that matches an LLOOP, scanning the words from an index, nested loops within (R386). -/
def matchingEnd (words : List Half) (at_ depth : Nat) : Option Nat :=
  match words with
  | [] => none
  | w :: t =>
    if engineOf w = 6 ∧ fld w.toNat 20 6 = 8 then matchingEnd t (at_ + 1) (depth + 1)
    else if engineOf w = 6 ∧ fld w.toNat 20 6 = 9 then
      if depth = 0 then some (at_ + 1) else matchingEnd t (at_ + 1) (depth - 1)
    else matchingEnd t (at_ + 1) depth

/-- LLOOP (R386). The matching LEND stands before the program's last word. -/
def execLloop (ad : BitVec 6) (imm : BitVec 14) (s : State) : Step :=
  let v := s.linkImm 14 false imm.toNat
  let l := s.engine
  let p := v.getD 0
  let words := (List.range (l.len - 1 - l.pc)).map fun i => s.linkWordAt s.who.link (l.pc + i)
  let past := matchingEnd words l.pc 0
  let negative := !s.who.q.pfx.ximm.isEmpty && decide (p.toInt < 0)
  let N := (s.a ad).toNat
  linkWord (.lloop ad imm) true noMod v.isSome (negative || past.isNone) s
    (if N = 0 then .ok (s.setLink s.who.link { l with pc := past.getD 0, decAt := s.tick + 2 })
     else if 4 ≤ l.stack.length then .error (.shapeRange, 0, 0)
     else
       let e : LLoopEntry := { n := N, p := p, b0 := l.b, start := l.pc, i := 0 }
       .ok (s.setLink s.who.link { l with stack := e :: l.stack, c := l.b }))

/-- LEND (R386). -/
def execLend (s : State) : Step :=
  let l := s.engine
  linkWord .lend false noMod true l.stack.isEmpty s
    (match l.stack with
     | [] => .ok s
     | e :: rest =>
       if e.i + 1 < e.n then
         let b := e.b0 + BitVec.ofNat 64 (e.i + 1) * e.p
         .ok (s.setLink s.who.link { l with
           b := b, c := b, pc := e.start, decAt := s.tick + 2, stack := { e with i := e.i + 1 } :: rest })
       else .ok (s.setLink s.who.link { l with b := e.b0, stack := rest }))

/-- A timed word is taken for its execution tick (R381): ORDER, LATE, and for a release send RELEASE (R397). A word both out of order and
late raises ORDER: DESIGN CHOICE (log 27). -/
def State.addTimed (s : State) (w : Timed) (release : Bool) : LinkVerdict :=
  let l := s.engine
  if w.tick < l.lastExec then .error (.linkFailure, 9, 0)
  else if w.tick < s.tick + 2 then .error (.linkFailure, 8, 0)
  else if release && decide (w.tick < l.lhor) then .error (.linkFailure, 15, 0)
  else .ok (s.setLink s.who.link { l with timed := l.timed ++ [w], lastExec := w.tick })

/-- A timed word at the cursor. -/
def State.timedAt (s : State) (act : LinkAct) (n : Nat) (ad an : Word) : Timed :=
  { act := act, wpc := s.who.q.idx.toNat, tick := s.engine.c.toNat, n := n, ad := ad, an := an }

/-- Where a data word may point (R387 3): its own chip, wholly in shared memory or in one scratchpad alias. Table 9.1 names link
engines for HBM and not for the alias; the model follows R387: DESIGN CHOICE (log 27). -/
def State.linkPlace (s : State) (ad : Word) (len : Nat) : Bool :=
  let a := (ad.extractLsb' 0 48).toNat
  let chip := (ad.extractLsb' 52 12).toNat
  (ad.extractLsb' 48 4).toNat == 0 && (chip == 0 || chip == s.fab.chip)
    && (decide (a + len ≤ sharedEnd) || match aliasOf a with
      | some (_, x) => decide (x + len ≤ scratchSize)
      | none => false)

/-- Checks 2 to 5 of a data word, in order (R387); the accesses its windows must grant. -/
def State.linkChecks (s : State) (ad : Word) (n : Option Nat) (addressed : Option (List Access)) :
    Option (FaultCode × Nat × Word) :=
  let a := (ad.extractLsb' 0 48).toNat
  let len := match n with | some n => 256 * n | none => 32
  let align := if n.isSome then 64 else 32
  let countBad := (n.map fun n => n == 0 || decide (65536 < n)).getD false
  if countBad then some (.shapeRange, 0, 0)
  else match addressed with
    | none => none
    | some accs =>
      if !s.linkPlace ad len then some (.shapeRange, 0, 0)
      else if a % align ≠ 0 then some (.alignFault, 0, BitVec.ofNat 64 a)
      else ((accs.filterMap fun acc => s.podOutside acc a len).foldl (fun m x => some (match m with
          | some y => min x y
          | none => x)) (none : Option Nat)).map fun b => (.windowViolation, 0, BitVec.ofNat 64 b)

/-- A data word: its checks, its place among the timed words, INC (R387, R388). -/
def State.dataWord (s : State) (ad an : BitVec 6) (act : LinkAct) (counted : Bool) (accs : Option (List Access))
    (inc release : Bool) (horizon : Option Nat) : LinkVerdict :=
  let v := s.a ad
  let n := (s.a an).toNat
  match s.linkChecks v (if counted then some n else none) accs with
  | some f => .error f
  | none =>
    match s.addTimed (s.timedAt act (if counted then n else 1) v (s.a an)) release with
    | .error f => .error f
    | .ok s1 =>
      let s2 := if inc then s1.updLink s.who.link fun l => l.writeA ad.toNat (v + BitVec.ofNat 64 (256 * n)) else s1
      match horizon with
      | none => .ok s2
      | some extra =>
        let last := s.engine.c.toNat + (if counted then n - 1 else 0) + 25 + s.engine.ldly + extra
        .ok (s2.updLink s.who.link fun l => { l with lhor := max l.lhor last })

/-- LSEND (R388, R397). -/
def execLsend (ad an : BitVec 6) (rel inc : BitVec 1) (s : State) : Step :=
  let extra := (s.who.q.pfx.mods).toNat
  linkWord (.lsend ad an rel inc) false (fun m => m.extractLsb' 0 4 == 0) true false s
    (s.dataWord ad an .send true (some [.read]) (inc == 1) (rel == 1) (some extra))

/-- LRECV (R388). -/
def execLrecv (ad an : BitVec 6) (inc : BitVec 1) (s : State) : Step :=
  linkWord (.lrecv ad an inc) false noMod true false s
    (s.dataWord ad an .recv true (some [.write]) (inc == 1) false none)

/-- A forwarding PORT is another of the chip's ports that carries a link (R387 1). -/
def State.portBad (s : State) (port : BitVec 4) : Bool :=
  port.toNat == portOf s.who.link || !s.fab.carries port.toNat

/-- LFWD (R388). -/
def execLfwd (an : BitVec 6) (port : BitVec 4) (s : State) : Step :=
  linkWord (.lfwd an port) false noMod true (s.portBad port) s
    (s.dataWord (0 : BitVec 6) an (.fwd port.toNat) true none false false none)

/-- LRFWD (R388). -/
def execLrfwd (ad an : BitVec 6) (inc : BitVec 1) (port : BitVec 4) (s : State) : Step :=
  linkWord (.lrfwd ad an inc port) false noMod true (s.portBad port) s
    (s.dataWord ad an (.rfwd port.toNat) true (some [.write]) (inc == 1) false none)

/-- LRADD (R388). -/
def execLradd (ad an : BitVec 6) (inc : BitVec 1) (fc : BitVec 3) (s : State) : Step :=
  let mode := roundingWith 0 s.who.q.pfx.override
  linkWord (.lradd ad an inc fc) false (fun m => m.extractLsb' 4 16 == 0 && decide ((m.extractLsb' 0 4).toNat ≤ 5))
    true false s
    (s.dataWord ad an (.radd fc.toNat mode) true (some [.alu]) (inc == 1) false none)

/-- LSIG (R388, R397). -/
def execLsig (ad an : BitVec 6) (dir : BitVec 1) (s : State) : Step :=
  linkWord (.lsig ad an dir) false noMod true false s
    (if dir == 0 then s.dataWord ad an .sigSend false none false true (some 0)
     else s.dataWord ad an .sigLand false (some [.read, .write]) false false none)

/-- LGUARD (R390). -/
def execLguard (imm : BitVec 20) (s : State) : Step :=
  linkWord (.lguard imm) false noMod true (decide (imm.toNat < 16)) s
    (s.addTimed (s.timedAt .guard imm.toNat 0 0) false)

/-- LCHK (R391). -/
def execLchk (ad : BitVec 6) (imm : BitVec 14) (s : State) : Step :=
  let v := s.linkImm 14 false imm.toNat
  linkWord (.lchk ad imm) true noMod v.isSome false s
    (s.addTimed (s.timedAt (.chk (v.getD 0).toNat) 1 (s.a ad) 0) false)

/-- LHALT (R392); inside a loop it raises RESERVED_FIELD (R386), with any prefix XPREFIX. Decoding stops as it executes. -/
def execLhalt (code : BitVec 20) (s : State) : Step :=
  linkWord (.lhalt code) false noMod s.who.q.pfx.xmod.isNone (!s.engine.stack.isEmpty) s
    (s.addTimed (s.timedAt (.halt code) 1 0 0) false)

/-! ### Prefixes and unassigned patterns (R57 to R62, R68, R69, R384) -/

/-- Is a link engine's program the one whose word is executed? -/
def State.onLink (s : State) : Bool := s.who.slot == 5

/-- A prefix latched for its target, or XPREFIX where it may not be. -/
def Pfx.add (p : Pfx) (i : Instr) : Option Pfx :=
  match i with
  | .ximm _ pay => if 2 ≤ p.ximm.length then none else some { p with ximm := p.ximm ++ [pay] }
  | .xidle _ pay => if p.xidle.isSome then none else some { p with xidle := some pay }
  | .xmod _ pay => if p.xmod.isSome then none else some { p with xmod := some pay }
  | _ => some p

/-- A prefix at its delivery, or in link program memory at its decode. -/
def prefixWord (i : Instr) (tgt : BitVec 3) (s : State) : Step :=
  if s.onLink then
    let n := s.who.link
    let at_ := s.who.q.idx.toNat
    if tgt != 6 then .next (s.linkFault n .engineMisplaced 0 at_)
    else match s.engine.latch.add i with
      | none => .next (s.linkFault n .xprefix 0 at_)
      | some p => .next (s.updLink n fun l => { l with latch := p })
  else
    let bad := fun (c : FaultCode) => (Host.Outcome.next (s.raise { code := c, unissued := true }) : Step)
    if tgt = 6 then bad .engineMisplaced
    else if tgt = 7 then bad .illegalOpcode
    else match (s.cur.latch[tgt.toNat]?.getD {}).add i with
      | none => bad .xprefix
      | some p => .next (s.updCur fun t => { t with latch := t.latch.setIfInBounds tgt.toNat p })

def execXimm (tgt : BitVec 3) (pay : BitVec 20) (s : State) : Step := prefixWord (.ximm tgt pay) tgt s
def execXidle (tgt : BitVec 3) (pay : BitVec 20) (s : State) : Step := prefixWord (.xidle tgt pay) tgt s
def execXmod (tgt : BitVec 3) (pay : BitVec 20) (s : State) : Step := prefixWord (.xmod tgt pay) tgt s

/-- Opcodes an engine assigns, by E (Tables 2.6 to 2.10). -/
def opCount (e : Nat) : Nat := ([0x38, 0x31, 0x0A, 0x0C, 0x0F, 0x19, 0x0E][e]?).getD 0

/-- The fault of a word of no assigned pattern in a core stream (Table 2.11, R62, R69), and whether it arises at the
word's delivery. -/
def patternFault (w : Half) : FaultCode × Bool :=
  let e := engineOf w
  if e = 6 then (.engineMisplaced, true)
  else if e = 7 then
    if fld w.toNat 23 3 = 6 then (.engineMisplaced, true)
    else if fld w.toNat 23 3 = 7 ∨ 3 ≤ fld w.toNat 20 3 then (.illegalOpcode, true)
    else (.reservedField, true)
  else if opCount e ≤ fld w.toNat 20 6 then (.illegalOpcode, false)
  else (.reservedField, false)

/-- The same in link program memory. -/
def linkPatternFault (w : Half) : FaultCode :=
  let e := engineOf w
  if e < 6 ∨ (e = 7 ∧ fld w.toNat 23 3 ≠ 6) then .engineMisplaced
  else if (e = 6 ∧ opCount 6 ≤ fld w.toNat 20 6) ∨ (e = 7 ∧ 3 ≤ fld w.toNat 20 3) then .illegalOpcode
  else .reservedField

/-- UNASSIGNED_PATTERN (R68). -/
def execUnassignedPattern (w : Half) (s : State) : Step :=
  if s.onLink then .next (s.linkFault s.who.link (linkPatternFault w) 0 s.who.q.idx.toNat)
  else
    let f := patternFault w
    .next (s.raise { code := f.1, unissued := f.2 })

/-! ### Flits as they arrive (R366 to R369, R374, R388, R389) -/

/-- The beats of a flit, data rails then parity. -/
def flitRails (f : Flit) : List (BitVec 576) := (List.range 4).map (fun k => (f.beats[k]?).getD 0) ++ [f.parity]

/-- Rails whose beat fails. -/
def flitFailing (f : Flit) : List Nat := (List.range 5).filter fun k => !beatOk (((flitRails f)[k]?).getD 0)

/-- The data beats of a flit once one failing beat is rebuilt from the others; none where the flit is bad (R368). -/
def flitRebuilt (f : Flit) : Option (List (BitVec 576)) :=
  let good := match flitFailing f with
    | [] => some ((flitRails f).take 4)
    | [k] =>
      let x := ((flitRails f).eraseIdx k).foldl (fun a b => a ^^^ b) (0 : BitVec 576)
      if beatOk x then some (((flitRails f).set k x).take 4) else none
    | _ => none
  good.bind fun bs => if 7 ≤ (((bs.head?).getD 0).extractLsb' 540 4).toNat then none else some bs

def flitKind (bs : List (BitVec 576)) : Nat := (((bs.head?).getD 0).extractLsb' 540 4).toNat
def flitSeq (bs : List (BitVec 576)) : Nat := (((bs.head?).getD 0).extractLsb' 512 28).toNat
def flitPayload (bs : List (BitVec 576)) : List Byte := bs.flatMap fun b => bytesLE 64 (b.extractLsb' 0 512).toNat

/-- Beats that failed on a link's rails (R369): a rail with sixteen within 2^20 ticks is degraded; the first sets DEG,
a second raises RAIL. -/
def State.countBeats (s : State) (n : Nat) (bad : List Nat) : State :=
  if bad.isEmpty then s
  else
    let l := s.fab.link n
    let recent := l.fails.filter (fun x => decide (s.tick < x.2 + 2 ^ 20)) ++ bad.map (·, s.tick)
    let worn := bad.filter fun k => !l.degRails.contains k && decide (16 ≤ recent.countP (·.1 == k))
    let rails := l.degRails ++ worn
    let s1 := s.setLink n { l with fails := recent, degRails := rails, deg := !rails.isEmpty }
    if !worn.isEmpty && decide (2 ≤ rails.length) then s1.linkFault n .linkFailure 2 (l.atWord s.tick) else s1

/-- A taken flit's landing, 14 ticks after it (Table 12.8a). -/
def State.landLater (s : State) (n : Nat) (w : Timed) (kind : LandKind) : State :=
  let j := s.tick - w.tick
  let x : LinkLand := { tick := s.tick + 14, addr := (w.ad.extractLsb' 0 48).toNat + 256 * j, wpc := w.wpc, kind := kind }
  s.updLink n fun l => { l with lands := l.lands ++ [x] }

/-- The word of the engine takes the flit (R388, R389). -/
def State.takeFlit (s : State) (n : Nat) (w : Timed) (bs : List (BitVec 576)) : State :=
  let l := s.fab.link n
  let kind := flitKind bs
  let want := if w.act = .sigLand then 2 else 1
  let data := flitPayload bs
  if kind ≠ want ∨ (flitSeq bs + 11 + l.ldly) % 2 ^ 28 ≠ s.tick % 2 ^ 28 then s.linkFault n .linkFailure 12 w.wpc
  else match w.act with
    | .recv => s.landLater n w (.data data)
    | .fwd port => s.claim (linkOf port) (s.tick + 9) kind data
    | .rfwd port => (s.landLater n w (.data data)).claim (linkOf port) (s.tick + 9) kind data
    | .radd fc mode => s.landLater n w (.add fc mode data)
    | .sigLand => s.landLater n w (.signal (signedOf 64 (leNat (data.take 8))))
    | _ => s

/-- The number of the preset an FC names (Table 12.7). -/
def fcEntry (fc : Nat) : Nat := ([1, 3, 10, 11, 8, 6][fc]?).getD 1

/-- Each element of a flit added to memory, and the flags (R388). -/
def addFlit (e : Fmt) (mode : Rounding) (old new : List Byte) : List Byte × Flags :=
  let w := containerBits e.tw / 8
  (List.range (256 / w)).foldl (fun acc i =>
    let at_ := fun (xs : List Byte) => leNat ((xs.drop (w * i)).take w)
    let r := laneArith2 .add e mode (at_ old) (at_ new)
    (acc.1 ++ bytesLE w r.1, acc.2 ||| r.2)) ([], 0)

/-- One landing of a link engine (R388, R395, R455). -/
def State.landLink (s : State) (n : Nat) (x : LinkLand) : State :=
  let write := fun (s : State) (bs : List Byte) =>
    (s.writeUnit (bytesToMasked x.addr bs)).unmark ((List.range bs.length).map (x.addr + ·))
  let len := match x.kind with
    | .signal _ => 32
    | _ => 256
  let add := match x.kind with
    | .add .. => some x.addr
    | _ => none
  let r := s.takeBanks n x.wpc x.addr len false add
  let s1 := r.1
  if !r.2 then s1
  else match x.kind with
    | .data bs => write s1 bs
    | .add fc mode bs =>
      match firstByte [x.addr, x.addr + 64, x.addr + 128, x.addr + 192] s.poisoned with
      | some b => s1.linkFault n .softError 0 x.wpc (BitVec.ofNat 64 b)
      | none =>
        let e := fmtOfBits (presetEntry (fcEntry fc))
        let y := addFlit e mode (s1.mem.bytes x.addr 256) bs
        ((write s1 y.1).aluUpdate x.addr (2048 / containerBits e.tw)).updLink n fun l => { l with lflags := l.lflags ||| y.2 }
    | .signal amount => match firstByte [x.addr] s.poisoned with
      | some b => s1.linkFault n .softError 0 x.wpc (BitVec.ofNat 64 b)
      | none => { s1 with
        sync := s1.sync ++ [{ addr := x.addr, arr := true, bytes := amount, due := s.tick, link := true, core := 16 * (n / 3) }] }

/-- The landings due on this tick, in ascending order of master (R284). -/
def State.linkLandings (s : State) : State :=
  (List.range 12).foldl (fun s n =>
    let l := s.fab.link n
    let due := l.lands.filter fun x => decide (x.tick ≤ s.tick)
    if due.isEmpty then s
    else
      let s1 := s.setLink n { l with lands := l.lands.filter fun x => decide (s.tick < x.tick) }
      if l.frozen || s.quiet then s1 else due.foldl (fun s x => s.landLink n x) s1) s

/-! ### Training, time base and guards (R372 to R376) -/

/-- The one-way delay ρ of an exchange: half the round trip less the far end's turnaround, in 1/64 tick (R372). -/
def rhoOf (x : Exchange) : Nat := ((x.arrived - x.sent) - (x.farSent - x.farArrived)) / 2

/-- LINK_TRAINING (R372): D from the measured delay, the larger of the two ends; a link whose D would not lie
in 3 to 4,095 does not train, and none is retrained while its program runs. -/
def execLinkTraining (port : Nat) (x : Exchange) (far : Nat) (s : State) : Step :=
  let n := linkOf port
  let D := max ((rhoOf x + 63) / 64 + 2) far
  if (s.fab.link n).run then .next s
  else if D < 3 ∨ 4095 < D then .next (s.updLink n fun l => { l with up := false, ldly := 0 })
  else .next (s.updLink n fun l => { l with
    ldly := D, up := true, deg := false, degRails := [], fails := [], fill := 8, phase := 0, guard := s.tick
    rho := rhoOf x, locked := false })

/-- The clocks of a link's two ends have moved apart by so many 1/64 ticks since the last flit that told: the phase of a parent port's link,
which the chip's tick follows, or the fill of another's elastic buffer, whole beats of it, moves (R373, R374). The fill it comes to. -/
def Link.wanders (l : Link) (child : Bool) (wander : Int) : Link × Int :=
  let phase := l.phase + wander
  let beats := if child then 0 else phase.tdiv 64
  let fill := (l.fill : Int) + beats
  ({ l with phase := phase - 64 * beats, fill := (min 16 (max 0 fill)).toNat }, fill)

/-- Is a port of the chip the one its tick comes by (R371)? -/
def State.onParent (s : State) (n : Nat) : Bool := !s.fab.root && s.fab.parent == portOf n

/-- The link of a trained port has wandered: a fill of 0 or 16 raises BUFFER, a phase error above half a tick TIME (R373, R374). -/
def State.driftFault (s : State) (n : Nat) (fill : Int) : Option State :=
  let l := s.fab.link n
  if fill ≤ 0 ∨ 16 ≤ fill then some (s.linkFault n .linkFailure 3 (l.atWord s.tick))
  else if s.onParent n && decide (32 < l.phase.natAbs) then some (s.linkFault n .linkFailure 5 (l.atWord s.tick))
  else none

/-- A TIMEBASE flit has come (R367, R371, R373, R375): the stamp is kept for the echo, and a guard interval begins. On the parent port the
first stamp since training gives the chip its tick; later ones set the phase error. An untrained port takes the stamp alone (R372). -/
def State.timebaseArrives (s : State) (n stamp : Nat) (wander : Int) : State :=
  let l := s.fab.link n
  let child := s.onParent n
  if !l.up then s.setLink n { l with stamp := BitVec.ofNat 64 stamp, stampAt := s.tick }
  else if child && !l.locked then
    let s1 := s.setLink n { l with
      locked := true, phase := 0, stamp := BitVec.ofNat 64 stamp, stampAt := stamp + l.ldly, taken := false }
    let eng := s1.fab.eng.map fun (l : Link) => { l with guard := stamp + (s.fab.link n).ldly }
    { s1 with tick := stamp + l.ldly, fab := { s1.fab with eng := eng } }
  else
    let moved := l.wanders child wander
    let l1 := if child then { moved.1 with phase := ((s.tick : Int) - stamp - l.ldly) * 64 + moved.1.phase } else moved.1
    let s1 := s.setLink n { l1 with stamp := BitVec.ofNat 64 stamp, stampAt := s.tick, taken := false }
    (s1.driftFault n moved.2).getD s1

/-- Take-up or the lanyard's phase step of one guard interval: one beat, or 1/64 tick (R373, R376). -/
def Link.adjust (l : Link) (child : Bool) : Link :=
  let l1 := if l.taken then l
    else { l with fill := if 8 < l.fill then l.fill - 1 else if l.fill < 8 then l.fill + 1 else l.fill }
  let step : Int := if l1.phase < 0 then 1 else if 0 < l1.phase then -1 else 0
  { l1 with taken := true, phase := if child && !l.taken then l1.phase + step else l1.phase }

/-- A GUARD flit has come (R376): the buffer's fill has followed the clocks, and is moved toward its centre. -/
def State.guardArrives (s : State) (n : Nat) (wander : Int) : State :=
  let moved := (s.fab.link n).wanders (s.onParent n) wander
  let l := moved.1
  let s1 := s.setLink n l
  if !l.up then s
  else (s1.driftFault n moved.2).getD
    ((s1.setLink n (l.adjust (s.onParent n))).count 12 (portOf n) (if !l.taken && l.fill != 8 then 1 else 0))

/-- A NOTICE has come (R402); one first seen after its own S stops the chip on arrival, which the port's CAUSE shows (R403). -/
def State.noticeArrives (s : State) (port : Nat) (notice : Notice) : State :=
  let fresh := !s.fab.seen.contains (notice.f, notice.link, notice.abort)
  let s1 := s.takeNotice notice (some port) s.tick (s.tick + 9)
  if fresh && decide (notice.s < s.tick) then s1.updLink (linkOf port) fun l => { l with cause := 5 } else s1

/-- A flit's beats are checked on arrival (R368, R369): failing ones count toward degradation, one is rebuilt, and a bad flit raises
FLIT. The state, and the data beats of a good one. -/
def State.receive (s : State) (port : Nat) (f : Flit) : State × Option (List (BitVec 576)) :=
  let n := linkOf port
  let s1 := s.countBeats n (flitFailing f)
  if 12 ≤ port then (s, none)
  else match flitRebuilt f with
  | none =>
    let words := (s1.fab.link n).timed.filter (·.takes s.tick)
    ((s1.linkFault n .linkFailure 1 ((words.head?.map (·.wpc)).getD ((s1.fab.link n).atWord s.tick))).updLink n
      fun l => { l with tookAt := s.tick + 1 }, none)
  | some bs => (s1.count 11 port (flitFailing f).length, some bs)

/-- A good flit of any KIND but MGMT acts on its arrival (Table 12.3); `wander` is how far the clocks have moved apart since the last
flit that told, in 1/64 tick. -/
def State.flitActs (s : State) (port : Nat) (bs : List (BitVec 576)) (wander : Int) : State :=
  let n := linkOf port
  let l := s.fab.link n
  let data := flitPayload bs
  match flitKind bs with
  | 1 | 2 =>
    if l.frozen || s.quiet then s
    else match l.timed.filter (·.takes s.tick) with
      | [] => s.linkFault n .linkFailure 11 (l.atWord s.tick)
      | w :: _ => ((s.takeFlit n w bs).count 10 port 1).updLink n fun l => { l with tookAt := s.tick + 1 }
  | 3 => s.timebaseArrives n (leNat (data.take 8)) wander
  | 4 => s.guardArrives n wander
  | 5 => s.noticeArrives port (noticeOf data)
  | _ => s

/-- A flit arrives on a port. -/
def State.flitArrives (s : State) (port : Nat) (f : Flit) (wander : Int) : State :=
  match s.receive port f with
  | (s1, some bs) => s1.flitActs port bs wander
  | (s1, none) => s1

def execDataFlit (port : Nat) (flit : Flit) (s : State) : Step := .next (s.flitArrives port flit 0)
def execSignalFlit (port : Nat) (flit : Flit) (s : State) : Step := .next (s.flitArrives port flit 0)
def execIdleFlit (port : Nat) (flit : Flit) (s : State) : Step := .next (s.flitArrives port flit 0)
/-- TIMEBASE_FLIT (R373). -/
def execTimebaseFlit (port : Nat) (beats : List (BitVec 576)) (parity : BitVec 576) (wander : Int) (s : State) : Step :=
  .next (s.flitArrives port { beats := beats, parity := parity } wander)
/-- GUARD_FLIT (R376). -/
def execGuardFlit (port : Nat) (guard : GuardFlit) (s : State) : Step := .next (s.flitArrives port guard.flit guard.wander)
/-- NOTICE_FLIT (R402, R403). -/
def execNoticeFlit (port : Nat) (flit : Flit) (s : State) : Step := .next (s.flitArrives port flit 0)

/-- BUFFER_LIMIT (R374): the fill that the phase wander has brought the elastic buffer of a trained link to; empty or full it raises
BUFFER. -/
def execBufferLimit (reached : BufferFill) (s : State) : Step :=
  let n := linkOf reached.port
  let l := s.fab.link n
  let s1 := s.setLink n { l with fill := min 16 reached.fill }
  .next (if l.up then (s1.driftFault n reached.fill).getD s1 else s)

/-- LOSS_OF_LANE_LOCK (R398): cause SIGNAL on a trained link, which is then untrained (Table 12.5). -/
def execLossOfLaneLock (port : Nat) (s : State) : Step :=
  let n := linkOf port
  .next (if (s.fab.link n).up then
      (s.linkFault n .linkFailure 4 ((s.fab.link n).atWord s.tick)).updLink n fun l => { l with up := false, ldly := 0 } else s)

/-- Does a running program's guard gap exceed 2^20 ticks (R375)? -/
def Link.gapOver (l : Link) (tick : Nat) : Bool :=
  l.run && !l.frozen && decide (max l.guard l.origin + 2 ^ 20 < tick)

/-- GUARD_GAP (R375). -/
def execGuardGap (port : Nat) (s : State) : Step :=
  let n := linkOf port
  .next (if (s.fab.link n).gapOver s.tick then s.linkFault n .linkFailure 14 ((s.fab.link n).atWord s.tick) else s)

/-- Is an automatic guard due on an engine without a running program (R375)? -/
def Link.guardDue (l : Link) (tick : Nat) : Bool := l.up && !l.run && decide (l.guard + 2 ^ 19 ≤ tick)

/-- AUTOMATIC_GUARD (R375): sixteen flits, the first a TIMEBASE. -/
def execAutomaticGuard (port : Nat) (s : State) : Step :=
  let n := linkOf port
  let l := s.fab.link n
  if !l.guardDue s.tick then .next s
  else
    let s1 := s.claim n (s.tick + 11) 3 (l.timebase (s.tick + 11))
    let s2 := (List.range 15).foldl (fun s j => s.claim n (s.tick + 12 + j) 4 (List.replicate 256 0)) s1
    .next (s2.updLink n fun l => { l with guard := s.tick })

/-! ### Programs and splices (R381, R382, R402) -/

/-- Is an engine's program to start on this tick? -/
def Link.startDue (l : Link) (tick : Nat) : Bool :=
  decide (0 < l.len) && !l.started && !l.frozen && decide (l.origin ≤ tick + 64)

/-- PROGRAM_START (R381): at O − 64 the engine starts decoding, its registers zero, B and C at O. -/
def execProgramStart (port : Nat) (s : State) : Step :=
  let n := linkOf port
  let l := s.fab.link n
  .next (if !l.startDue s.tick then s
    else s.setLink n { l with
      started := true, run := true, a := Vector.replicate 8 0, b := BitVec.ofNat 64 l.origin
      c := BitVec.ofNat 64 l.origin, stack := [], latch := {}, lhor := 0, timed := [], lastExec := 0, pc := 0
      decAt := s.tick })

/-- PROGRAM_DEADLINE (R382). -/
def execProgramDeadline (port : Nat) (s : State) : Step :=
  let n := linkOf port
  let l := s.fab.link n
  .next (if l.run && decide (l.deadline ≤ s.tick) then s.linkFault n .waitDeadline 0 (l.atWord s.tick) else s)

/-- The notice of lowest F, then lowest link ID (R404). -/
def firstNotice (xs : List Notice) : Option Notice :=
  xs.foldl (fun m x => match m with
    | some y => if x.f < y.f ∨ (x.f = y.f ∧ x.link < y.link) then some x else some y
    | none => some x) none

/-- The notice that takes effect on this tick: an abort at its own S, else the splice in force (R404). -/
def State.noticeDue (s : State) : Option Notice :=
  let all := s.fab.notices.map (·.notice)
  match firstNotice (all.filter fun x => x.abort && decide (x.s ≤ s.tick)) with
  | some x => some x
  | none => (firstNotice (all.filter (!·.abort))).bind fun x => if x.s ≤ s.tick then some x else none

/-- The fault of a code (Table 11.1). -/
def faultOfCode (n : Nat) : FaultCode :=
  ([.illegalOpcode, .reservedField, .engineMisplaced, .formatIllegal, .shapeMismatch, .shapeRange, .windowViolation,
    .pageFault, .alignFault, .waitDeadline, .boundTrap, .poison, .privilege, .gatherRange, .softError, .watchpoint,
    .powerLimit, .thermal, .zoneDry, .linkFailure, .slotEmpty, .trapInsn, .launchExceeds, .xprefix,
    .flowDenied].find? fun (c : FaultCode) => c.toNat == n).getD .linkFailure

/-- The checkpoint of the highest tick at or before F (R402 4): its resume node. -/
def Fabric.checkpoint (x : Fabric) (f : Nat) : Option Nat :=
  ((x.ckpts.filter fun k => decide (k.2.1 ≤ f)).foldl (fun m k => match m with
    | some y => if y.2.1 ≤ k.2.1 then some k else some y
    | none => some k) (none : Option (Nat × Nat × Word))).map (·.2.2.toNat)

/-- The detour set to switch to (Table 12.11, R402 5). -/
def State.detour (s : State) (link : Nat) : Option Nat :=
  ((List.range (s.fab.pod 176 16)).map fun i => s.mem.nat (s.fab.pod 128 48 + 8 * i) 8).findSome? fun e =>
    let f := fun lo len => e / 2 ^ lo % 2 ^ len
    if f 33 31 = 0 ∧ f 32 1 = 1 ∧ f 0 16 = link ∧ f 16 8 = s.fab.dset ∧ f 24 8 ≠ 0 then some (f 24 8) else none

/-- The kernel of the pod aborts on this chip, for a NOTICE; a pod launch that has been announced and not loaded ends with it (R475). -/
def State.abortPod (s : State) (x : Notice) (code : FaultCode) : State :=
  let s1 := s.haltEngines
  let fab := { s1.fab with notices := [], splice := none, cont := none, past := none, ready := [], lastS := x.s, lastF := x.f }
  let s2 : State := { s1 with fab := fab }
  match s.fab.podJob with
  | some n => s2.abort n code none
  | none => (s.cp.jobs.filter fun j => j.announced && j.stage == .held).foldl (fun s j => s.endEntry j.n code.toNat) s2

/-- Every task of the launch stops with nothing saved; its flow and power stay reserved (R402 3). -/
def State.stopLaunch (s : State) (n : Nat) : State :=
  let waiting := s.sec.queue.filter fun x => match x with
    | .word c i => (s.slot c i).launch != some n
    | .spdm _ => true
  let s1 : State := { s with
    cores := s.cores.map fun k => k.abortLaunch n
    sec := { s.sec with queue := waiting } }
  s1.updJob n fun j => { j with saved := true, preq := [], gone := [], rreq := false, back := [] }

/-- DSET := TO, the lanyard parent of that set, and its link programs with origin R + 640 (R402 5, 6). The chip's tick goes on
by the new parent. -/
def State.switchSet (s : State) (j : Job) (into R : Nat) : State :=
  let p1 := rset s.fab.podcfg 96 8 into
  let p2 := match Config.detourParent into with
    | some p => rset p1 25 4 p.toNat
    | none => p1
  let kept := s.fab.eng.toList.any (·.locked)
  let s1 : State := { s with fab := { s.fab with podcfg := p2 } }
  let s2 := s1.updLink (linkOf s1.fab.parent) fun l => { l with locked := l.locked || kept }
  s2.loadLinks ((s2.linkPrograms j into).map fun p => (p.1, p.2.2)) (R + 640) (rfield j.record 576 64)

/-- The pod launch that a splice rolls back: the one in force, else the last one, whose part on this chip is over (R402). -/
def State.spliced (s : State) : Option Job :=
  match s.fab.podJob.bind s.job with
  | some j => some j
  | none => s.fab.past

/-- Is a queue free for the graph that rolls a launch back: its entry is the launch's own, or it has none in process? -/
def State.rollable (s : State) (j : Job) : Bool :=
  match s.job j.n with
  | none => true
  | some y => s.fab.podJob == some j.n || (y.graph.isSome && j.graph.isSome && y.hqAt == j.hqAt)

/-- SPLICE_STOP (R402, R404): on tick S, or at once where it has passed, every chip stops the pod kernel; it selects a
checkpoint and switches the detour set, or aborts. The other notices of the faults before it change nothing more (R404). -/
def execSpliceStop (s : State) : Step :=
  match s.noticeDue with
  | none => .next s
  | some x =>
    if x.abort then .next (s.abortPod x (faultOfCode x.code))
    else match s.spliced with
      | none => .next { s with fab := { s.fab with notices := [], lastS := x.s, lastF := x.f } }
      | some j =>
        match s.fab.checkpoint x.f, s.detour x.link with
        | some node, some into =>
          let R := x.s + s.fab.pod 64 32
          let s1 := s.haltEngines
          let s2 := (if (s.job j.n).isSome && s.rollable j then s1.stopLaunch j.n else s1).switchSet j into R
          .next { s2 with fab := { s2.fab with notices := [], splice := some (R, node), lastS := x.s, lastF := x.f } }
        | _, _ => .next (s.abortPod x .linkFailure)

/-- SPLICE_RESUME (R402 7): on tick R the checkpoint's graph node starts, in place of the launch that was stopped, or of the rest of its
graph; a chip on which the launch was over waits for an entry that has come after it. Checkpoints stand until the next pod launch. -/
def execSpliceResume (s : State) : Step :=
  match s.fab.splice with
  | none => .next s
  | some (R, node) =>
    if s.tick < R || !((s.spliced.map s.rollable).getD true) then .next s
    else
      let s1 : State := { s with fab := { s.fab with
        splice := none, podJob := none, past := none, pst := none, ready := [], cont := s.spliced.map fun j => (R, j.n) } }
      match s.spliced with
      | none => .next s1
      | some j =>
        let comp := match j.graph with
          | some g => g.comp
          | none => BitVec.ofNat 64 (rfield j.record 960 64)
        let job : Job := { n := j.n, ctx := j.ctx, record := 0, prio := j.prio, vis := R, stage := .running, hqAt := j.hqAt
                           graph := some { node := node, doing := .starting R, comp := comp } }
        let s2 := s1.forgetLaunch j.n
        .next { s2 with cp := { s2.cp with jobs := s2.cp.jobs.filter (·.n != j.n) ++ [job] } }

/-- The dies that a die-to-die link joins: the four pairs that share an edge, two to a row. -/
def diePair (pair : Nat) : Option (Nat × Nat) := [(0, 1), (2, 3), (0, 2), (1, 3)][pair]?

/-- Cause D2D (R370, R398): the engines of both dies show it, and every kernel of the pod aborts. No rule says whose status it is:
DESIGN CHOICE (log 27). -/
def State.dieFault (s : State) (a b : Nat) : State :=
  if s.quiet then s
  else
    let eng := s.fab.eng.mapIdx fun n (l : Link) =>
      if n / 3 == a || n / 3 == b then
        { l with code := FaultCode.linkFailure.toNat, cause := 6, wpc := l.atWord s.tick, ftick := s.tick }
      else l
    ({ s with fab := { s.fab with eng := eng } } : State).startNotice 0xFFFF true FaultCode.linkFailure.toNat 6

/-- DIE_TO_DIE_BEAT (R370): the beats of one flit on the link of a die pair, checked and rebuilt as R368 says. A flit that is bad, or
a second degraded rail of its pair (counted per pair: DESIGN CHOICE, log 27), raises D2D. -/
def execDieToDieBeat (pair : Nat) (flit : Flit) (s : State) : Step :=
  match diePair pair with
  | none => .next s
  | some (a, b) =>
    let rails := flitFailing flit
    let recent := s.fab.d2dFails.filter (fun x => decide (s.tick < x.2.2 + 2 ^ 20)) ++ rails.map fun k => (pair, k, s.tick)
    let worn := rails.filter fun k => !s.fab.d2dDeg.contains (pair, k)
      && decide (16 ≤ recent.countP fun x => x.1 == pair && x.2.1 == k)
    let deg := s.fab.d2dDeg ++ worn.map (pair, ·)
    let s1 : State := { s with fab := { s.fab with d2dFails := recent, d2dDeg := deg } }
    .next (if (flitRebuilt flit).isNone || (!worn.isEmpty && decide (2 ≤ deg.countP (·.1 == pair))) then s1.dieFault a b else s1)

end Sys2Proof.Machine
end

