-- ==== Sys2Proof/Machine/Cooling.lean ====
section
/-!
DEFINITION. Cooling and power (13): commands on zones, samples, traps and evacuation, quarantine, flow requests and grants,
thermal limits and power envelopes.
-/
namespace Sys2Proof.Machine

/-! ### Flow requests and grants (R268, R413 to R415) -/

/-- Do the zone's demand and the sum of RESV stay within MAXF and 256 at every tick of a grant's interval? Demands rise only where a
grant starts. -/
def State.flowFits (s : State) (z : Nat) (extra : Grant) : Bool :=
  let starts := (s.cool.grants.map (·.start)).filter fun t => decide (extra.start < t) && extra.inForce t
  let x : Asked := { grants := [extra] }
  (extra.start :: starts).all fun t => decide (s.demandAt z t x ≤ (s.zone z).maxf) && decide (s.sumAt t x (fun _ => false) ≤ 256)

/-- The decision of Table 13.5: STATUS, UNITS and the grant to record. A full list of grants answers after the rows that record none, which
R415 does not rank: DESIGN CHOICE (log 27). -/
def State.flowDecision (s : State) (core : Nat) (o : Op) : Nat × Nat × Option Grant :=
  let u := (o.x1.extractLsb' 0 8).toNat
  let dur := (o.x1.extractLsb' 8 32).toNat
  let S := o.x2.toNat
  let z := zoneOf core
  let mine := fun (g : Grant) => g.inForce s.tick && some g.launch == o.launch && g.core == core && g.lidx == o.lidx
  let flow := ((o.launch.bind s.job).map (·.flow)).getD 0
  let now := s.cool.grants.foldl (fun m g => if mine g then max m g.units else m) flow
  let grant := fun (n : Nat) => ({
    id := s.cool.nextId, core := core, launch := o.launch.getD 0, lidx := o.lidx, units := n, start := S
    stop := if dur = 0 then none else some (S + 1024 * dur), active := false } : Grant)
  if S < o.resume + 2 ^ 20 then (3, 0, none)
  else if u < (s.zone z).minf ∨ (s.zone z).maxf < u then (4, 0, none)
  else if u ≤ now then (0, u, none)
  else if 256 ≤ s.cool.grants.length then (2, 0, none)
  else if s.flowFits z (grant u) then (0, u, some (grant u))
  else if o.dmode then (2, 0, none)
  else match ((List.range (u - now - 1)).map (u - 1 - ·)).find? fun n => s.flowFits z (grant n) with
    | some n => (1, n, some (grant n))
    | none => (2, 0, none)

/-- A decided request, its status and units in `seen`: the reply record is written whole and its bit set, once the core is not
clock-stopped (R39); a denial with FAIL, or in D-mode, stops the operation. -/
def State.flowReply (s : State) (core : Nat) (o : Op) : State :=
  if (s.core core).stopped then s.setOp core o
  else
    let status := o.seen.head?.getD 0
    let x := s.keepOlds core o ((List.range 16).map (o.addr.toNat + ·))
    let reply := status + 256 * (o.seen[1]?.getD 0) + 2 ^ 64
    let s1 := x.1.writeLocal core (bytesToMasked o.addr.toNat (bytesLE 16 reply))
    if 2 ≤ status ∧ (o.x1.getLsbD 40 || o.dmode) then s1.stopOp core { x.2 with finished := true } .flowDenied 0
    else s1.endOp core x.2

/-- Does a FLOWREQ reach the controller on this tick: at most 4,096 ticks after its fork, whatever accesses of its task are outstanding
(R414)? -/
def State.flowArrives (s : State) (o : Op) : Bool :=
  o.kind == .flowreq && o.seen.isEmpty && o.pst == .run && !o.finished && decide (min o.delay (o.resume + 4096) ≤ s.tick)
    && decide (o.resume < s.tick)

/-- FLOWREQ_DECISION (R415, R268): the controller decides, and when the operation may act the reply is written. -/
def execFlowreqDecision (core entry : Nat) (s : State) : Step :=
  match (s.core core).opAt entry with
  | none => .next s
  | some o =>
    if o.kind == .flowreq && !o.seen.isEmpty && s.opReady core o then .next (s.flowReply core o)
    else if !s.flowArrives o then .next s
    else
      let r := s.flowDecision core o
      let grants := match r.2.2 with | some g => s.cool.grants ++ [g] | none => s.cool.grants
      let s1 : State := { s with cool := { s.cool with
        grants := grants, nextId := s.cool.nextId + if r.2.2.isSome then 1 else 0 } }
      let o1 := { o with seen := [r.1, r.2.1] }
      .next (if s.opReady core o then s1.flowReply core o1 else s1.setOp core o1)

/-- GRANT_START (R415). -/
def execGrantStart (id : Nat) (s : State) : Step :=
  let go := fun (g : Grant) => if g.id == id && decide (g.start ≤ s.tick) then { g with active := true } else g
  .next { s with cool := { s.cool with grants := s.cool.grants.map go } }

/-- GRANT_END (R415): on its end tick. A task's retirement ends its grants as well. -/
def execGrantEnd (id : Nat) (s : State) : Step :=
  let beyond := fun (g : Grant) => g.id == id && (g.stop.map fun e => decide (e ≤ s.tick)).getD false
  .next { s with cool := { s.cool with grants := s.cool.grants.filter fun g => !beyond g } }

/-! ### Launches that end (R419, R421, R423, R426) -/

/-- Entries whose tasks run or are queued. -/
def State.runningJobs (s : State) : List Job := s.cp.jobs.filter fun j => j.stage == .running && !j.cores.isEmpty

/-- Abort every running launch a test selects. -/
def State.abortWhere (s : State) (sel : Job → Bool) (code : FaultCode) : State :=
  (s.runningJobs.filter sel).foldl (fun s j => s.abort j.n code none) s

/-- Tasks of a launch on a core, and those queued or listed for it. -/
def State.tasksOn (s : State) (j : Job) (c : Nat) : List Nat :=
  let k := s.core c
  let slots := (k.slots.toList.filter fun t => t.st != .empty && t.launch == some j.n).map (·.lidx)
  let queued := (k.lq.filter fun e => e.1 == j.n).map fun e => e.2.2.1
  let listed := ((j.lists.lookup c).getD []).map j.lidxOf
  slots ++ queued ++ listed

/-- A core's tasks are discarded, nothing saved (R421). -/
def Core.quarantined (k : Core) : Core :=
  { k with slots := Vector.replicate 4 Slot.init, hslot := { Slot.init with lvl := 1 }, lq := [], ops := [], mats := []
           held := [], formats := [] }

/-- What a quarantine does to one launch: it ends, or its tasks on the core run again on another, where it has one (R421). The
places of a static placement stay as they are (Table 10.5). -/
def State.quarantineJob (s : State) (c : Nat) (j : Job) : State :=
  let ts := s.tasksOn j c
  let others := j.cores.filter (· != c)
  if !ts.isEmpty && (j.dmode || ts.any j.ticketed.contains || others.isEmpty) then s.abort j.n .zoneDry none
  else s.updJob j.n fun j => { j with
    again := j.again ++ ts, cores := if j.dmode && j.trace == 0 then j.cores else others
    lists := j.lists.filter (·.1 != c), mask := j.mask &&& ~~~(1#64 <<< c) }

/-- A zone enters STATE 5 (R421): a core's tasks are discarded, and grants in its zone end. -/
def State.quarantine (s : State) (z : Nat) : State :=
  match coreOf z with
  | none => s.abortWhere (fun _ => true) .zoneDry
  | some c =>
    let s1 := ((s.cp.jobs.filter fun j => j.stage == .running && j.cores.contains c).foldl (fun s j => s.quarantineJob c j)) s
    let waiting := s1.sec.queue.filter fun x => match x with
      | .word x _ => x != c
      | .spdm _ => true
    { s1 with
      sec := { s1.sec with queue := waiting }
      cool := { s1.cool with grants := s1.cool.grants.filter fun (x : Grant) => x.core != c } }.updCore c Core.quarantined

/-! ### Traps and evacuation (R412, R416 to R418) -/

/-- The CP reports to the manager through its management queue: the model's own codes. -/
def State.tellManager (s : State) (code unit : Nat) : State := s.emit (.report code unit)

/-- A zone traps on this tick (R416); a chip that runs a pod launch aborts it (R419). -/
def State.trapZone (s : State) (z : Nat) (cause : Bool) : State :=
  let s1 := s.updZone z fun y => { y with
    state := 3, cause := cause, ttick := s.tick, phase := 1, until_ := s.refTick + 16, bad := false }
  let s2 := s1.tellManager 0x30 z
  if s.fab.podJob.isSome then s2.startNotice 0xFFFF true FaultCode.zoneDry.toNat 0 else s2

/-- An attempt begins: valve closed, vent open (Table 13.7). -/
def Zone.attempt (y : Zone) (tick : Nat) : Zone :=
  { y with state := 4, att := y.att + 1, vpos := 0, phase := 2, until_ := tick + 6250000 }

/-- Every master of a zone stops (R417); in an uncore zone D-mode launches end (R419). -/
def State.stopZone (s : State) (z : Nat) : State :=
  let s1 := s.updZone z fun y => { y with halted := true }
  match coreOf z with
  | some c => s1.stopCore c fun k => { k with coolStop := true }
  | none => s1.abortWhere (·.dmode) .zoneDry

/-- The masters of a zone run again. -/
def State.releaseZone (s : State) (z : Nat) : State :=
  let s1 := s.updZone z fun y => { y with halted := false }
  match coreOf z with
  | some c => s1.updCore c fun k => { k with coolStop := false }
  | none => s1

/-- Has a phase of a zone ended by this tick? -/
def State.phaseOver (s : State) (z n : Nat) : Bool := (s.zone z).phase == n && decide ((s.zone z).until_ ≤ s.refTick)

/-- ZONE_CLOCK_STOP (R417, R418): at T + 16 the masters stop and the first attempt begins; after a failed one the next. -/
def execZoneClockStop (zone : Nat) (s : State) : Step :=
  .next (if s.phaseOver zone 1 then
      (s.stopZone zone).updZone zone fun y => { y with att := 0 }.attempt s.refTick
    else if s.phaseOver zone 8 then s.updZone zone fun y => y.attempt s.refTick
    else s)

/-- PURGE_END (R418). -/
def execPurgeEnd (zone : Nat) (s : State) : Step :=
  .next (if s.phaseOver zone 2 then s.updZone zone fun y => { y with phase := 3, until_ := s.refTick + 25000000 } else s)

/-- PULSES_END (R418). -/
def execPulsesEnd (zone : Nat) (s : State) : Step :=
  .next (if s.phaseOver zone 3 then
      s.updZone zone fun y => { y with phase := 4, vpos := 15, until_ := s.refTick + 25000000 } else s)

/-- RE_PRIME_END (R418): verification lasts 12,500,000 ticks, and its end acts on the tick after. -/
def execRePrimeEnd (zone : Nat) (s : State) : Step :=
  .next (if s.phaseOver zone 4 then s.updZone zone fun y => { y with phase := 5, until_ := s.refTick + 12500001 } else s)

/-- Has a zone in recovery verified, with room for its reservation? It keeps STATE 4 while the sum of RESV has none (R409). -/
def State.verified (s : State) (z : Nat) : Bool := s.phaseOver z 5 && s.roomFor z

/-- A zone flows: STATE 2, its valve at a level the controller chooses. -/
def State.zoneFlows (s : State) (z : Nat) : State :=
  let w := s.fresh
  w.2.updZone z fun y => { y with state := 2, att := 0, phase := 0, bad := false, vpos := (w.1.extractLsb' 0 4).toNat }

/-- VERIFY_END (R418 7). -/
def execVerifyEnd (zone : Nat) (s : State) : Step :=
  .next (if s.verified zone then ((s.zoneFlows zone).releaseZone zone).tellManager 0x31 zone else s)

/-- HELD_LANDING (R417): multicast landings held while the core stood are applied once it has run their ticks. -/
def execHeldLanding (core : Nat) (s : State) : Step :=
  let k := s.core core
  if k.stopped then .next s
  else
    let due := k.held.filter fun x => decide (x.1 ≤ k.cyc)
    let s1 := s.updCore core fun k => { k with held := k.held.filter fun x => decide (k.cyc < x.1) }
    .next (due.foldl (fun s x => s.storeSeen core (fun _ _ => true) x.2) s1)

/-- PRIME (R412): command 1 in STATE 0 with coolant: the valve at 15 for 20 ms. -/
def execPrime (zone : Nat) (s : State) : Step :=
  .next (if zone < 80 ∧ (s.zone zone).state = 0 ∧ s.cool.qtot ≠ 0 then
      s.updZone zone fun y => { y with state := 1, vpos := 15, phase := 6, until_ := s.refTick + 25000000, bad := false }
    else s)

/-- PRIME_VERIFY (R412): priming is over and verification begins, or verification is over and the zone flows, once the sum of RESV has room
for it (R409). -/
def execPrimeVerify (zone : Nat) (s : State) : Step :=
  .next (if s.phaseOver zone 6 then s.updZone zone fun y => { y with phase := 7, until_ := s.refTick + 12500001 }
    else if s.phaseOver zone 7 && s.roomFor zone then s.zoneFlows zone
    else s)

/-- CLOSE (R412): command 2 in STATE 2 with demand 0. -/
def execClose (zone : Nat) (s : State) : Step :=
  .next (if zone < 80 ∧ (s.zone zone).state = 2 ∧ s.demand zone = 0 then
      s.updZone zone fun y => { y with state := 0, vpos := 0, bad := false } else s)

/-- CLEAR_FAILED (R412): command 3 in STATE 5; the quarantine and the clock stop are lifted (R421). -/
def execClearFailed (zone : Nat) (s : State) : Step :=
  .next (if zone < 80 ∧ (s.zone zone).state = 5 then
      (s.updZone zone fun y => { y with state := 0, att := 0, phase := 0 }).releaseZone zone else s)

/-- FORCE_EVACUATION (R412): command 4 in STATE 2. -/
def execForceEvacuation (zone : Nat) (s : State) : Step :=
  .next (if zone < 80 ∧ (s.zone zone).state = 2 then s.trapZone zone false else s)

/-! ### Samples (R408, R416, R418, R423 to R426) -/

/-- Does a reading fail verification, and does it meet a trap condition with the valve where it stands? -/
def Zone.dryNow (y : Zone) (r : ZoneReading) : Bool := r.dry || decide (r.flow < 16 * y.minf)
def Zone.trapNow (y : Zone) (r : ZoneReading) : Bool := r.dry || (decide (r.flow < 16 * y.minf) && y.vpos == 15)

/-- A failed verification (R418). -/
def State.attemptFails (s : State) (z : Nat) : State :=
  if (s.zone z).att < 3 then s.updZone z fun y => { y with phase := 8, until_ := s.refTick + 1 }
  else ((s.updZone z fun y => { y with state := 5, vpos := 0, phase := 0 }).quarantine z).tellManager 0x31 z

/-- The sample of one zone: the measured values, the valve, and what the flow calls for. -/
def State.sampleZone (s : State) (z : Nat) (r : ZoneReading) : State :=
  let y := s.zone z
  let trap := y.trapNow r
  let s1 := s.updZone z fun y => { y with flowm := r.flow % 2 ^ 16, tmax := r.temp % 2 ^ 16, bad := trap }
  if (y.state = 1 ∨ y.state = 2) ∧ y.bad ∧ trap then s1.trapZone z (!r.dry)
  else if y.phase = 7 ∧ y.dryNow r then s1.trapZone z (!r.dry)
  else if y.phase = 5 ∧ y.dryNow r then s1.attemptFails z
  else if y.state = 2 then
    let w := s1.fresh
    w.2.updZone z fun y => { y with vpos := (w.1.extractLsb' 0 4).toNat }
  else s1

/-- Has a core a running launch of a mode? -/
def State.coreMode (s : State) (c : Nat) (dmode : Bool) : Bool :=
  s.runningJobs.any fun j => j.cores.contains c && j.dmode == dmode

/-- Thermal limits of one zone (Table 13.9). -/
def State.thermal (s : State) (z : Nat) : State :=
  let t := (s.zone z).tmax
  let s1 := if s.cool.twarn < t then s.tellManager 0x32 z else s
  match coreOf z with
  | none => if s.cool.tlim < t then s1.abortWhere (fun _ => true) .thermal else s1
  | some c =>
    let s2 := if s.cool.tlim < t then s1.abortWhere (fun j => j.dmode && j.cores.contains c) .thermal else s1
    if 1760 < t ∧ s2.coreMode c false then s2.stopCore c fun k => { k with tripStop := true }
    else if t + 80 < s.cool.tlim then s2.updCore c fun k => { k with tripStop := false }
    else s2

/-- Cores of a launch on a die. -/
def Job.onDie (j : Job) (d : Nat) : Nat := j.cores.countP fun c => c / 16 == d

/-- The power of a launch at a sample, in 1/720,720 watt (R425). -/
def State.launchPower (s : State) (j : Job) (watts uncore : List Nat) : Nat :=
  let own := (j.cores.map fun c => (watts[c]?).getD 0).foldl (· + ·) 0
  let share := (List.range 4).map fun d =>
    let all := (s.runningJobs.map fun x => x.onDie d).foldl (· + ·) 0
    720720 * (uncore[d]?).getD 0 * j.onDie d / max all 1
  720720 * own + share.foldl (· + ·) 0

/-- Is a launch over its envelope over the window (R426)? -/
def State.overEnvelope (s : State) (j : Job) : Bool :=
  decide (720720 * s.envelope j * j.watts.length < j.watts.foldl (· + ·) 0)

/-- The throttle of one core after a sample: a level up for each cause, else one down (R423, R426). -/
def State.throttleCore (s : State) (c : Nat) (overPackage : Bool) : State :=
  if !s.coreMode c false then s
  else
    let hot := decide (s.cool.twarn < (s.zone (zoneOf c)).tmax)
    let beyond := s.runningJobs.any fun j => !j.dmode && j.cores.contains c && s.overEnvelope j
    let up := (if hot then 1 else 0) + (if beyond then 1 else 0) + (if overPackage then 1 else 0)
    s.updCore c fun k => { k with
      throttle := if up = 0 then (if k.throttle = 0 then 0 else k.throttle - 1)
                  else BitVec.ofNat 3 (min 7 (k.throttle.toNat + up)) }

/-- Is a sample taken on this tick: each multiple of 12,500 ticks, of reference ticks in a stop that holds the pod tick
(R408, R437)? -/
def State.sampleDue (s : State) : Bool := (s.tick + if s.gated then s.dbg.ref else 0) % 12500 == 0

/-- What a sample of every zone does (R408, R416, R418, R423 to R426); the sensors' and the rails' readings come from outside, and a sensor
of which none has come shows zero. -/
def State.coolingSample (s : State) (zones : List ZoneReading) (watts : List Nat) (uncore : List Nat) : State :=
  let s1 := (List.range 80).foldl (fun s z => s.sampleZone z (zones[z]?.getD { dry := false, flow := 0, temp := 0 })) s
  let total := (watts.take 64).foldl (· + ·) 0 + (uncore.take 4).foldl (· + ·) 0
  let history := (total :: s1.cool.history).take 100
  let cool := { s1.cool with
    history := history, pnow := history.foldl (· + ·) 0 / 100, ecnt := s1.cool.ecnt + BitVec.ofNat 64 (10 * total) }
  let jobs := s1.cp.jobs.map fun j =>
    if j.stage == .running && !j.cores.isEmpty then { j with watts := (s1.launchPower j watts uncore :: j.watts).take 100 }
    else j
  let s2 : State := { s1 with cool := cool, cp := { s1.cp with jobs := jobs } }
  let s3 := (List.range 80).foldl (fun s z => s.thermal z) s2
  let s4 := s3.abortWhere (fun j => j.dmode && s3.overEnvelope j) .powerLimit
  let high := decide (s4.cool.plim < s4.cool.pnow)
  let full := (List.range 64).all fun c => !s4.coreMode c false || (s4.core c).throttle == 7
  let s5 := (List.range 64).foldl (fun s c => s.throttleCore c high) s4
  let beyond := if high && full then s5.cool.beyond + 1 else 0
  let s6 : State := { s5 with cool := { s5.cool with beyond := beyond } }
  if beyond < 100 then s6
  else if s6.runningJobs.any (·.dmode) then s6.abortWhere (·.dmode) .powerLimit
  else s6.tellManager 0x33 0

end Sys2Proof.Machine
end

