-- ==== Sys2Proof/Machine/Debug.lean ====
section
/-!
DEFINITION. Debug and trace (14): the trace block's registers, the issue-slot window, counters, monitors, stops on a
named tick, management flits, the debug port; and which agents act on a tick.
-/
namespace Sys2Proof.Machine

def State.updDbg (s : State) (f : Debug → Debug) : State := { s with dbg := f s.dbg }

/-! ### Agents of a tick (R2, R39, R417, R425, R437) -/

/-- Does a stop named for this tick take effect on it? -/
def State.stopsNow (s : State) : Bool := s.dbg.armed && decide (s.dbg.stick.toNat ≤ s.tick)

/-- Do the masters of a zone stop, or stand, on this tick? -/
def State.zoneStops (s : State) (z : Nat) : Bool :=
  (s.zone z).halted || ((s.zone z).phase == 1 && decide ((s.zone z).until_ ≤ s.refTick))

/-- A throttled core of E-mode launches has a cycle on 8 − k of every 8 ticks (R425). -/
def State.throttled (s : State) (c : Nat) : Bool :=
  let k := (s.core c).throttle.toNat
  k != 0 && !s.coreMode c true && decide (8 - k ≤ (s.tick % 8 + Config.throttlePhase c (s.tick / 8)) % 8)

/-- Has a core a cycle on this tick? A zone that has verified releases its clock as the tick begins (R418). -/
def State.coreRuns (s : State) (c : Nat) : Bool :=
  let k := s.core c
  !(k.debugStop || k.tripStop || (k.coolStop && !s.verified (zoneOf c))) && (!s.zoneStops (zoneOf c) || s.verified (zoneOf c)) && !(s.stopsNow && s.dbg.scope == 0 && s.dbg.cmask.getLsbD c)
    && !s.throttled c

/-- Does a task stand frozen on the core? -/
def Core.anyFrozen (k : Core) : Bool :=
  if k.hslot.st == .active then k.hslot.freeze.isSome
  else k.slots.toList.any fun t => t.st == .active && t.freeze.isSome

/-- The agents of a tick: the cores with a cycle, each on its next one, and the link engines of dies whose links run; of a gated package
the link PHYs alone, behind the engines (R437). -/
def State.startCycles (s : State) : State :=
  let links := ((List.range 12).filter fun n => !s.zoneStops (20 * (n / 3) + 18)).map (64 + ·)
  if s.gated || (s.stopsNow && s.dbg.scope != 0) then { s with todo := links }
  else
    let cores := (List.range 64).filter s.coreRuns
    { s with
      cores := s.cores.mapIdx fun c k =>
        if cores.contains c then { k.takeHeld with cyc := k.cyc + 1, issued := 0, cold := k.anyFrozen }
        else { k with issued := 0, cold := k.anyFrozen }
      todo := cores ++ links }

/-! ### Monitors and counters (R434, R435) -/

/-- One sample x of a monitor. -/
def monitorTakes (m : Monitor) (x : Int) : Monitor :=
  let lo := (m.w1.setWidth 32).toInt
  let w := (m.w1.extractLsb' 32 32).toNat
  let bin := (max 0 (min 15 (Int.fdiv (x - lo) w))).toNat
  { m with
    mn := min m.mn x, mx := max m.mx x, cnt := m.cnt + 1
    bins := if m.w0.getLsbD 11 then m.bins.setIfInBounds bin ((m.bins[bin]?).getD 0 + 1) else m.bins }

/-- What a source reads of a unit, if the unit exists (Table 14.7). -/
def State.monitorReads (s : State) (src unit : Nat) : Option Int :=
  match src with
  | 0 => if unit < 80 then some (s.zone unit).tmax else none
  | 1 => if unit < 80 then some (s.zone unit).flowm else none
  | 2 => some s.cool.pnow
  | 3 => if unit < 12 then some (s.fab.link (linkOf unit)).fill else none
  | 4 => if unit < 64 then some (s.core unit).held_.length else none
  | 5 => if unit < 64 then some (s.core unit).lq.length else none
  | _ => none

def monitorSrc (m : Monitor) : Nat := (m.w0.extractLsb' 0 4).toNat
def monitorOn (m : Monitor) : Bool := m.w0.getLsbD 12
def monitorPer (m : Monitor) : Nat := (m.w0.extractLsb' 13 5).toNat

/-- The monitors whose source is sampled now: at cooling samples sources 0 to 2, on every tick 3 to 5. -/
def State.sampleMonitors (s : State) (cooling : Bool) : State :=
  if s.gated || !s.dbg.mons.toList.any monitorOn then s
  else
    let go := fun (m : Monitor) =>
      if monitorOn m && decide (monitorSrc m ≤ 2) == cooling then
        match s.monitorReads (monitorSrc m) (m.w0.extractLsb' 4 7).toNat with
        | some x => monitorTakes m x
        | none => m
      else m
    s.updDbg fun d => { d with mons := d.mons.map go }

/-- The energy each die used since the last cooling sample, in microjoules: 10 per watt (R424, Table 14.6). -/
def State.countEnergy (s : State) (watts uncore : List Nat) : State :=
  (List.range 4).foldl (fun s d =>
    let own := (((watts.drop (16 * d)).take 16).foldl (· + ·) 0) + (uncore[d]?).getD 0
    s.count 13 d (10 * own)) s

/-- COOLING_SAMPLE (R408) with what counters and monitors make of it. -/
def execCoolingSample (zones : List ZoneReading) (watts : List Nat) (uncore : List Nat) (s : State) : Step :=
  .next (if !s.sampleDue then s
    else ((s.coolingSample zones watts uncore).countEnergy watts uncore).sampleMonitors true)

/-- MONITOR_PERIOD (R435): the MONITOR record, and the state of the next period. -/
def execMonitorPeriod (m : Nat) (s : State) : Step :=
  match s.dbg.mons[m]? with
  | none => .next s
  | some x =>
    if !monitorOn x || s.tick % 2 ^ monitorPer x ≠ 0 then .next s
    else
      let bins := (List.range 8).map fun j =>
        BitVec.ofNat 64 ((x.bins[2 * j]?).getD 0 % 2 ^ 32 + (x.bins[2 * j + 1]?).getD 0 % 2 ^ 32 * 2 ^ 32)
      let words := [x.w0 &&& 0xFFF, BitVec.ofInt 64 x.mn, BitVec.ofInt 64 x.mx, BitVec.ofNat 64 x.cnt] ++ bins
      let s1 := s.putRecord (s.dbg.sel 10) 4 s.tick words
      .next (s1.updDbg fun d => { d with mons := d.mons.setIfInBounds m { w0 := x.w0, w1 := x.w1 } })

/-- What counter k reads: 0 for no event, an unknown one, or a unit out of its range (Table 14.6). -/
def Debug.counter (d : Debug) (k : Fin 8) : Word :=
  let cfg := d.ctr[k]
  let evt := (cfg.extractLsb' 0 8).toNat
  if evt = 0 ∨ 13 < evt ∨ (!cfg.getLsbD 15 ∧ !unitOk evt (cfg.extractLsb' 8 7).toNat) then 0
  else BitVec.ofNat 64 d.ctval[k]

/-- COUNTER_SAMPLE (R434). -/
def execCounterSample (s : State) : Step :=
  .next (if s.dbg.cton && s.tick % 2 ^ s.dbg.ctper == 0 then
      s.putRecord (s.dbg.sel 7) 3 s.tick ((List.finRange 8).map s.dbg.counter)
    else s)

/-! ### The issue-slot window (R433) -/

/-- The sample of the tick that ends. -/
def State.issueSample (s : State) : Half :=
  (List.range 4).foldl (fun (x : Half) i =>
    let k := s.core (4 * s.dbg.isCluster + i)
    x ||| (k.issued.setWidth 32 <<< (6 * i)) ||| (if k.cold then (1 : Half) <<< (24 + i) else 0)
      ||| (if k.stopped then (1 : Half) <<< (28 + i) else 0)) 0

/-- The window takes a sample of each tick from its start. -/
def State.sampleIssues (s : State) : State :=
  if s.dbg.isArm && decide (s.dbg.isStart.toNat ≤ s.tick) then
    s.updDbg fun d => { d with isSamples := d.isSamples ++ [s.issueSample] }
  else s

/-- ISSUE_BLOCK (R433): 32 samples make a record; the last block disarms the window. -/
def execIssueBlock (s : State) : Step :=
  let d := s.dbg
  if d.isSamples.length < 32 then .next s
  else
    let at_ := fun i => ((d.isSamples[i]?).getD 0).toNat
    let words := (List.range 16).map fun j => BitVec.ofNat 64 (at_ (2 * j) + at_ (2 * j + 1) * 2 ^ 32)
    let s1 := s.putRecord (d.sel 4) 2 (s.tick - 32) words
    .next (s1.updDbg fun d => { d with
      isSamples := [], isDone := d.isDone + 1, isArm := decide (d.isDone + 1 < d.isBlocks) })

/-- What a tick leaves behind as it ends: issue samples, monitors of every tick (R433, R435). -/
def State.endTick (s : State) : State :=
  (s.sampleIssues).sampleMonitors false

/-! ### Access to the trace block (R429, R436, R440) -/

/-- May a writer reach a register of the trace block: level M, or the open port with the scope bit? -/
def State.mayDebug (s : State) (src : Writer) (bit : Nat) : Bool :=
  match src with
  | .host _ => false
  | .mlevel => true
  | .port => s.dbg.open_ && s.dbg.pscope.getLsbD bit

/-- BUFFER_ENABLE (R429): EN from 0 to 1 clears the buffer's counters. -/
def State.enableBuffer (s : State) (n : Nat) : State :=
  let b := s.dbg.buf n
  if n ≥ 8 || b.en then s
  else s.updDbg fun d => d.setBuf n { b with
    en := true, wptr := 0, wraps := 0, ovf := 0, lost := 0, stop := false }

def execBufferEnable (src : Writer) (n : Nat) (s : State) : Step :=
  .next (if s.mayDebug src 2 then s.enableBuffer n else s)

/-- ISWIN_ARM (R433): an armed START that has passed clears ARM. -/
def State.armWindow (s : State) : State :=
  s.updDbg fun d => { d with isArm := decide (s.tick ≤ d.isStart.toNat), isSamples := [], isDone := 0 }

def execIswinArm (src : Writer) (s : State) : Step := .next (if s.mayDebug src 2 then s.armWindow else s)

/-! ### Stops (R436 to R438) -/

/-- A stop is armed, unless refused (R436); the root floods a stop of the pod. -/
def State.armStop (s : State) : State :=
  let d := s.dbg
  let ahead := if d.scope = 2 then max 1024 s.fab.horizon else 1024
  if d.stopped || decide (d.stick.toNat < s.tick + ahead) || d.scope == 3 || (d.scope == 1 && decide (1 < s.fab.chips))
      || (d.scope == 2 && !s.fab.root) then s
  else
    let s1 := s.updDbg fun d => { d with armed := true }
    if d.scope = 2 then s1.floodMgmt none (.stop d.stick.toNat) else s1

def execArm (src : Writer) (s : State) : Step := .next (if s.mayDebug src 0 then s.armStop else s)

/-- DEBUG_STOP (R437): on STICK the stop takes effect. -/
def execDebugStop (s : State) : Step :=
  if !s.stopsNow then .next s
  else
    let s1 := s.updDbg fun d => { d with armed := false, stopped := true, ref := 0, resumeAt := none }
    .next (if s.dbg.scope = 0 then
        (List.range 64).foldl (fun s c =>
          if s.dbg.cmask.getLsbD c then s.stopCore c fun k => { k with debugStop := true } else s) s1
      else s1)

/-- A stop is to end: at the next reference tick, or for the pod on the one that the root floods, its lead from now (R438). -/
def State.askResume (s : State) : State :=
  if !s.dbg.stopped then s
  else if s.dbg.scope = 2 then
    if !s.fab.root then s
    else (s.updDbg fun d => { d with resumeAt := some (s.refTick + s.fab.horizon) }).floodMgmt none (.resume (s.refTick + s.fab.horizon))
  else s.updDbg fun d => { d with resumeAt := some (s.refTick + 1) }

def execResume (src : Writer) (s : State) : Step := .next (if s.mayDebug src 0 then s.askResume else s)

/-- The stop ends: the cores of a scope 0 stop run, unless something else stops them, and a STOP record is queued (R438). -/
def State.endStop (s : State) : State :=
  let ref := s.dbg.ref
  let s1 := s.updDbg fun d => { d with stopped := false, ref := 0, resumeAt := none }
  let s2 : State := { s1 with cores := s1.cores.map fun k => { k with debugStop := false } }
  s2.putRecord (s2.dbg.sel 13) 5 s.dbg.stick.toNat [BitVec.ofNat 64 ref]

/-- Deadlines of a clock-stopped core's tasks and handler do not count the tick (R417). -/
def Core.waitsOut (k : Core) : Core :=
  let slot := fun (t : Slot) => { t with
    freeze := t.freeze.map fun z => { z with deadline := z.deadline.map (· + 1) }
    behind := t.behind.map fun z => { z with deadline := z.deadline.map (· + 1) }
    hstart := t.hstart.map (· + 1) }
  { k with
    slots := k.slots.map slot, hslot := slot k.hslot
    ops := k.ops.map fun o => { o with deadline := o.deadline.map (· + 1) } }

/-- THE NEXT TICK. While a stop holds the pod tick only the reference tick goes on (R437); otherwise the present tick
ends and the next begins. The tick is a number that never wraps and only reads of it are taken modulo 2^64; what comparisons on
it do past 2^64 − 1 R2 leaves open: DESIGN CHOICE (log 27). -/
def State.nextTick (s : State) : State :=
  let counted := s.dbg.ref + if s.dbg.stopped then 1 else 0
  let s0 := if s.gated then s.updDbg fun d => { d with ref := counted, held := d.held + 1 }
    else
      let s1 := s.endTick
      let cores := s1.cores.map fun k => if k.stopped then k.waitsOut else k
      { s1 with tick := s1.tick + 1, cores := cores }.updDbg fun d => { d with ref := counted }
  let beyond := s0.dbg.stopped && (s0.dbg.resumeAt.map fun t => decide (t ≤ s0.refTick)).getD false
  let s2 := if beyond then s0.endStop else s0
  { s2.startCycles with phase := 0 }

/-- A management message acts (R380, R437, R438): ready notices go up the tree; PST, stops and resumes come down it. -/
def State.mgmtArrives (s : State) (port : Nat) (msg : Mgmt) : State :=
  let down := !s.fab.root && s.fab.parent == port
  match msg with
  | .ready chip => s.podReady chip
  | .pst t => if !down || s.fab.pst.isSome then s else (s.floodMgmt (some port) (.pst t)).podStart t
  | .stop t =>
    if !down || s.dbg.stopped || decide (t < s.tick) then s
    else (s.floodMgmt (some port) (.stop t)).updDbg fun d => { d with
      stick := BitVec.ofNat 64 t, scope := 2, armed := true }
  | .resume t =>
    if !down || !s.dbg.stopped || s.dbg.scope != 2 then s
    else (s.floodMgmt (some port) (.resume t)).updDbg fun d => { d with resumeAt := some t }

/-- MGMT_FLIT (R380): its beats are checked as any flit's (R368). -/
def execMgmtFlit (port : Nat) (flit : Flit) (s : State) : Step :=
  match s.receive port flit with
  | (s1, none) => .next s1
  | (s1, some bs) =>
    .next (if flitKind bs = 6 then ((mgmtOf (flitPayload bs)).map (s1.mgmtArrives port)).getD s1 else s1.flitActs port bs 0)

/-- DBGCTL_CLOSE (R440). -/
def execDbgctlClose (s : State) : Step := .next (s.updDbg fun d => { d with open_ := false, pscope := 0 })

/-! ### Registers of the trace block (Tables 14.3 to 14.8) -/

def bitNat (b : Bool) (at_ : Nat) : Nat := if b then 2 ^ at_ else 0

/-- The 64-bit word at an offset of the trace block. -/
def State.readTraceBlock (s : State) (off : Nat) : Word :=
  let d := s.dbg
  BitVec.ofNat 64 <|
    if off < 0x100 then
      let b := d.buf (off / 0x20)
      match off % 0x20 / 8 with
      | 0 => b.base.toNat
      | 1 => b.size + bitNat b.mode 32 + bitNat b.en 33 + bitNat b.stop 34
      | 2 => b.wptr + b.wraps.toNat * 2 ^ 32
      | _ => b.ovf.toNat + b.lost.toNat * 2 ^ 32
    else if off = 0x100 then d.trsel.toNat
    else if off = 0x108 then d.isStart.toNat
    else if off = 0x110 then d.isCluster + 16 * d.isBlocks + bitNat d.isArm 12
    else if off = 0x200 then d.ctper + bitNat d.cton 5
    else if 0x208 ≤ off ∧ off < 0x248 then ((d.ctr[(off - 0x208) / 8]?).getD 0).toNat
    else if 0x300 ≤ off ∧ off < 0x380 then
      let m := (d.mons[(off - 0x300) / 0x20]?).getD {}
      if off % 0x20 = 0 then m.w0.toNat else if off % 0x20 = 8 then m.w1.toNat else 0
    else if off = 0x400 then d.stick.toNat
    else if off = 0x408 then d.scope.toNat + bitNat d.armed 2 + bitNat d.stopped 3
    else if off = 0x410 then d.cmask.toNat
    else 0

/-- BASE and SIZE of a buffer are taken while EN = 0; EN from 0 to 1 clears its counters (Table 14.3). -/
def State.writeBuffer (s : State) (n i : Nat) (v : Word) : State :=
  let b := s.dbg.buf n
  let base := (v.extractLsb' 0 48).toNat
  let size := (v.extractLsb' 0 32).toNat
  let inMem := decide (base < sharedEnd) || decide (hbmBase ≤ base ∧ base < hbmEnd)
  match i with
  | 0 =>
    if b.en || base % 8 != 0 || !inMem then s
    else s.updDbg fun d => d.setBuf n { b with base := v.extractLsb' 0 48 }
  | 1 =>
    if b.en then (if v.getLsbD 33 then s else s.updDbg fun d => d.setBuf n { b with en := false })
    else if size % 8 ≠ 0 ∨ size < 64 then s
    else
      let s1 := s.updDbg fun d => d.setBuf n { b with size := size, mode := v.getLsbD 32 }
      if v.getLsbD 33 then s1.enableBuffer n else s1
  | _ => s

/-- A write to DSTOP; while a stop is in force only RESUME acts (R436, R438). -/
def State.writeDstop (s : State) (off : Nat) (v : Word) : State :=
  if s.dbg.stopped then (if off = 0x408 && v.getLsbD 4 then s.askResume else s)
  else if off = 0x400 then s.updDbg fun d => { d with stick := v }
  else if off = 0x410 then s.updDbg fun d => { d with cmask := v }
  else if off = 0x408 then
    let s1 := s.updDbg fun d => { d with scope := v.extractLsb' 0 2, armed := false }
    if v.getLsbD 2 then s1.armStop else s1
  else s

/-- A write to a register of the trace block, its ranges checked. A histogram without a bin width is not switched on: DESIGN CHOICE (log 22). -/
def State.writeTraceBlock (s : State) (off : Nat) (v : Word) : State :=
  let f := fun lo len => (v.extractLsb' lo len).toNat
  if off < 0x100 then s.writeBuffer (off / 0x20) (off % 0x20 / 8) v
  else if off = 0x100 then s.updDbg fun d => { d with trsel := v &&& 0xFFFF }
  else if off = 0x108 then (if v.toNat % 32 = 0 then s.updDbg fun d => { d with isStart := v } else s)
  else if off = 0x110 then
    if f 4 8 = 0 ∨ 128 < f 4 8 then s
    else
      let s1 := s.updDbg fun d => { d with isCluster := f 0 4, isBlocks := f 4 8, isArm := false }
      if v.getLsbD 12 then s1.armWindow else s1
  else if off = 0x200 then
    if f 0 5 < 10 ∨ 30 < f 0 5 then s
    else s.updDbg fun d => { d with
      ctper := f 0 5, cton := v.getLsbD 5
      ctval := if v.getLsbD 5 && !d.cton then Vector.replicate 8 0 else d.ctval }
  else if 0x208 ≤ off ∧ off < 0x248 then
    s.updDbg fun d => { d with ctr := d.ctr.setIfInBounds ((off - 0x208) / 8) (v &&& 0xFFFF) }
  else if 0x300 ≤ off ∧ off < 0x380 then
    let m := (off - 0x300) / 0x20
    let x := (s.dbg.mons[m]?).getD {}
    let put := fun (y : Monitor) => s.updDbg fun d => { d with mons := d.mons.setIfInBounds m y }
    if off % 0x20 = 0 then
      (if f 13 5 < 10 ∨ 30 < f 13 5 ∨ (v.getLsbD 12 ∧ v.getLsbD 11 ∧ x.w1.extractLsb' 32 32 = 0) then s
       else put { w0 := v &&& 0x3FFFF, w1 := x.w1 })
    else if off % 0x20 = 8 then (if f 32 32 = 0 then s else put { x with w1 := v })
    else s
  else if 0x400 ≤ off ∧ off < 0x418 then s.writeDstop off v
  else s

/-! ### The debug port (R439, R440) -/

/-- A TAP instruction is selected. -/
def State.tap (s : State) (ir : Byte) (captured : Word) (f : Debug → Debug) : Step :=
  .next ((s.updDbg fun d => { (f d) with ir := ir, dr := captured }).emit (.tdo captured))

/-- EXTEST and SAMPLE/PRELOAD capture the pins and update the boundary register. -/
def boundaryScan (ir : Byte) (din : Word) (s : State) : Step :=
  { s with free := s.free + 1 }.tap ir (Config.boundaryPins s.free) fun d => { d with bsr := din }

def execExtest (din : Word) (s : State) : Step := boundaryScan 0x00 din s
def execSamplePreload (din : Word) (s : State) : Step := boundaryScan 0x01 din s
def execIdcode (s : State) : Step := s.tap 0x02 0x1A640B3D id
def execBypass (s : State) : Step := s.tap 0xFF 0 id

/-- DBGADDR keeps its 50 bits. -/
def execDbgaddr (din : Word) (s : State) : Step :=
  s.tap 0x10 s.dbg.dbgaddr fun d => { d with dbgaddr := din &&& 0x3FFFFFFFFFFFF }

/-- DBGSTAT: OPEN, scope, ERR, STOPPED; Update-DR clears ERR. -/
def execDbgstat (s : State) : Step :=
  let d := s.dbg
  s.tap 0x12 (BitVec.ofNat 64 (bitNat d.open_ 0 + 2 * d.pscope.toNat + bitNat d.err 5 + bitNat d.stopped 6))
    fun d => { d with err := false }

def traceBase : Nat := 0xF000120000

/-- A translation-cache entry as the debug port reads it (Table 11.6). -/
def TEntry.bits (e : TEntry) : Nat :=
  layBits [(0, e.pasid.toNat), (20, 1), (21, e.size.toNat), (23, if e.rd then 1 else 0), (24, if e.wr then 1 else 0),
    (25, e.host.toNat), (64, e.vpn.toNat), (128, e.ppn.toNat)]

/-- The 8 bytes of the scan view at an address: slot and park records of stopped cores at the offsets of the frame map,
counted from 0 (R440). The port reads a translation-cache entry at 0x2_9000 + 32 × its place in the core's area, most recent first;
Table 11.6 gives its bits and no address: DESIGN CHOICE (log 27). -/
def State.scanView (s : State) (a : Nat) : Option Word :=
  if a < 0x1000 ∨ 64 ≤ (a - 0x1000) / 0x200000 then none
  else
    let c := (a - 0x1000) / 0x200000
    let x := (a - 0x1000) % 0x200000
    let k := s.core c
    let pick := fun (bs : List Byte) (i : Nat) => some (BitVec.ofNat 64 (leNat ((bs.drop i).take 8)))
    if !(k.stopped || s.gated) then none
    else if 0x1000 ≤ x ∧ x < 0x21000 then pick (s.slotRecord c ((x - 0x1000) / 0x8000) s.free) ((x - 0x1000) % 0x8000)
    else if 0x21000 ≤ x ∧ x < 0x29000 then
      pick (((k.opAt ((x - 0x21000) / 512)).map (·.parkRecord)).getD []) ((x - 0x21000) % 512)
    else if 0x29000 ≤ x ∧ x < 0x29800 then
      some (BitVec.ofNat 64 (((k.tlb[(x - 0x29000) / 32]?).map (·.bits)).getD 0 / 2 ^ (8 * ((x - 0x29000) % 32))))
    else none

/-- A package address that holds memory. -/
def memoryPlace (a : Nat) : Bool :=
  decide (a < sharedEnd) || decide (hbmBase ≤ a ∧ a < hbmEnd) || match aliasOf a with
    | some (_, x) => decide (x < scratchSize ∨ (accBase ≤ x ∧ x < imemEnd))
    | none => false

/-- The scope bit an address needs at the port, if an access to it may be made at all (R440). -/
def portBit (a : Nat) : Option Nat :=
  if traceBase ≤ a ∧ a < traceBase + 0x1000 then (if 0x400 ≤ a - traceBase ∧ a - traceBase < 0x418 then some 0 else some 2)
  else if memoryPlace a then some 3
  else none

/-- A DBGDATA access is refused: nothing is written and ERR is set. -/
def State.portRefused (s : State) (ir : Byte) : Step := s.tap ir 0 fun d => { d with err := true }

/-- DBGDATA's Capture-DR (R440). -/
def execDbgdataRead (s : State) : Step :=
  let d := s.dbg
  let a := (d.dbgaddr.extractLsb' 0 48).toNat
  if d.dbgaddr.getLsbD 48 then s.tap 0x11 0 id
  else if a % 8 ≠ 0 then s.portRefused 0x11
  else if d.dbgaddr.getLsbD 49 then
    match if s.mayDebug .port 1 && d.stopped then s.scanView a else none with
    | some v => s.tap 0x11 v id
    | none => s.portRefused 0x11
  else match portBit a with
    | none => s.portRefused 0x11
    | some b =>
      if !s.mayDebug .port b || (b == 3 && s.poisoned a) then s.portRefused 0x11
      else s.tap 0x11 (if b = 3 then BitVec.ofNat 64 (s.mem.nat a 8) else s.readTraceBlock (a - traceBase)) id

/-- DBGDATA's Update-DR (R440): a permitted write, in one piece of 8 aligned bytes. -/
def execDbgdataWrite (din : Word) (s : State) : Step :=
  let d := s.dbg
  let a := (d.dbgaddr.extractLsb' 0 48).toNat
  if !d.dbgaddr.getLsbD 48 then s.tap 0x11 0 id
  else match if a % 8 ≠ 0 ∨ d.dbgaddr.getLsbD 49 then none else portBit a with
    | none => s.portRefused 0x11
    | some b =>
      if !s.mayDebug .port b || (b == 3 && s.regionWiped a) then s.portRefused 0x11
      else if b = 3 then (s.putBytes a (bytesLE 8 din.toNat)).tap 0x11 0 id
      else (s.writeTraceBlock (a - traceBase) din).tap 0x11 0 id

end Sys2Proof.Machine
end

