-- ==== Sys2Proof/Machine/Weave.lean ====
section
/-!
DEFINITION. The release of a weave load (R197): the four participants of a cluster, their agreement, and the loads.
-/
namespace Sys2Proof.Machine

/-- A participant: its core, slot and frozen word. -/
structure Weaver where
  core : Nat
  slot : Nat
  z    : Freeze
  deriving DecidableEq, Repr

/-- The slot of a core that stands frozen on a weave load, its clock running. -/
def State.weaver (s : State) (c : Nat) : Option Weaver :=
  (List.range 4).findSome? fun n =>
    match (s.slot c n).freeze with
    | some z => if z.hold == .weave && (s.slot c n).goesOn && (s.slot c n).flt.isNone && !(s.core c).stopped then some { core := c, slot := n, z := z } else none
    | none => none

/-- What a weave load's word names: sparse or dense, source shape register, slot, ML TRN, class. -/
def weaveFields (w : Half) : Option (Bool × BitVec 5 × Nat × Bool × Nat) :=
  match decode w 0 with
  | some (.mldb shs w _ trn cls) => some (false, shs, w.toNat, trn == 1, cls.toNat)
  | some (.mldbs shs w _ trn cls) => some (true, shs, w.toNat, trn == 1, cls.toNat)
  | _ => none

/-- One participant's load, read from the leader's scratchpad. -/
structure WeaveLoad where
  keep  : Nat
  trn   : Bool
  shape : Shape256
  msh   : Shape256
  valid : Nat
  mvalid : Nat
  w     : Nat
  cls   : Nat
  deriving DecidableEq, Repr

def State.weaveLoad (s : State) (x : Weaver) : WeaveLoad :=
  let r := (s.slot x.core x.slot).regs
  match weaveFields x.z.q.word with
  | some (sparse, shs, w, trn, cls) =>
    { keep := keepOf sparse x.z.q, trn := trn, shape := r.readSh shs.toNat, msh := r.readSh (shs.toNat + 1)
      valid := (shapeOf (r.readSh shs.toNat)).validBy r
      mvalid := (shapeOf (r.readSh (shs.toNat + 1))).validBy r, w := w, cls := cls }
  | none => { keep := 0, trn := false, shape := 0, msh := 0, valid := 0, mvalid := 0, w := 0, cls := 0 }

/-- Do two participants agree (R197)? -/
def WeaveLoad.agrees (x y : WeaveLoad) : Bool :=
  let a := shapeOf x.shape
  let b := shapeOf y.shape
  x.keep == y.keep && x.trn == y.trn && a.rows == b.rows && a.cols == b.cols && a.trn == b.trn && a.pln == b.pln
    && x.valid == y.valid

/-- A 16-bit format of the leader takes an even slot and the one after it, granted and with no load pending (R190, R195). DESIGN CHOICE
(log 27): a participant learns the leader's format at the release, is tested for this there, and faults alone while the others
load. -/
def State.weaveSlotBad (s : State) (x : Weaver) (w : Nat) (pair : Bool) : Option FaultCode :=
  if !pair then none
  else if w % 2 == 0 && !s.slotGranted x.core x.slot (w + 1) then some .privilege
  else if w % 2 == 1 || ((s.core x.core).wslot (w + 1)).pending then some .shapeRange
  else none

/-- WEAVE_RELEASE (R197): on the first tick on which all four participants stand frozen, each word completes and the four
slots load from the leader's shape, one row a pod tick; where the words disagree every participant raises SHAPE_MISMATCH. -/
def execWeaveRelease (cluster : Nat) (s : State) : Step :=
  let xs := (List.range 4).filterMap fun i => s.weaver (4 * cluster + i)
  match xs with
  | lead :: _ =>
    if xs.length ≠ 4 then .next s
    else
      let y := s.weaveLoad lead
      if !xs.all fun x => (s.weaveLoad x).agrees y then
        .next (xs.foldl (fun s x => s.faultFrozen x.core x.slot .shapeMismatch 0) s)
      else
        let h := shapeOf y.shape
        let src := lead.core
        let pair := ((s.core src).fmt (h.entryNo (s.core src))).tw == 16
        .next (xs.foldl (fun s x =>
          let w := (s.weaveLoad x).w
          match s.weaveSlotBad x w pair with
          | some code => s.faultFrozen x.core x.slot code 0
          | none =>
            let s1 := (s.thaw x.core x.slot (s.tick + 1)).asFrozen x.core x.slot x.z
            s1.startLoad x.core src w y.keep y.trn h y.msh y.valid y.mvalid
              { s1.matOp .mldb with wcls := some y.cls, age := some 0 }) s)
  | [] => .next s

end Sys2Proof.Machine
end

