-- ==== Sys2Proof/Machine/Host.lean ====
section
/-!
DEFINITION. Hosts, management commands and reliability (15): register writes, contexts, windows and leases, pre-emption
requests, TDISP, CXL.mem, resets of attachments, soft errors, poisoned lines and the lockstep command processor.
-/
namespace Sys2Proof.Machine

/-! ### The management queues (R447) -/

/-- Is there a host attachment of a number: 1 and 3 where their port runs as two links (Table 15.1)? -/
def State.attached (s : State) (att : Nat) : Bool := decide (att < 4) && (att % 2 == 0 || (s.cp.twoLinks[att / 2]?).getD false)

/-- The attachment of the manager context; attachment 0 while there is none. -/
def State.managerAtt (s : State) : Nat :=
  ((s.ctxs.toList.find? fun x => x.cfg.getLsbD 23).map Ctx.host).getD 0

/-- The management queue register of an attachment, and the address of its entry at HEAD: entries of 64 bytes. -/
def State.mgmtQueue (s : State) (att : Nat) : BitVec 256 := s.cp.mgmt[att]?.getD 0
def mgmtEntry (x : BitVec 256) : Nat := rget x 0 48 + 64 * (hwqHead x % 2 ^ rget x 48 4)

/-- Does the enabled queue of an attachment hold an entry whose byte 0 is a command code (R447)? The places of a command's values in its
entry are not given: the event brings them, DESIGN CHOICE (log 24). -/
def State.commanded (s : State) (att code : Nat) : Bool :=
  let x := s.mgmtQueue att
  let a := mgmtEntry x
  hwqEn x && hwqHead x != hwqTail x
    && (if rget x 52 1 = 1 then s.mem.nat a 1 else s.hostMem.nat (hostKey 0 a) 1) == code % 256

/-- A command ends: STATUS at byte 1 of the entry at HEAD, bytes from 2 on, LAST, and VEC where CIRQ = 1. -/
def State.mgmtDone (s : State) (att code status : Nat) (extra : List Byte := []) : State :=
  let x := s.mgmtQueue att
  let s1 := s.emit (.mgmt att code status extra)
  let a := mgmtEntry x
  let bs := bytesLE 1 status ++ extra.take 62
  let s2 := if rget x 52 1 = 1 then s1.putBytes (a + 1) bs else s1.writeHost att 0 (bytesToMasked (a + 1) bs)
  let y := rset (rset x 80 16 (hwqHead x + 1)) 128 8 status
  let s3 : State := { s2 with cp := { s2.cp with mgmt := s2.cp.mgmt.setIfInBounds att y } }
  if rget x 123 1 = 1 then s3.emit (.msix att (rget x 112 11)) else s3

/-- A command that the CP fetches and carries out: accepted from one attachment only, and what it does: a new state and the bytes
of its entry from 2 on, or a refusal with such bytes (R447). -/
def State.commandWith (s : State) (att code : Nat) (allowed : Bool) (done : Except (State × List Byte) (State × List Byte)) : Step :=
  .next (if !s.commanded att code then s
    else if !allowed then s.mgmtDone att code FaultCode.privilege.toNat
    else match done with
      | .ok x => x.1.mgmtDone att code 0 x.2
      | .error x => x.1.mgmtDone att code FaultCode.reservedField.toNat x.2)

def State.command (s : State) (att code : Nat) (allowed : Bool) (done : Option State) : Step :=
  s.commandWith att code allowed (match done with
    | some t => .ok (t, [])
    | none => .error (s, []))

/-! ### Contexts, windows and leases (R285, R303, R304, R354, R446) -/

/-- Is a frame base one a context may take: none, or 4 KiB-aligned with its frame in HBM outside the windows (R354)? -/
def Ctx.frameOk (x : Ctx) (base : Nat) : Bool :=
  let last := base + 0x8001000 - 1
  base == 0 || (base % 4096 == 0 && decide (hbmBase ≤ base ∧ last < hbmEnd)
    && x.win.toList.all fun w => !w.getLsbD 115
      || decide (last < (w.extractLsb' 0 48).toNat) || decide ((w.extractLsb' 64 48).toNat < base))

/-- The fields of CTXCFG that a write sets (Table 15.3). -/
def ctxcfgMask : BitVec 256 :=
  BitVec.ofNat 256 ((2 ^ 24 - 1) + (2 ^ 64 - 1) * 2 ^ 64 + (2 ^ 41 - 1) * 2 ^ 128 + (2 ^ 48 - 1) * 2 ^ 192)

/-- The translations of a PASID leave every core (R347). -/
def State.dropPasid (s : State) (p : BitVec 20) : State :=
  { s with cores := s.cores.map fun k => { k with tlb := k.tlb.filter fun e => e.pasid != p } }

/-- A write to CTXCFGk (R446); none where it is refused. A context that is freed takes its translations with it, and a
newly enabled one has no multicast window (R226, R347). -/
def State.writeCtx (s : State) (k : Nat) (v : BitVec 256) : Option State :=
  let x := s.ctx k
  let other := (List.range 64).any fun i => i != k && (s.ctx i).cfg.getLsbD 23
  let cfg := (v &&& ctxcfgMask) ||| (x.cfg &&& BitVec.ofNat 256 (3 * 2 ^ 24))
  if 64 ≤ k ∨ s.ctxRuns k ∨ x.locked ∨ (v.getLsbD 23 ∧ other) ∨ !x.frameOk (rget v 192 48) then none
  else
    let opened := !x.cfg.getLsbD 22 && v.getLsbD 22
    let freed := x.cfg.getLsbD 22 && (!v.getLsbD 22 || x.pasid != v.extractLsb' 0 20)
    let s1 := s.updCtx k fun x => { x with cfg := cfg, mwin := if opened then Vector.replicate 16 0 else x.mwin }
    some (if freed then s1.dropPasid x.pasid else s1)

/-- A write to WINn of a context (R285). -/
def State.writeWin (s : State) (k n : Nat) (v : BitVec 128) : Option State :=
  if 64 ≤ k ∨ 16 ≤ n ∨ s.ctxRuns k ∨ (s.ctx k).locked ∨ !windowRecordOk v then none
  else some (s.updCtx k fun x => { x with win := x.win.setIfInBounds n v })

def leaseBase (l : BitVec 128) : Nat := (l.extractLsb' 0 48).toNat
def leaseLimit (l : BitVec 128) : Nat := (l.extractLsb' 64 48).toNat
def leaseHost (l : BitVec 128) : Nat := (l.extractLsb' 112 2).toNat
def leaseState (l : BitVec 128) : Nat := (l.extractLsb' 114 2).toNat

def State.lease (s : State) (n : Nat) : BitVec 128 := s.cp.leases[n]?.getD 0

def State.setLease (s : State) (n : Nat) (l : BitVec 128) : State :=
  { s with cp := { s.cp with leases := s.cp.leases.setIfInBounds n l } }

/-- Do windows of the contexts bound to an attachment grant RD and WR on the 4 KiB page of an address (R303)? -/
def State.attGrants (s : State) (att a : Nat) (bits : BitVec 2) : Bool :=
  s.ctxs.toList.any fun x => x.host == att && x.win.toList.any fun w =>
    w.getLsbD 115 && decide ((w.extractLsb' 0 48).toNat ≤ a) && decide (a ≤ (w.extractLsb' 64 48).toNat)
      && (bits &&& ~~~(w.extractLsb' 112 2)) == 0

/-- First address past a window of the attachment that covers one; the address itself where none does. -/
def State.attNext (s : State) (att a : Nat) : Nat :=
  s.ctxs.toList.foldl (fun m x =>
    if x.host == att then x.win.toList.foldl (fun m w =>
      if w.getLsbD 115 && w.extractLsb' 112 2 == 3 && decide ((w.extractLsb' 0 48).toNat ≤ a)
          && decide (a ≤ (w.extractLsb' 64 48).toNat) then max m ((w.extractLsb' 64 48).toNat + 1) else m) m
    else m) a

/-- Is a range covered by windows with RD and WR of the contexts bound to an attachment? Each of them moves on at most
once. -/
def State.attCovers (s : State) (att limit : Nat) : Nat → Nat → Bool
  | 0, a => decide (limit < a)
  | fuel + 1, a => decide (limit < a) || (decide (a < s.attNext att a) && s.attCovers att limit fuel (s.attNext att a))

/-- May register n take a lease in state 1 or 2 (R303)? -/
def State.leaseOk (s : State) (n att base limit : Nat) : Bool :=
  let clash := (List.range 64).any fun i =>
    let l := s.lease i
    i != n && decide (leaseState l = 1 ∨ leaseState l = 2) && decide (base ≤ leaseLimit l) && decide (leaseBase l ≤ limit)
  let inside := decide (limit < sharedEnd) || decide (hbmBase ≤ base ∧ limit < hbmEnd)
  base % 4096 == 0 && limit % 4096 == 4095 && decide (base ≤ limit) && !clash && inside && s.attCovers att limit 1024 base

/-- A write to LEASEn: state 0, or a lease within R303. -/
def State.writeLease (s : State) (n : Nat) (v : BitVec 128) : Option State :=
  if 64 ≤ n ∨ leaseState v = 3 ∨ (leaseState v ≠ 0 ∧ !s.leaseOk n (leaseHost v) (leaseBase v) (leaseLimit v)) then none
  else some (s.setLease n (v &&& BitVec.ofNat 128 ((2 ^ 48 - 1) + (2 ^ 52 - 1) * 2 ^ 64)))

/-- WRITE_CTXCFG (R447): command 1. -/
def execWriteCtxcfg (att : Nat) (target : CfgTarget) (value : BitVec 256) (s : State) : Step :=
  s.command att 1 (att == s.managerAtt) (match target with
    | .ctxcfg k => s.writeCtx k value
    | .win k n => if value.toNat < 2 ^ 128 then s.writeWin k n (value.setWidth 128) else none
    | .lease n => if value.toNat < 2 ^ 128 then s.writeLease n (value.setWidth 128) else none)

/-- ACQUIRE_LEASE (R303): command 2, into the lowest free register. -/
def execAcquireLease (att : Nat) (base limit : Word) (s : State) : Step :=
  let v := BitVec.ofNat 128 (base.toNat % 2 ^ 48 + limit.toNat % 2 ^ 48 * 2 ^ 64 + att % 4 * 2 ^ 112 + 2 ^ 114)
  let wide := decide (2 ^ 48 ≤ base.toNat) || decide (2 ^ 48 ≤ limit.toNat)
  s.command att 2 true (((List.range 64).find? fun n => leaseState (s.lease n) = 0).bind fun n =>
    if wide then none else s.writeLease n v)

/-- RELEASE_LEASE (R304): command 3, of a lease in state 1 by its own attachment. -/
def execReleaseLease (att n : Nat) (s : State) : Step :=
  let l := s.lease n
  s.command att 3 (leaseHost l == att % 4 && decide (n < 64)) (if leaseState l = 1 then
    some (s.setLease n (l &&& BitVec.ofNat 128 (2 ^ 114 - 1))) else none)

/-! ### Requests (R326, R360, R447, R448) -/

/-- PRE_EMPT_OR_RESTORE (R326, R483): command 4, for a launch on the core named, or on all its cores. -/
def execPreEmptOrRestore (att n : Nat) (what : Preemption) (s : State) : Step :=
  match s.job n with
  | none => s.command att 4 true none
  | some j =>
    let own := (s.ctx j.ctx).host == att
    s.command att 4 (att == s.managerAtt || (own && !j.dmode))
      (let here := fun (c : Nat) => (what.core.map (· == c)).getD true
       let cores := (j.cores.filter j.holds).filter here
       if what.back then
         (if !(j.gone ++ j.preq).any here then none
          else some (s.updJob n fun j => { j with preq := j.preq.filter (!here ·), rreq := true }))
       else if !cores.isEmpty && (s.ctx j.ctx).cframe != 0 then
         some (s.updJob n fun j => { j with preq := j.preq.filter (!cores.contains ·) ++ cores, rreq := false })
       else none)

/-- READ_VIOLATION_LOG (R360): command 5. -/
def execReadViolationLog (att ctx index : Nat) (s : State) : Step :=
  s.commandWith att 5 (att == s.managerAtt)
    (if ctx < 64 ∧ index < 16 then .ok (s, bytesLE 32 (((s.ctx ctx).vlog[index]?).getD 0).toNat) else .error (s, []))

/-- ADVANCE_LIFECYCLE (R448): command 6; a failure leaves the number of the failed check, and the nonce is spent. -/
def execAdvanceLifecycle (att : Nat) (token : List Byte) (s : State) : Step :=
  let r := s.sec.advance token
  s.commandWith att 6 (att == s.managerAtt) (match r.1 with
    | .ok x => .ok ({ s with sec := x }, [])
    | .error n => .error ({ s with sec := r.2 }, if n = 0 then [] else bytesLE 1 n))

/-- TDISP of a context takes a state. -/
def State.setTdisp (s : State) (k n : Nat) : State := s.updCtx k fun x => { x with cfg := rset x.cfg 24 2 n }

/-- Command 7 from the context's attachment, in the states that allow it. -/
def tdispCommand (att ctx : Nat) (from_ : List Nat) (into : Nat) (s : State) : Step :=
  let x := s.ctx ctx
  s.command att 7 (x.host == att && decide (ctx < 64)) (if from_.contains x.tdisp then some (s.setTdisp ctx into) else none)

/-- TDISP_LOCK (R447): CONFIG_UNLOCKED to CONFIG_LOCKED. -/
def execTdispLock (att ctx : Nat) (s : State) : Step := tdispCommand att ctx [0] 1 s
/-- TDISP_START (R447): CONFIG_LOCKED to RUN. -/
def execTdispStart (att ctx : Nat) (s : State) : Step := tdispCommand att ctx [1] 2 s
/-- TDISP_STOP (R447): to CONFIG_UNLOCKED, from ERROR too. -/
def execTdispStop (att ctx : Nat) (s : State) : Step := tdispCommand att ctx [0, 1, 2, 3] 0 s

/-- TDISP_ERROR (R447): a locked or running TDI enters ERROR; its launches abort and the key slots of its IDE streams are
wiped. -/
def execTdispError (ctx : Nat) (s : State) : Step :=
  if !(s.ctx ctx).locked then .next s
  else
    let s1 := (s.cp.jobs.filter (·.ctx == ctx)).foldl (fun s j => s.abort j.n .windowViolation none) (s.setTdisp ctx 3)
    let mine := fun (n : Nat) => (((s1.sec.key n).bind (·.stream)).map fun x => Config.streamOf ctx x.1).getD false
    .next { s1 with sec := ((List.range 64).filter mine).foldl (fun x n => x.wipe n) s1.sec }

/-- OTHER_COMMAND_CODE (R447). -/
def execOtherCommandCode (att code : Nat) (s : State) : Step := s.command att code true none

/-! ### Register writes (R7, R308, R377, R378, R410, R411, R424, R429, R444, R446, R450) -/

/-- One 64-bit word of a wider register replaced. -/
def putWord {w : Nat} (x : BitVec w) (i : Nat) (v : Word) : BitVec w :=
  (x &&& ~~~(BitVec.ofNat w ((2 ^ 64 - 1) * 2 ^ (64 * i)))) ||| BitVec.ofNat w (v.toNat * 2 ^ (64 * i))

/-- The new value of an HWQ or management queue register whose word i is written (Table 10.1); at level M CTX too. -/
def queueWrite (x : BitVec 256) (i : Nat) (v : Word) (mlevel : Bool) : BitVec 256 :=
  let en := hwqEn x
  let f := fun lo len => (v.extractLsb' lo len).toNat
  match i with
  | 0 =>
    if en || f 55 9 != 0 || f 0 8 != 0 then x
    else
      let y := putWord x 0 v
      if v.getLsbD 54 && (f 48 4 == 0 || decide (12 < f 48 4)) then rset y 54 1 0 else y
  | 1 =>
    if f 6 10 ≠ 0 ∨ f 60 4 ≠ 0 then x
    else
      let used := (f 32 16 + 2 ^ 16 - hwqHead x) % 2 ^ 16
      let y := if hwqDb x && decide (2 ^ rget x 48 4 < used) then x else rset x 96 16 (f 32 16)
      let z := rset y 112 11 (f 48 11)
      if en then z
      else
        let z1 := rset z 123 1 (f 59 1)
        if mlevel then rset z1 64 6 (f 0 6) else z1
  | _ => x

/-- A write in the HWQ window: from a host only to a queue whose context is bound to it (R444); CTX not while TDISP holds
the context (R447). -/
def State.writeHwqAt (s : State) (src : Writer) (off : Nat) (v : Word) : State :=
  let n := off / 32
  let x := s.hwq n
  let i := off % 32 / 8
  match src with
  | .host att =>
    if (s.ctx (hwqCtx x)).host != att then s else s.setHwq n (queueWrite x i v false)
  | .mlevel =>
    let held := (s.ctx (hwqCtx x)).locked || (s.ctx (v.toNat % 64)).locked
    s.setHwq n (queueWrite x i v (!held))
  | .port => s

/-- MINF and MAXF of a zone (R410). -/
def State.writeZone (s : State) (z : Nat) (v : Word) : State :=
  let minf := (v.extractLsb' 16 8).toNat
  let maxf := (v.extractLsb' 24 8).toNat
  let s1 := s.updZone z fun y => { y with minf := minf, maxf := maxf }
  if 1 ≤ minf ∧ minf ≤ maxf ∧ maxf ≤ 64 ∧ s1.sumFits {} (fun _ => false) ∧ s1.riseTicks.all (fun t => decide (s1.demandAt z t {} ≤ maxf)) then s1
  else s

/-- ZCMD (Table 13.4). -/
def State.zoneCommand (s : State) (v : Word) : Step :=
  let z := (v.extractLsb' 0 7).toNat
  match (v.extractLsb' 8 3).toNat with
  | 1 => execPrime z s
  | 2 => execClose z s
  | 3 => execClearFailed z s
  | 4 => execForceEvacuation z s
  | _ => .next s

/-- A write in the cooling block. -/
def State.writeCooling (s : State) (off : Nat) (v : Word) : Step :=
  let f := fun lo len => (v.extractLsb' lo len).toNat
  if off < 0xA00 then .next (if off % 0x20 = 0 then s.writeZone (off / 0x20) v else s)
  else if off = 0x1000 then .next (if f 0 12 ≤ 3000 then { s with cool := { s.cool with qtot := f 0 12 } } else s)
  else if off = 0x1008 then s.zoneCommand v
  else if off = 0x1010 then
    .next (if f 0 12 < f 12 12 ∧ f 12 12 < 1760 then { s with cool := { s.cool with twarn := f 0 12, tlim := f 12 12 } }
      else s)
  else .next s

/-- PODCFG while no pod launch runs (R377, Table 12.4). A value outside a field's range (RSPL below 2^16, DTDIR not a multiple of 8, PAR 12
to 15) is stored as written: DESIGN CHOICE (log 27). -/
def State.writePodcfg (s : State) (i : Nat) (v : Word) : State :=
  let keep : BitVec 256 := BitVec.ofNat 256
    ((2 ^ 29 - 1) + (2 ^ 72 - 1) * 2 ^ 32 + (2 ^ 64 - 1) * 2 ^ 128)
  if s.fab.podJob.isSome then s
  else { s with fab := { s.fab with podcfg := putWord s.fab.podcfg i v &&& keep } }

/-- HREGn (R450), a 64-bit word of it at a time. BASE and LIMIT keep the low bits that Table 15.6 gives them: a value with others is no
reason to refuse, DESIGN CHOICE (log 11). -/
def State.writeHregWord (s : State) (n i : Nat) (v : Word) : State :=
  let keep : BitVec 128 := BitVec.ofNat 128 ((2 ^ 48 - 1) + (2 ^ 55 - 1) * 2 ^ 64)
  let u := if i = 0 then v &&& ~~~0xFFF#64 else if i = 1 then v ||| 0xFFF#64 else v
  match s.sec.writeHreg n (putWord ((s.sec.hreg[n]?).getD 0) i u &&& keep) with
  | some x => { s with sec := x }
  | none => s

/-! ### Register reads (R7) -/

/-- One 64-bit word of a wider register. -/
def wordAt {w : Nat} (x : BitVec w) (i : Nat) : Word := x.extractLsb' (64 * i) 64

/-- A queue register as it is read: a host sees zero where the queue's context is not bound to it (R444). -/
def State.readHwqAt (s : State) (src : Writer) (off : Nat) : Word :=
  let x := s.hwq (off / 32)
  let v := wordAt x (off % 32 / 8)
  match src with
  | .host att => if (s.ctx (hwqCtx x)).host != att then 0 else v
  | .mlevel => v
  | .port => 0

/-- A row of the flow allocation table (Table 13.2). -/
def State.zoneRow (s : State) (z : Nat) : BitVec 256 :=
  let y := s.zone z
  BitVec.ofNat 256 (layBits [(0, s.zoneOwner z % 256), (8, s.resv z % 256), (16, y.minf % 256), (24, y.maxf % 256),
    (32, y.valve s.refTick % 16), (36, y.state % 8), (39, y.att % 4), (41, bitNat y.cause 0), (64, y.flowm % 2 ^ 16),
    (80, y.tmax % 2 ^ 16), (128, y.ttick % 2 ^ 64)])

/-- The 64-bit word at an offset of the cooling block: rows, QTOT, TWARN, TLIM and TCRIT; ZCMD reads zero (Table 13.3). -/
def State.readCooling (s : State) (off : Nat) : Word :=
  if off < 0xA00 then wordAt (s.zoneRow (off / 0x20)) (off % 0x20 / 8)
  else if off = 0x1000 then BitVec.ofNat 64 s.cool.qtot
  else if off = 0x1010 then BitVec.ofNat 64 (s.cool.twarn + s.cool.tlim * 2 ^ 12 + 1760 * 2 ^ 24)
  else 0

/-- The 64-bit word at an offset of the power block (Table 13.10). -/
def State.readPower (s : State) (off : Nat) : Word :=
  let thr := (List.range 64).foldl (fun a c => a + (s.core c).throttle.toNat * 2 ^ (3 * c)) 0
  if off = 0 then BitVec.ofNat 64 s.cool.plim
  else if off = 8 then BitVec.ofNat 64 (s.cool.pnow % 2 ^ 11)
  else if off = 0x10 then s.cool.ecnt
  else if 0x20 ≤ off ∧ off < 0x38 then BitVec.ofNat 64 (thr / 2 ^ (8 * (off - 0x20)))
  else 0

/-- LSTAT of a link engine (Table 12.5). -/
def Link.status (l : Link) : BitVec 256 :=
  BitVec.ofNat 256 (layBits [(0, l.ldly % 2 ^ 12), (12, bitNat l.up 0), (13, bitNat l.run 0), (14, bitNat l.deg 0), (15, l.fill % 32),
    (20, l.hcode.toNat), (40, l.code % 256), (48, l.cause % 16), (52, l.wpc % 2 ^ 13), (128, l.ftick % 2 ^ 64),
    (192, l.lflags.toNat % 32)])

/-- The 64-bit word at a management address, for level M: fields that are write only and reserved bits read zero. -/
def State.readMgmt (s : State) (a : Nat) : Word :=
  let at_ := fun (base len : Nat) => decide (base ≤ a) && decide (a < base + len)
  let off := a - mgmtBase
  if a % 8 ≠ 0 then 0
  else if at_ mgmtBase 0x10000 then s.readHwqAt .mlevel off
  else if at_ 0xF000010000 0x20 then wordAt s.fab.podcfg (off % 0x20 / 8)
  else if at_ 0xF000020000 0xC0000 then
    if (off - 0x20000) % 0x10000 < 0x20 then wordAt (s.fab.link ((off - 0x20000) / 0x10000)).status (off % 0x20 / 8) else 0
  else if at_ 0xF000100000 0x2000 then s.readCooling (off - 0x100000)
  else if at_ 0xF000110000 0x40 then s.readPower (off - 0x110000)
  else if at_ traceBase 0x500 then s.readTraceBlock (a - traceBase)
  else if at_ 0xF000130000 0x200 then wordAt ((s.sec.hreg[(off - 0x130000) / 0x20]?).getD 0) (off % 0x20 / 8)
  else if at_ 0xF000140000 0x1000 then wordAt (s.ctx ((off - 0x140000) / 0x40)).cfg (off % 0x40 / 8)
  else 0

/-- A lease register and a window register, which the spec places at no address (Tables 9.2 and 9.6), by word. -/
def State.readLease (s : State) (n i : Nat) : Word := wordAt (s.lease n) i
def State.readWin (s : State) (k n i : Nat) : Word := wordAt (((s.ctx k).win[n]?).getD 0) i

/-- What a register read answers (R7, R440, R444), by the reader and at the addresses of REGISTER_WRITE. -/
def State.readRegister (s : State) (src : Writer) (addr : Nat) : Word :=
  match src with
  | .mlevel => s.readMgmt addr
  | .port =>
    if traceBase ≤ addr ∧ addr < traceBase + 0x500 ∧ addr % 8 = 0 ∧ s.mayDebug .port ((portBit addr).getD 3) then
      s.readTraceBlock (addr - traceBase)
    else 0
  | .host att =>
    if addr % 8 ≠ 0 then 0
    else if addr < 0x10000 then s.readHwqAt (.host att) addr
    else if addr < 0x10020 then wordAt (s.cp.mgmt[att]?.getD 0) ((addr - 0x10000) / 8)
    else if addr = 0x20000 then (if (s.cp.priOff[att]?).getD false then 0 else 1)
    else if addr = 0x20010 then (if (s.cp.atsOff[att]?).getD false then 0 else 1)
    else if addr = 0x20008 then BitVec.ofNat 64 ((s.cp.priAlloc[att]?).getD 0)
    else 0

/-- A write at a management address at level M. -/
def State.writeMgmt (s : State) (a : Nat) (v : Word) : Step :=
  let at_ := fun (base len : Nat) => decide (base ≤ a) && decide (a < base + len)
  let off := a - mgmtBase
  if a % 8 ≠ 0 then .next s
  else if at_ mgmtBase 0x10000 then .next (s.writeHwqAt .mlevel off v)
  else if at_ 0xF000010000 0x20 then .next (s.writePodcfg (off % 0x20 / 8) v)
  else if at_ 0xF000020000 0xC0000 then
    .next (if (off - 0x20000) % 0x10000 = 0x18 then
        s.updLink ((off - 0x20000) / 0x10000) fun l => { l with lflags := l.lflags &&& ~~~(v.extractLsb' 0 5) }
      else s)
  else if at_ 0xF000100000 0x2000 then s.writeCooling (off - 0x100000) v
  else if at_ 0xF000110000 8 then
    let p := (v.extractLsb' 0 11).toNat
    .next (if 1200 ≤ p ∧ p ≤ 1800 then { s with cool := { s.cool with plim := p } } else s)
  else if at_ traceBase 0x500 then .next (s.writeTraceBlock (a - traceBase) v)
  else if at_ (traceBase + 0x500) 8 then (if v.getLsbD 0 then execDbgctlClose s else .next s)
  else if at_ 0xF000130000 0x200 then .next (s.writeHregWord ((off - 0x130000) / 0x20) (off % 0x20 / 8) v)
  else if at_ 0xF000140000 0x1000 then
    let k := (off - 0x140000) / 0x40
    .next ((s.writeCtx k (putWord (s.ctx k).cfg (off % 0x40 / 8) v)).getD s)
  else .next s

/-- REGISTER_WRITE (R7). A host writes its BAR0 from offset 0, its management queue (BAR2) from 0x1_0000, its PRI control
at 0x2_0000 and its page-request allocation (R349) at 0x2_0008 and its
ATS control at 0x2_0010 of the model's numbering; level M writes management addresses; the port what its scope covers. -/
def execRegisterWrite (src : Writer) (addr : Nat) (value : Word) (s : State) : Step :=
  match src with
  | .mlevel => s.writeMgmt addr value
  | .port =>
    .next (if traceBase ≤ addr ∧ addr < traceBase + 0x500 ∧ addr % 8 = 0 ∧ s.mayDebug .port ((portBit addr).getD 3) then
        s.writeTraceBlock (addr - traceBase) value
      else s)
  | .host att =>
    .next (if addr % 8 ≠ 0 then s
      else if addr < 0x10000 then s.writeHwqAt (.host att) addr value
      else if addr < 0x10020 then
        let x := queueWrite (s.cp.mgmt[att]?.getD 0) ((addr - 0x10000) / 8) value false
        { s with cp := { s.cp with mgmt := s.cp.mgmt.setIfInBounds att x } }
      else if addr = 0x20000 then
        { s with cp := { s.cp with priOff := s.cp.priOff.setIfInBounds att (!value.getLsbD 0) } }
      else if addr = 0x20010 then
        { s with cp := { s.cp with atsOff := s.cp.atsOff.setIfInBounds att (!value.getLsbD 0) } }
      else if addr = 0x20008 then
        { s with cp := { s.cp with priAlloc := s.cp.priAlloc.setIfInBounds att (value.toNat % 2 ^ 32) } }
      else s)

/-! ### CXL.mem (R302, R445) -/

/-- A host access outside the windows of its attachment's contexts is logged with MASTER 3 and HWQ 0. In which context's log R445 does not
say: DESIGN CHOICE (log 24), of the lowest-numbered enabled context bound to the attachment, else of the lowest-numbered one bound to it,
else of context 0. -/
def State.logHost (s : State) (att addr : Nat) : State :=
  let bound := (List.range 64).filter fun k => (s.ctx k).host == att
  let k := ((bound.find? fun k => (s.ctx k).cfg.getLsbD 22).orElse fun _ => bound.head?).getD 0
  s.logViolation k (vlogEntry 3 0 0 0 0 (BitVec.ofNat 64 addr) s.tick 0 0)

/-- Does a host read of a line return poison (R305, R451, R455)? -/
def State.linePoison (s : State) (att line : Nat) : Bool :=
  s.poison.contains line || s.regionPoison line || s.cp.leases.toList.any fun l =>
    leaseState l == 2 && leaseHost l != att && decide (leaseBase l ≤ line) && decide (line ≤ leaseLimit l)

def inHdm (a : Nat) : Bool := decide (a < sharedEnd) || decide (hbmBase ≤ a ∧ a < hbmEnd)

/-- CXL_MEM_READ (R302): the 64-byte line, or poison. -/
def execCxlMemRead (att addr : Nat) (s : State) : Step :=
  let line := addr / 64 * 64
  if !inHdm line || !s.attGrants att line 1 then .next ((s.logHost att addr).emit (.cxl att none))
  else .next (s.emit (.cxl att (if s.linePoison att line then none else some (s.mem.bytes line 64))))

/-- CXL_MEM_WRITE (R445): bytes of a 64-byte line, or a dropped and logged access. -/
def execCxlMemWrite (att addr : Nat) (data : List Byte) (mask : BitVec 64) (s : State) : Step :=
  let line := addr / 64 * 64
  if !inHdm line || !s.attGrants att line 2 then .next (s.logHost att addr)
  else if s.regionWiped line then .next s
  else
    let xs := (bytesToMasked line ((List.range 64).map fun i => (data[i]?).getD 0)).filter fun x => mask.getLsbD (x.addr - line)
    .next ((s.writePackage xs).unmark (xs.map (·.addr)))

/-! ### Attachments that go (R305) -/

/-- The leases of an attachment become poison-pending. -/
def State.poisonLeases (s : State) (att : Nat) : State :=
  let go := fun (l : BitVec 128) => if leaseHost l == att && leaseState l == 1 then l ^^^ (3#128 <<< 114) else l
  { s with cp := { s.cp with leases := s.cp.leases.map go } }

/-- HOST_LINK_DOWN (R305). -/
def execHostLinkDown (att : Nat) (s : State) : Step := .next (s.poisonLeases att)

/-- Operations that wait for an answer of an attachment which has been reset stop with PAGE_FAULT (R460). -/
def State.answersLost (s : State) (att : Nat) : State :=
  (List.range 64).foldl (fun s c =>
    let lost := (s.core c).ops.filter fun o => (s.ctx o.ctx).host == att && (o.pst == .parked || (o.pst == .xlate && (o.needR || o.needW)))
    lost.foldl (fun s o => s.stopOp c o .pageFault o.xaddr.toNat) s) s

/-- FUNCTION_LEVEL_RESET (R305, Table 15.11): the translations of the attachment go too, and neither ATS nor PRI answers until the host
enables them again. -/
def execFunctionLevelReset (att : Nat) (s : State) : Step :=
  let gone := fun (o : Op) => if (s.ctx o.ctx).host == att then { o with xl := [] } else o
  let s1 := s.poisonLeases att
  let s2 : State := { s1 with
    cores := s1.cores.map fun k => { k with
      tlb := k.tlb.filter fun e => e.host.toNat != att, ops := k.ops.map gone }
    cp := { s1.cp with priOff := s1.cp.priOff.setIfInBounds att true, atsOff := s1.cp.atsOff.setIfInBounds att true } }
  .next ((s2.setGroups (s2.cp.groups.filter (·.1 != att))).answersLost att)

/-! ### Errors of memories (R454 to R456) -/

/-- Register files and queues of zeros. -/
def Slot.zeroRegs (t : Slot) : Slot :=
  { t with regs := { Regs.init with p := Vector.replicate 48 0, fs := Vector.replicate 8 0, b := Vector.replicate 16 { lo := 0, hi := 0, act := 0 } } }
def Slot.zeroQueues (t : Slot) : Slot :=
  { t with queues := Vector.replicate 6 [], latch := Vector.replicate 8 {}, half := none, freeze := none, behind := [] }

/-- The CP writes zero over an array of a core (R454); a halted CP owes it (R457). -/
def State.zeroArray (s : State) (c : Nat) (x : CoreArray) : State :=
  let clear := fun (lo hi : Nat) => ({ s with
    mem := s.mem.filter fun y => !(decide (localAddr c lo ≤ y.1) && decide (y.1 < localAddr c hi)) } : State)
  let slots := fun (f : Slot → Slot) => s.updCore c fun k => { k with slots := k.slots.map f, hslot := f k.hslot }
  if !s.cpRuns then { s with cp := { s.cp with owedZero := s.cp.owedZero ++ [(c, x)] } }
  else match x with
  | .scratchpad => clear 0 scratchSize
  | .accumulator => (clear accBase accEnd).updCore c fun k => { k with acctag := 0 }
  | .instructionMemory => clear imemBase imemEnd
  | .weightSlots => s.updCore c fun k => { k with ws := Vector.replicate 4 {} }
  | .engineTable | .parkStates => s.updCore c fun k => { k with ops := [] }
  | .registerFiles => slots Slot.zeroRegs
  | .queues => (slots Slot.zeroQueues).updCore c fun k => { k with lq := [] }

/-- SOFT_ERROR (R454): every launch with state on the core aborts, one pre-empted whose shared state stands there too (R358); then the
array is zeroed. -/
def execSoftError (core : Nat) (array : CoreArray) (s : State) : Step :=
  let k := s.core core
  let here := fun (j : Job) => j.holds core || (k.slots.toList.any fun t => t.launch == some j.n)
    || (k.ops.any fun o => o.launch == some j.n)
    || (k.owner == some j.ctx && (s.ctx j.ctx).saved.any fun y => y.launch == j.n && y.core == core && !y.shared)
  .next (((s.cp.jobs.filter here).foldl (fun s j => s.abort j.n .softError none) s).zeroArray core array)

/-- Has a line that had an uncorrectable error been rewritten since (R455)? -/
def State.rewrittenSince (s : State) (line : Nat) : Bool := s.cp.erred.contains line && !s.poison.contains line

/-- A line of shared memory or HBM is marked poisoned, and the CP notes it; one in error again after it has been rewritten is retired
(R455). -/
def State.markLine (s : State) (addr : Nat) : State :=
  let line := addr / 64 * 64
  if !inHdm line then s
  else
    let d := (dieOf line).getD 0
    let again := s.rewrittenSince line
    let cp := { s.cp with
      errCnt := s.cp.errCnt.setIfInBounds d ((s.cp.errCnt[d]?).getD 0 + 1)
      errAddr := s.cp.errAddr.setIfInBounds d line
      erred := if s.cp.erred.contains line then s.cp.erred else line :: s.cp.erred
      retired := if again && !s.cp.retired.contains line then line :: s.cp.retired else s.cp.retired }
    let s1 : State := { s with poison := if s.poison.contains line then s.poison else line :: s.poison, cp := cp }
    if again then s1.tellManager 0x40 d else s1

/-- A record in a trace buffer's queue is lost (Table 15.8). -/
def State.loseRecord (s : State) (n : Nat) : State :=
  let b := s.dbg.buf n
  if b.queue.isEmpty then s
  else s.updDbg fun d => d.setBuf n { b with queue := b.queue.tail, lost := b.lost + 1 }

/-- UNCORRECTABLE_ERROR (R454, R455). -/
def execUncorrectableError (addr : Nat) (array : ErrorArray) (s : State) : Step :=
  .next (match array with
    | .memory => s.markLine addr
    | .traceQueue => s.loseRecord addr)

/-- Is a write to a line on its way: an update of a synchronisation word, or a link engine's flit at the bank (R456)? -/
def State.linePending (s : State) (line : Nat) : Bool :=
  (s.sync.any fun u => u.addr / 64 * 64 == line) || s.linkHolds line

/-- PATROL_SCRUB (R456): a correctable error changes no value; a line with a write pending is skipped. -/
def execPatrolScrub (addr : Nat) (found : ScrubResult) (s : State) : Step :=
  let line := addr / 64 * 64
  .next (if found == .uncorrectable && !s.linePending line then s.markLine line else s)

/-! ### The lockstep command processor (R457 to R459) -/

/-- The device is fatal (R459): every launch aborts; each function and the BMC are told. -/
def State.goFatal (s : State) : State :=
  let s1 := s.cp.jobs.foldl (fun s j => s.abort j.n .softError none) s
  let s2 : State := { s1 with cp := { s1.cp with halted := true, fatal := true } }
  ((List.range 4).filter s.attached).foldl (fun s a => s.tellManager 0x51 a) (s2.tellManager 0x50 0)

/-- LOCKSTEP_MISMATCH (R457, R459): the CP halts, and the chip of a pod launch sends an abort NOTICE; a second mismatch
within 2^32 ticks of the first is fatal. -/
def execLockstepMismatch (s : State) : Step :=
  if s.cp.halted then .next s
  else if (s.cp.mmPrev.map fun p => decide (s.tick ≤ p + 2 ^ 32)).getD false then .next s.goFatal
  else
    let s1 : State := { s with cp := { s.cp with halted := true, mmTick := some s.tick } }
    .next (if s.fab.podJob.isSome then s1.startNotice 0xFFFF true FaultCode.softError.toNat 0 else s1)

/-- An entry that was in steps 1 to 7 starts again at step 1, visible on the restart tick, and a COPY node at its first byte (Table 15.9). -/
def Job.restarted (j : Job) (tick : Nat) : Job :=
  match j.stage with
  | .taken | .held => { j with stage := .taken, vis := tick, admitted := false, form := {}, lists := [] }
  | _ => { j with graph := j.graph.map fun g => match g.doing with
    | .copying x => { g with doing := .copying { x with pos := 0 } }
    | _ => g }

/-- Is a restart of the CP due: by 2,500,000 ticks after the mismatch (Table 15.9)? -/
def State.restartDue (s : State) : Bool :=
  s.cp.halted && !s.cp.fatal && (s.cp.mmTick.map fun m => decide (m + 2500000 ≤ s.tick)).getD true

/-- What a halted CP owes is done (R454, R457). -/
def State.payOwed (s : State) : State :=
  let s1 := s.cp.owedLog.foldl (fun s e => s.logViolation e.1 e.2) { s with cp := { s.cp with owedLog := [], owedZero := [] } }
  s.cp.owedZero.foldl (fun s x => s.zeroArray x.1 x.2) s1

/-- CP_RESTART (R458): after the check of its image against MEAS0 the CP goes on with every entry; a bad image is fatal. -/
def execCpRestart (s : State) : Step :=
  if !s.cp.halted || s.cp.fatal || (s.cp.mmTick.map fun m => decide (s.tick ≤ m)).getD false then .next s
  else
    let s1 : State := { s with free := s.free + 1 }
    let reread := Config.sha384 (digestBytes 0 ++ digestBytes (Config.firmwareReread s.free))
    if reread != s.sec.measure 0 then .next s1.goFatal
    else
      let s2 : State := { s1 with cp := { s1.cp with
        halted := false, mmPrev := s1.cp.mmTick, jobs := s1.cp.jobs.map fun (j : Job) => j.restarted s.tick } }
      .next s2.payOwed

end Sys2Proof.Machine
end

