-- ==== Sys2Proof/Machine/Agenda.lean ====
section
/-!
DEFINITION. What happens on a tick, and in which order (R2, R36, R250, R254, R309, R339, R437): the events that may act in
each phase, and the landings between them. The order of phases is the model's; each event checks its own conditions.
-/
namespace Sys2Proof.Machine

/-! ### Stimuli from outside -/

/-- Is an event one that comes from outside, and if so does it reach its unit while a stop holds the pod tick (R437)? -/
def stimulus (i : Instr) : Option Bool :=
  match i with
  | .extest _ | .samplePreload _ | .idcode | .dbgaddr _ | .dbgdataRead | .dbgdataWrite _ | .dbgstat | .bypass
  | .writeCtxcfg .. | .acquireLease .. | .releaseLease .. | .preEmptOrRestore .. | .readViolationLog ..
  | .advanceLifecycle .. | .tdispLock .. | .tdispStart .. | .tdispStop .. | .otherCommandCode ..
  | .registerWrite .mlevel _ _ | .registerWrite .port _ _ | .hostLinkDown _ | .functionLevelReset _ | .coldReset
  | .coolingSample .. | .prime _ | .close _ | .clearFailed _ | .forceEvacuation _ | .arm _ | .resume _ | .dbgctlClose
  | .bufferEnable .. | .iswinArm _ | .lockstepMismatch | .cpRestart | .linkTraining .. | .timebaseFlit .. | .guardFlit ..
  | .mgmtFlit .. | .lossOfLaneLock _ | .bufferLimit .. | .tdispError _ => some true
  | .doorbell .. | .registerWrite (.host _) _ _ | .atsCompletion .. | .priResponse .. | .atsInvalidation ..
  | .cxlMemRead .. | .cxlMemWrite .. | .getVersion | .getCapabilities | .negotiateAlgorithms | .getDigests
  | .getCertificate .. | .challenge .. | .getMeasurements .. | .keyExchange .. | .finish _ | .endSession
  | .unsupportedRequest _ | .keyProg .. | .kSetGo .. | .softError .. | .uncorrectableError .. | .patrolScrub ..
  | .dataFlit .. | .signalFlit .. | .idleFlit .. | .noticeFlit .. | .dieToDieBeat .. => some false
  | _ => none

/-- A management command: it waits while the CP is halted (R457). -/
def isCommand (i : Instr) : Bool :=
  match i with
  | .writeCtxcfg .. | .acquireLease .. | .releaseLease .. | .preEmptOrRestore .. | .readViolationLog ..
  | .advanceLifecycle .. | .tdispLock .. | .tdispStart .. | .tdispStop .. | .otherCommandCode .. => true
  | _ => false

/-- A host's access, and a memory access that the port permits, wait at a bank that a link engine's flit holds (R284, R395, R440); not in a
stop of the package, whose flits stand, and not at a stopped core's own memory, which a write reaches before resume (R441). -/
def State.bankFree (s : State) (i : Instr) : Bool :=
  match i with
  | .cxlMemRead _ addr | .cxlMemWrite _ addr _ _ => !s.linkHolds addr
  | .dbgdataRead | .dbgdataWrite _ =>
    let a := (s.dbg.dbgaddr.extractLsb' 0 48).toNat
    let memory := !s.dbg.dbgaddr.getLsbD 49 && s.mayDebug .port 3 && portBit a == some 3
    let rests := ((aliasOf a).map fun x => (s.core x.1).stopped).getD false
    !memory || s.gated || rests || !s.linkHolds a
  | _ => true

/-- The patrol scrubber's accesses come behind all others of their tick (R456), and so before those of the next. -/
def isScrub (i : Instr) : Bool :=
  match i with
  | .patrolScrub .. => true
  | _ => false

/-- The attachment by which a stimulus comes. -/
def fromAtt (i : Instr) : Option Nat :=
  match i with
  | .doorbell att .. | .registerWrite (.host att) _ _ | .atsInvalidation att .. | .cxlMemRead att .. | .cxlMemWrite att .. | .hostLinkDown att
  | .functionLevelReset att | .writeCtxcfg att .. | .acquireLease att .. | .releaseLease att .. | .preEmptOrRestore att ..
  | .readViolationLog att .. | .advanceLifecycle att .. | .tdispLock att .. | .tdispStart att .. | .tdispStop att .. | .otherCommandCode att .. =>
    some att
  | .priResponse _ _ answer => some answer.att
  | _ => none

/-- The context whose traffic a stimulus from a host is. -/
def State.ofContext (s : State) (i : Instr) : Option Nat :=
  match i with
  | .doorbell _ n _ => some (hwqCtx (s.hwq n))
  | .registerWrite (.host _) a _ => if a < 0x10000 then some (hwqCtx (s.hwq (a / 32))) else none
  | .atsCompletion c e _ | .priResponse c e _ => ((s.core c).opAt e).map (·.ctx)
  | _ => none

/-- Is a stimulus let in: from an attachment that the straps give (R442), over a stream that is not Insecure (R451), and for an
invalidation with room in the attachment's queue of 32 (R443)? One that is not stays at the port. -/
def State.mayAct (s : State) (i : Instr) : Bool :=
  (fromAtt i).all s.attached && (s.ofContext i).all (!s.insecure ·) && match i with
    | .atsInvalidation att .. => decide (s.cp.invals.countP (·.1 == att) < 32)
    | _ => true

/-- Is a stimulus to be taken now? Those that a stop does not hold count reference ticks. -/
def State.taking (s : State) (x : Nat × Instr) : Bool :=
  s.mayAct x.2 && match stimulus x.2 with
  | some true => decide (x.1 ≤ s.refTick) && (s.cpRuns || !isCommand x.2) && s.bankFree x.2
  | some false => decide (if isScrub x.2 then x.1 < s.tick else x.1 ≤ s.tick) && !s.gated && s.bankFree x.2
  | none => false

/-! ### Events of engine operations (R211, R217, R221, R238, R241, R243, R262) -/

/-- The events by which an operation may act on this tick. -/
def State.opEvents (s : State) (c : Nat) (o : Op) : List Instr :=
  let e := o.entry
  let ready := s.opReady c o
  match o.kind with
  | .mcst => if s.mcstReady c o then [.chunkComplete c e] else []
  | .qpush | .qpop =>
    let late := o.pst == .run && !o.finished && (o.deadline.map fun d => decide (d ≤ s.tick)).getD false
    if ready || late then [.queueStep c e] else []
  | .arrive | .flowreq => []
  | .ftw => if ready then [.ftwPropagation c e] else []
  | .aadd | .aand | .aor | .axor | .amin | .amax | .aswap | .acas | .cinit => if ready then [.bankAtomic c e] else []
  | .afadd => if ready then [.ticketedUpdate c e] else []
  | .cpym => if ready then [.chunkComplete c e, .carriedWordIssue c e] else []
  | _ => if !ready then [] else if o.isTicketed then [.ticketedUpdate c e] else [.chunkComplete c e]

/-- Events of every core by a function of the core. -/
def State.perCore (s : State) (f : Nat → Core → List Instr) : List Instr :=
  (List.range 64).flatMap fun c => f c (s.core c)

/-- Those of one core, and its held multicast landings. -/
def State.engineEvents (s : State) (c : Nat) : List Instr :=
  let k := s.core c
  k.ops.flatMap (s.opEvents c) ++ if !k.stopped && k.held.any (fun x => decide (x.1 ≤ k.cyc)) then [.heldLanding c] else []

/-! ### Boundaries: handlers, pre-emption (R339, R343, R344, R357) -/

/-- The handler entries and handler deadlines of a tick, each with the logical index of its task. -/
def State.entryEvents (s : State) : List (Nat × Instr) :=
  (List.range 64).flatMap fun c =>
    let k := s.core c
    ((List.range 5).filter fun n => (k.slot n).flt.isSome || !(k.slot n).waiting.isEmpty).map
        (fun n => ((k.slot n).lidx, .handlerEntry c n))
      ++ if k.hslot.hstart.isSome then [(k.hslot.lidx, .handlerDeadline c)] else []

/-- Events by ascending logical index of their tasks, so that of several faults that abort a kernel on one tick the first names the
task reported (R323). -/
def byIndex (xs : List (Nat × Instr)) : List Instr :=
  (xs.foldl (fun (a : List (Nat × Instr)) x =>
    a.filter (fun y => decide (y.1 ≤ x.1)) ++ [x] ++ a.filter fun y => decide (x.1 < y.1)) []).map (·.2)

def State.boundaryEvents (s : State) : List Instr :=
  byIndex s.entryEvents
    ++ s.cp.invals.map (fun x => .invalidationCompletion x.1 x.2.1 x.2.2.1 x.2.2.2)
    ++ if s.cpRuns then
        (s.cp.jobs.filter fun j => !j.preq.isEmpty).map (fun j => .frameWrite j.n)
          ++ (s.cp.jobs.filter fun j => !j.gone.isEmpty && j.rreq).map (fun j => .restore j.n)
      else []

/-! ### Landings (R32, R37, R38) -/

/-- A frozen word that is to issue again at its freeze boundary (R248): it holds the words of the next task cycle. -/
def Slot.holds (t : Slot) (q : QWord) : Bool := q.again && decide (q.dcyc < t.tc)

def Slot.held (t : Slot) : Bool := t.queues.toList.any fun q => (q.head?.map t.holds).getD false

/-- Has a slot a task cycle on the present core cycle: the handler slot, the ACTIVE slot while no handler runs, a
RETIRING slot (R15, R325, R341)? No word issues while matrix operations of another slot are in flight (R38). -/
def State.runsCycle (s : State) (c n : Nat) : Bool :=
  let k := s.core c
  let t := k.slot n
  let others := k.mats.any fun m => m.slot != n && m.forOp.isNone
  let here := t.fltAt == (s.tick, k.cyc)
  (t.flt.isNone || here) && decide (t.startAt ≤ k.cyc) && decide (t.startTick ≤ s.tick)
    && (match t.freeze with
      | some z => z.cyc0 == k.cyc && z.start == s.tick
      | none => true)
    && match t.st with
      | .active => !others && (n == 4 || k.hslot.st == .empty)
      | .retiring => n == 4 || k.hslot.st == .empty || t.queues.toList.all (·.isEmpty)
      | _ => false

/-- A pod tick goes by for the weave loads of a core (R197). -/
def State.ageMats (s : State) (c : Nat) : State :=
  s.updCore c fun k => { k with mats := k.mats.map fun m => { m with age := m.age.map (· + 1) } }

/-- The landings of one core on its cycle: matrix results from the state of the cycle before and format writes, with the
task's own of each slot that runs; stores of a draining freeze; then the matrix unit reads its rows of the cycle. -/
def State.coreLandings (s0 : State) (c : Nat) : State :=
  let s := s0.ageMats c
  let mats := s.coreMatLandings c true
  let bad := s.metaFaults c true
  let formats := (s.core c).formats.filter fun x => decide (x.2.cyc ≤ (s.core c).cyc)
  let s1 := s.updCore c fun k => { k with mats := mats.2, formats := k.formats.filter fun x => !formats.contains x }
  let s2 := (List.range 5).foldl (fun s n =>
    let t := s.slot c n
    let due := if s.runsCycle c n && !t.held then t.landings.filter fun l => decide (l.cyc ≤ t.tc) else []
    let mine := ((mats.1 ++ formats).filter (·.1 == n)).map (·.2)
    if due.isEmpty && mine.isEmpty then s.landDrain c n
    else
      let rest := t.landings.filter fun l => !due.contains l
      ((s.setSlot c n { t with landings := rest }).applyLandings c n (due ++ mine)).landDrain c n) s1
  let s3 := bad.foldl (fun s x => s.raiseLanded c x.1 x.2) s2
  s3.readMats c true

/-- On a tick on which a core has no cycle its weave loads alone go on (R197). -/
def State.weaveLandings (s0 : State) (c : Nat) : State :=
  if (s0.core c).stopped || !((s0.core c).mats.any fun m => m.age.isSome) then s0
  else
    let s := s0.ageMats c
    let mats := s.coreMatLandings c false
    let bad := s.metaFaults c false
    let s1 := s.updCore c fun k => { k with mats := mats.2 }
    let s2 := mats.1.foldl (fun s x => (s.applyLanding c x.1 x.2).1) s1
    (bad.foldl (fun s x => s.raiseLanded c x.1 x.2) s2).readMats c false

/-- The landings of a tick on one core. -/
def State.landCore (s : State) (c : Nat) : State := if s.todo.contains c then s.coreLandings c else s.weaveLandings c

/-- The last `n` cores take their turns in ascending order: a core's engine operations act, then its timed words land; the link
engines' landings come after them (R284). A core whose operations have events to execute holds its turn until they are. -/
def State.turns (s : State) : Nat → State
  | 0 => s.linkLandings
  | n + 1 =>
    let events := s.engineEvents (63 - n)
    if events.isEmpty then (s.landCore (63 - n)).turns n else { s with inbox := events, turn := n + 1 }

/-- The core whose turn it is lands, and the next ones take theirs. -/
def State.nextTurn (s : State) : State :=
  match s.turn with
  | 0 => s
  | n + 1 => ({ s with turn := 0 }.landCore (63 - n)).turns n

/-! ### The fabric, the command processor, the cooling controller -/

def State.linkEvents (s : State) : List Instr :=
  if s.gated then [] else (List.range 12).flatMap fun n =>
    let l := s.fab.link n
    let p := portOf n
    (if l.startDue s.tick then [.programStart p] else [])
      ++ (if l.run && decide (l.deadline ≤ s.tick) then [.programDeadline p] else [])
      ++ (if l.gapOver s.tick then [.guardGap p] else [])
      ++ (if l.guardDue s.tick then [.automaticGuard p] else [])

def State.spliceEvents (s : State) : List Instr :=
  if s.gated then [] else
    (if s.noticeDue.isSome then [.spliceStop] else [])
      ++ if (s.fab.splice.map fun x => decide (x.1 ≤ s.tick)).getD false then [.spliceResume] else []

/-- Hardware queues in the order in which they are served: descending PRIO of the entry at HEAD, ascending number (R309). -/
def State.servedQueues (s : State) : List Nat :=
  let open_ := (s.cp.hwqs.map (·.1)).filter s.hwqOpen
  let prio := fun (n : Nat) =>
    let x := s.hwq n
    s.cpRead (hwqCtx x) (rget x 52 1 == 1) (hwqEntry x + 3) 1 % 8
  let before := fun (a b : Nat) => decide (prio b < prio a) || (prio a == prio b && decide (a < b))
  let ins := fun (xs : List Nat) (n : Nat) => xs.filter (before · n) ++ [n] ++ xs.filter fun x => !before x n
  open_.foldl ins []

def State.cpEvents (s : State) : List Instr :=
  (if s.restartDue then [.cpRestart] else [])
    ++ s.servedQueues.flatMap fun n => if hwqDb (s.hwq n) then [.launchRecord n] else [.hwqPoll n, .launchRecord n]

/-- The event of a graph's node, by its kind; a node of no kind meets its checks as an END would. -/
def nodeEvents (kind n : Nat) : List Instr :=
  match kind with
  | 1 => [.nodeLaunch n]
  | 2 => [.nodeCopy n]
  | 3 => [.nodeCond n]
  | 4 => [.nodeLoop n]
  | 5 => [.nodeWait n, .waitNodeExpiry n]
  | 6 => [.nodeSignal n]
  | _ => [.nodeEnd n]

def State.graphEvents (s : State) : List Instr :=
  s.servedJobs.flatMap fun j => match j.graph with
    | none =>
      if j.stage == .held && rfield j.record 0 8 == 2 then .graphStart j.n :: nodeEvents (s.mem.nat (rfield j.record 64 64) 1) j.n
      else []
    | some g => match g.doing with
      | .starting t => if t ≤ s.tick then nodeEvents (s.nodeKind g) j.n else []
      | .waiting .. => [.nodeWait j.n, .waitNodeExpiry j.n]
      | .copying _ => [.nodeCopy j.n]
      | .launching _ => []

/-- Records that graph nodes have taken go through their steps; then every launch that waits is tried in the order of service (R309,
R313). -/
def State.launchEvents (s : State) : List Instr :=
  (s.servedJobs.filter (·.stage == .taken)).map (fun j => .launchRecord j.n)
    ++ (s.servedJobs.filter fun j => (j.stage == .taken || j.stage == .held) && rfield j.record 0 8 == 1).map
      (fun j => .launchLoad j.n)

/-- Zones whose present phase is over: what ends it (R412, R417, R418). -/
def State.zoneEvents (s : State) : List Instr :=
  (List.range 80).flatMap fun z =>
    let y := s.zone z
    if s.refTick < y.until_ then []
    else match y.phase with
      | 2 => [.purgeEnd z]
      | 3 => [.pulsesEnd z]
      | 4 => [.rePrimeEnd z]
      | 6 | 7 => [.primeVerify z]
      | _ => []

def State.flowEvents (s : State) : List Instr :=
  (if s.gated then [] else
    (s.cool.grants.filter fun g => (g.stop.map fun e => decide (e ≤ s.tick)).getD false).map (.grantEnd ·.id)
      ++ (s.cool.grants.filter fun g => !g.active && decide (g.start ≤ s.tick)).map (.grantStart ·.id)
      ++ s.perCore fun c k => (k.ops.filter fun o => s.flowArrives o || (o.kind == .flowreq && !o.seen.isEmpty && s.opReady c o)).map
          (.flowreqDecision c ·.entry))
    ++ s.zoneEvents

/-- Zones that have verified, the masters of zones that stop on this tick, and a debug stop. -/
def State.stopEvents (s : State) : List Instr :=
  (if s.stopsNow then [.debugStop] else [])
    ++ ((List.range 80).filter s.verified).map (.verifyEnd ·)
    ++ ((List.range 80).filter fun z => s.phaseOver z 1 || s.phaseOver z 8).map (.zoneClockStop ·)

/-! ### Synchronisation and waits (R250 to R257, R270, R273) -/

/-- Addresses of synchronisation words with an update due. -/
def State.syncAddrs (s : State) : List Nat :=
  let upd := (s.sync.filter fun u => decide (u.due ≤ s.tick)).map (·.addr)
  let ops := (List.range 64).flatMap fun c =>
    ((s.core c).ops.filter (s.arriveReady c)).map fun o => compPackage c o.comp
  (upd ++ ops).eraseDups

def State.arrivalEvents (s : State) : List Instr := if s.gated then [] else s.syncAddrs.map .arrival

/-- The event by which a frozen word may go on. -/
def holdEvent (h : Hold) (c n : Nat) : List Instr :=
  match h with
  | .waitg .. | .waitm .. | .swinit .. | .mdrain | .tableFull => [.waitSatisfied c n]
  | .testg .. | .testm .. => [.testReturn c n]
  | .align .. => [.alignResume c n]
  | .fence .. => [.fenceComplete c n]
  | .waitt .. => [.waittResume c n]
  | .weave => [.weaveRelease (c / 4)]
  | .secure => []

/-- Events of frozen and of retiring slots. -/
def State.waitEvents (s : State) : List Instr :=
  if s.gated then []
  else
    let go := (s.perCore fun c k => (List.range 5).flatMap fun n => match (k.slot n).freeze with
      | some z => holdEvent z.hold c n
      | none => []).eraseDups
    let late := s.perCore fun c k => (List.range 5).flatMap fun n =>
      if (k.slot n).frozenWords.any (·.over s.tick) then [.waitDeadline c n] else []
    let retire := s.perCore fun c k => (List.range 4).flatMap fun n =>
      if (k.slot n).st == .retiring then [.taskRetire c n] else []
    go ++ late ++ (if s.sec.queue.isEmpty then [] else [.securityBlockReply]) ++ retire

/-! ### Trace, placement and completion (R320, R323, R325, R430, R434, R435) -/

/-- The trace unit's accesses wait at a bank that a link engine's flit holds, and at one that stands (R284, R395, R420, R430): does the
record that buffer n writes next, with the marker before it, wait? -/
def State.recordWaits (s : State) (n : Nat) : Bool :=
  let b := s.dbg.buf n
  let base := b.base.toNat
  ((List.range (((b.queue.head?).map (·.length)).getD 0)).flatMap fun i => [base + b.wptr + 8 * i, base + 8 * i]).any s.unitWaits

def State.traceEvents (s : State) : List Instr :=
  if s.gated then []
  else
    (if s.dbg.cton then [.counterSample] else [])
      ++ ((List.range 4).filter fun m => (s.dbg.mons[m]?.map monitorOn).getD false).map .monitorPeriod
      ++ (if 32 ≤ s.dbg.isSamples.length then [.issueBlock] else [])
      ++ ((List.range 8).filter fun n => !(s.dbg.buf n).queue.isEmpty && !s.recordWaits n).map .recordWrite

def State.slotEvents (s : State) : List Instr :=
  if s.gated then []
  else
    (s.perCore fun c k => if k.lq.isEmpty then [] else [.taskBind c])
      ++ s.perCore fun c k =>
          if k.lq.isEmpty && k.slots.toList.all (·.st == .empty) then [] else [.slotActivate c]

/-- Does the record of an entry that has ended wait at the bank of its address (R284, R395), or for the stream its TLP goes by (R451)? -/
def State.closeWaits (s : State) (j : Job) : Bool :=
  let comp := match j.graph with
    | some g => if g.doing.afterLaunch.isSome then BitVec.ofNat 64 (rfield j.record 960 64) else g.comp
    | none => BitVec.ofNat 64 (rfield j.record 960 64)
  if comp.getLsbD 63 then s.unitWaits (comp.extractLsb' 0 48).toNat else s.insecure j.ctx

/-- Entries that are over, in the order in which their launches ended. -/
def State.completeEvents (s : State) : List Instr :=
  let beyond := s.cp.jobs.filter fun j =>
    (j.stage == .ended && !s.closeWaits j) || (j.stage != .ended && j.runsLaunch && s.launchDone j)
  let ins := fun (xs : List Job) (j : Job) =>
    xs.filter (fun x => decide (x.etick ≤ j.etick)) ++ [j] ++ xs.filter fun x => decide (j.etick < x.etick)
  (beyond.foldl ins []).map fun j => .launchComplete j.n

/-! ### The phases of a tick -/

/-- The last phase; the agents' cycles follow it. -/
def lastPhase : Nat := 17

/-- Hosts' accesses of one tick come in ascending number of their ports; the debug port's come after the CP's, and the trace unit's last (R284,
R430, R440). -/
def hostOrder (i : Instr) : Nat :=
  match i with
  | .cxlMemRead att .. | .cxlMemWrite att .. => att
  | _ => 4

def isTap (i : Instr) : Bool :=
  match i with
  | .extest _ | .samplePreload _ | .idcode | .dbgaddr _ | .dbgdataRead | .dbgdataWrite _ | .dbgstat | .bypass => true
  | _ => false

/-- The phase in which a stimulus acts. -/
def stimulusPhase (i : Instr) : Nat := if isScrub i then 1 else if isTap i then 16 else 5

/-- The stimuli taken in a phase. -/
def State.stimuli (s : State) (phase : Nat) : List (Nat × Instr) :=
  s.script.filter fun x => s.taking x && stimulusPhase x.2 == phase

/-- The events due in a phase. Those of the cores' turns, phase 3, come with the turns. -/
def State.dueIn (s : State) (phase : Nat) : List Instr :=
  match phase with
  | 1 => (s.stimuli 1).map (·.2) ++ s.stopEvents
  | 2 => if s.gated then [] else s.boundaryEvents
  | 4 => s.arrivalEvents
  | 5 => (if s.sampleDue then [.coolingSample s.cool.sensors s.cool.rails s.cool.uncore] else []) ++ byIndex ((s.stimuli 5).map fun x => (hostOrder x.2, x.2))
  | 6 => s.linkEvents
  | 7 => s.spliceEvents
  | 8 => s.cpEvents
  | 9 => s.graphEvents
  | 10 => s.launchEvents
  | 11 => s.flowEvents
  | 12 => s.waitEvents
  | 14 => s.slotEvents
  | 15 => s.completeEvents
  | 16 => (s.stimuli 16).map (·.2)
  | 17 => s.traceEvents
  | _ => []

/-- What the sensors and the rails show changes from outside, by COOLING_SAMPLE entries of the script: they stand for samples to come, which the
controller takes on its own ticks (R408). -/
def State.readSensors (s : State) : State :=
  let mine := fun (x : Nat × Instr) => s.taking x && match x.2 with
    | .coolingSample .. => true
    | _ => false
  (s.script.filter mine).foldl (fun (s : State) (x : Nat × Instr) => match x.2 with
    | .coolingSample zones watts uncore =>
      { s with cool := { s.cool with sensors := zones, rails := watts, uncore := uncore }, script := s.script.erase x }
    | _ => s) s

/-- The next phase begins: what has no event of its own is done, and the events due stand in the inbox. Phase 3 goes on until every
core has had its turn. -/
def State.nextPhase (s : State) : State :=
  if s.turn != 0 then s.nextTurn
  else
    let p := s.phase + 1
    if p = 3 then (if s.gated then { s with phase := p } else { s with phase := p }.turns 64)
    else
      let s1 := if s.gated then s else if p = 4 then s.askNext else if p = 5 then s.hostsWrite else if p = 13 then s.dispatch.stuckSteps else s
      let s2 := if p = 5 then s1.readSensors else s1
      let s2 := if p = 1 && !s2.gated then s2.boot else s2
      let taken := fun (x : Nat × Instr) => s2.taking x && stimulusPhase x.2 == p
      { s2 with phase := p, inbox := s2.dueIn p, script := s2.script.filter fun x => !taken x }

end Sys2Proof.Machine
end

