-- ==== Sys2Proof/Machine/Agents.lean ====
section
/-!
DEFINITION. The cycle of one agent of a tick (R27 to R31, R36, R41, R381): the words of a task that issue, the word that is
fetched and delivered, the end of the task cycle; the word a link engine decodes.
-/
namespace Sys2Proof.Machine

/-! ### Issue (R31) -/

/-- The task cycle on which a queue's head issues. -/
def Slot.issueAt (t : Slot) (e : Nat) (q : QWord) : Nat :=
  if q.again then q.dcyc
  else
    let idle := match q.pfx.xidle with
      | some x => x.toNat
      | none => idleOf q.word
    max ((t.qnext[e]?.getD 0) + idle) q.dcyc

/-- The queue whose head issues next on the slot's present task cycle: of those due the earliest in stream order. -/
def Slot.dueHead (t : Slot) : Option (Nat × QWord) :=
  (List.range 6).foldl (fun best e => match t.queues[e]?.getD [] with
    | [] => best
    | q :: _ =>
      if t.tc < t.issueAt e q || (t.held && !t.holds q) then best
      else match best with
        | some (_, b) => if q.seq < b.seq then some (e, q) else best
        | none => some (e, q)) none

/-- The word leaves its queue and is the one being executed. One that issues again at its boundary takes a core cycle of
its own. -/
def State.takeHead (s : State) (c n e : Nat) (q : QWord) : State :=
  let t := s.slot c n
  let cyc := if t.holds q then q.dcyc else t.tc
  let s1 := s.setSlot c n { t with
    queues := t.queues.setIfInBounds e ((t.queues[e]?.getD []).drop 1)
    qnext := t.qnext.setIfInBounds e (cyc + 1)
    startAt := if t.holds q then (s.core c).cyc + 1 else t.startAt
    hstart := if n = 4 && t.hstart.isNone then some s.tick else t.hstart }
  let s2 := s1.updCore c fun k => { k with issued := k.issued ||| ((1 : BitVec 6) <<< e) }
  { (s2.count 1 c 1) with who := { core := c, slot := n, q := q, cyc := cyc } }

/-- The instruction of a word of a core stream, and of one in link program memory. -/
def coreInstr (w carried : Half) : Instr :=
  if engineOf w = 6 then .unassignedPattern w else (decode w carried).getD (.unassignedPattern w)

def linkInstr (w : Half) : Instr :=
  if engineOf w < 6 then .unassignedPattern w else (decode w 0).getD (.unassignedPattern w)

/-! ### Fetch and delivery (R27 to R30, R57, R58, R70) -/

/-- Has a queue room on this task cycle: a word that issues on it leaves its place for the next (R28)? -/
def Slot.room (t : Slot) (e : Nat) : Bool :=
  let gone := if t.tc < t.qnext[e]?.getD 0 then 1 else 0
  decide ((t.queues[e]?.getD []).length + gone < 32)

/-- What the sequencer does on a task cycle: nothing; a word into a queue; a word that is executed at its delivery. -/
inductive Fetch where
  | none
  | deliver (t : Slot)
  | atOnce (t : Slot) (q : QWord)
  deriving DecidableEq, Repr

/-- The word fetched at PC goes where its E field names. A CPYM is delivered with its carried word, whose fetch waits for room
in the queue (R28, R70). -/
def Slot.fetch (t : Slot) (w : Half) : Fetch :=
  let e := engineOf w
  let t1 := { t with pc := t.pc + 1, dnext := t.tc + 1 }
  let q : QWord := { word := w, idx := t.pc, seq := t.seqNext, dcyc := t.tc, pfx := t.latch[e]?.getD {} }
  let put := fun (t : Slot) (e : Nat) (q : QWord) =>
    { t with queues := t.queues.setIfInBounds e ((t.queues[e]?.getD []) ++ [q]) }
  if t.tc < t.dnext || t.stall then .none
  else match t.half with
    | some h =>
      if t.room 3 then .deliver { put t1 3 { h with dcyc := t.tc, carried := w } with half := none, seqNext := t.seqNext + 1 }
      else .none
    | none =>
      let t2 := { t1 with latch := t.latch.setIfInBounds e {}, seqNext := t.seqNext + 1 }
      if 6 ≤ e then .atOnce t1 { q with pfx := {} }
      else if isCpym w then .deliver { t2 with half := some q }
      else if !t.room e then .none
      else .deliver { put t2 e q with stall := stallsStream w }

/-! ### The task cycle -/

/-- A result that lands outside its slot's registers: a store, or a watchpoint of the interrupted task (R341). -/
def Landing.isOutside (l : Landing) : Bool :=
  l.isStore || match l.eff with
    | .wp .. => true
    | _ => false

/-- The handler slot is over: nothing of it is left to issue or to land, and its operations have joined. The
interrupted task goes on where RETT had to wait for that (R145, R260). What a handler that RETT ends has still on its way to its
own registers, or frozen, goes with the slot. -/
def State.endHandler (s : State) (c : Nat) : State :=
  let k := s.core c
  let h := k.hslot
  if h.st != .retiring then s
  else
    let s1 := if h.exited then s
      else s.setSlot c 4 { h with
        queues := Vector.replicate 6 [], latch := Vector.replicate 8 {}, half := none, stall := true
        freeze := none, behind := [], landings := h.landings.filter (·.isOutside) }
    let h1 := (s1.core c).hslot
    let open_ := !h1.landings.isEmpty || !h1.queues.toList.all (·.isEmpty) || h1.half.isSome || h1.flt.isSome
      || h1.freeze.isSome || (k.mats.any fun m => m.slot == 4) || k.handlerOps
    if open_ then s1
    else
      let s2 := match h.leaving with
        | some x => (s1.returnFromHandler c x).updSlot c h.hserve fun t => { t with startAt := max t.startAt (k.cyc + 1) }
        | none => s1
      s2.updCore c fun k => { k with
        hslot := { Slot.init with lvl := 1 }, ops := k.ops.filter fun o => o.slot != 4 || !o.finished }

/-- The end of a task cycle: a FENCE with nothing to wait for completes; YIELD gives way in E-mode where another slot is ready (R272). -/
def State.endUnit (s0 : State) (c n : Nat) : State :=
  let s := s0.fenceAtOnce c n
  let k := s.core c
  let t := k.slot n
  let away := t.yielding && n != 4 && t.st == .active && t.flt.isNone && t.freeze.isNone && (List.range 4).any (s.candidate c)
  let t1 := { t with
    tc := t.tc + 1, startAt := k.cyc + 1, yielding := false
    st := if away then .standby else t.st, ready := away || t.ready }
  let s1 := s.setCore c { (k.setSlot n t1) with cold := false }
  if n = 4 then s1.endHandler c else s1

/-- The end of a core's cycle, with what the counters make of it (R434). -/
def State.endCore (s : State) (c : Nat) : State :=
  let k := s.core c
  let s1 := if k.cold then s.count 2 c 1 else s
  let s2 := if k.cyc < k.mmaEnd then s1.count 3 c 1 else s1
  { s2 with todo := s2.todo.filter (· != c) }

/-- One action of a slot's task cycle: the next word that issues, or a word fetched, or the end of the cycle. -/
def State.slotAction (s : State) (c n : Nat) : State × Option Instr :=
  let issue := fun (s : State) (e : Nat) (q : QWord) => (s.takeHead c n e q, some (coreInstr q.word q.carried))
  match (s.slot c n).dueHead with
  | some (e, q) => issue s e q
  | none =>
    match (s.slot c n).fetch (s.imem c (s.slot c n).pc) with
    | .none => (s.endUnit c n, none)
    | .deliver t =>
      let s1 := s.setSlot c n t
      match t.dueHead with
      | some (e, q) => issue s1 e q
      | none => (s1, none)
    | .atOnce t q =>
      ({ s.setSlot c n t with who := { core := c, slot := n, q := q, cyc := t.tc } }, some (coreInstr q.word 0))

/-- The slot of a core whose task cycle is next, the handler slot first. -/
def State.nextUnit (s : State) (c : Nat) : Option Nat := [4, 0, 1, 2, 3].find? (s.runsCycle c)

/-- One action of a link engine's tick: its timed words, then the word it decodes (R381); in a stop of the package its PHY's alone (R437). -/
def State.linkAction (s : State) (n : Nat) : State × Option Instr :=
  let s1 := if s.gated then s.sendUnscheduled n else s.linkExecute n
  let s2 : State := { s1 with todo := s1.todo.filter (· != 64 + n) }
  if !s.gated && s2.linkDecodes n then
    let s3 := s2.linkFetch n
    (s3, some (linkInstr s3.who.q.word))
  else (s2, none)

/-- One action of the agents of a tick; the next tick once all have had their cycle. -/
def State.agentAction (s : State) : State × Option Instr :=
  match s.todo with
  | [] => (s.nextTick, none)
  | a :: _ =>
    if 64 ≤ a then s.linkAction (a - 64)
    else match s.nextUnit a with
      | some n => s.slotAction a n
      | none => (s.endCore a, none)

/-! ### Around the execution of a word -/

/-- A word is executed as if no other of its cycle had frozen the task: the task's own freezes stand aside, where EXIT still
sees their prefixes (R62). -/
def State.aside (s : State) : State :=
  if s.who.slot < 5 then
    { s.updCur fun t => { t with freeze := none, behind := [] } with who := { s.who with held := s.cur.frozenWords } }
  else s

/-- What a word of a core stream leaves: a freeze stands behind those of its cycle that are earlier in stream order; a
word that never issues and faults beside an earlier fault of the cycle is fetched again (R336). -/
def State.settled (s before : State) : State :=
  let old := before.cur
  if 5 ≤ s.who.slot then s
  else s.updCur fun t =>
    let t1 := match old.freeze with
      | some z => { t with freeze := some z, behind := old.behind ++ t.freeze.toList }
      | none => t
    if 6 ≤ engineOf s.who.q.word && old.flt.isSome && t1.latch == old.latch then
      { t1 with pc := s.who.q.idx, dnext := t1.tc + 1 }
    else t1

/-! ### An instruction as the next one -/

/-- Link engine 0 runs a program of one word and is to decode it. -/
def State.placeLink (s : State) (w : Half) : State :=
  let l := s.fab.link 0
  let s1 := s.setLink 0 { l with
    len := 1, run := true, started := true, frozen := false, pc := 0, decAt := s.tick, timed := [], lands := [], sends := [] }
  { s1 with mem := s1.mem.write (linkProgAddr 0) (bytesLE 4 w.toNat), phase := lastPhase, todo := [64] }

/-- Slot 0 of core 0 is ACTIVE at words 0 and 1 of the core's instruction memory, past every idle count. -/
def State.placeCore (s : State) (w carried : Half) : State :=
  let k := s.core 0
  let t := k.slot 0
  let t1 := { t with
    st := .active, pc := 0, queues := Vector.replicate 6 [], qnext := Vector.replicate 6 0, tc := 8, dnext := 8
    stall := false, half := none, landings := [], freeze := none, behind := [], flt := none, startAt := k.cyc, startTick := s.tick }
  let s1 := s.setCore 0 { (k.setSlot 0 t1) with hslot := { Slot.init with lvl := 1 }, mats := [] }
  { s1 with
    mem := s1.mem.write (localAddr 0 imemBase) (bytesLE 4 w.toNat ++ bytesLE 4 carried.toNat)
    phase := lastPhase, todo := [0] }

/-- A CPYM is fetched with its first word, and executed on the fetch of its carried word (R70). -/
def State.fetchFirst (s : State) : State :=
  match (s.slot 0 0).fetch (s.imem 0 0) with
  | .deliver t => s.setSlot 0 0 { t with tc := t.tc + 1 }
  | _ => s

/-- The instruction of a table word placed where the next step fetches it. -/
def State.placeWord (s : State) (nbits w : Nat) : State :=
  let first := BitVec.ofNat 32 w
  let second := BitVec.ofNat 32 (w / 2 ^ 32)
  let s0 := { s with inbox := [], turn := 0 }
  if nbits = 8 then { s0 with inbox := [decodeTap (w % 256)] }
  else if engineOf first = 6 ∨ (engineOf first = 7 ∧ fld w 23 3 = 6) then s0.placeLink first
  else if isCpym first then (s0.placeCore first second).fetchFirst
  else s0.placeCore first second

end Sys2Proof.Machine
end

