-- ==== Sys2Proof/Machine/Scalar.lean ====
section
/-!
DEFINITION. The S words (04): register arithmetic, immediates, comparisons and predicates, special registers,
scalar loads and stores, format slots, shapes, bounds, branches, calls and EXIT.
-/
namespace Sys2Proof.Machine

/-- A word that writes gd after L cycles (R116). -/
def toG (i : Instr) (L : Nat) (d : BitVec 6) (v : Word) (s : State) : Step :=
  coreWord i {} 0 s (.ok (s.land L (.g d.toNat v)))

/-- A word that writes pd whole one cycle later (R116). -/
def toP (i : Instr) (d : BitVec 6) (v : Word) (s : State) : Step :=
  coreWord i {} 0 s (.ok (s.land 1 (.p d.toNat v (BitVec.allOnes 64))))

/-- A word with a value immediate of n bits, XIMM allowed (R59, Table 4.2). -/
def immWord (i : Instr) (n : Nat) (sx : Bool) (imm : Nat) (s : State) (body : Word → Verdict) : Step :=
  let v := immediate s.who.q.pfx.ximm n sx imm
  coreWord i { ximm := true } 0 s (body (v.getD 0)) v.isSome

/-- A word that writes gd from a value immediate one cycle later. -/
def immToG (i : Instr) (n : Nat) (sx : Bool) (imm : Nat) (d : BitVec 6) (f : Word → Word)
    (s : State) : Step :=
  immWord i n sx imm s fun v => .ok (s.land 1 (.g d.toNat (f v)))

/-! ### Register arithmetic (R119 to R121) -/

def execAdd (d a b : BitVec 6) (s : State) : Step := toG (.add d a b) 1 d (s.g a + s.g b) s
def execSub (d a b : BitVec 6) (s : State) : Step := toG (.sub d a b) 1 d (s.g a - s.g b) s
def execAnd (d a b : BitVec 6) (s : State) : Step := toG (.and d a b) 1 d (s.g a &&& s.g b) s
def execOr (d a b : BitVec 6) (s : State) : Step := toG (.or d a b) 1 d (s.g a ||| s.g b) s
def execXor (d a b : BitVec 6) (s : State) : Step := toG (.xor d a b) 1 d (s.g a ^^^ s.g b) s

/-- The count of a shift: gb[5:0] (R119). -/
def shiftCount (x : Word) : Nat := x.toNat % 64

def execShl (d a b : BitVec 6) (s : State) : Step :=
  toG (.shl d a b) 1 d (s.g a <<< shiftCount (s.g b)) s
def execShr (d a b : BitVec 6) (s : State) : Step :=
  toG (.shr d a b) 1 d (s.g a >>> shiftCount (s.g b)) s
def execSha (d a b : BitVec 6) (s : State) : Step :=
  toG (.sha d a b) 1 d ((s.g a).sshiftRight (shiftCount (s.g b))) s
def execMul (d a b : BitVec 6) (s : State) : Step := toG (.mul d a b) 3 d (s.g a * s.g b) s

/-- Bits [127:64] of the product (R119): signed, unsigned, or signed ga by unsigned gb. -/
def mulHigh (sel : Nat) (x y : Word) : Word :=
  let p : Int := match sel with
    | 0 => x.toInt * y.toInt
    | 1 => (x.toNat : Int) * (y.toNat : Int)
    | _ => x.toInt * (y.toNat : Int)
  BitVec.ofInt 64 (p / 2 ^ 64)

def execMulh (d a b : BitVec 6) (m : BitVec 2) (s : State) : Step :=
  toG (.mulh d a b m) 3 d (mulHigh m.toNat (s.g a) (s.g b)) s

/-- The quotient rounded toward zero, with the values of Table 4.5. -/
def quotient (unsigned : Bool) (x y : Word) : Word :=
  if y = 0 then BitVec.allOnes 64
  else if unsigned then x / y
  else BitVec.ofInt 64 (x.toInt.tdiv y.toInt)

/-- The remainder, ga where gb is zero (Table 4.5). -/
def remainder (unsigned : Bool) (x y : Word) : Word :=
  if y = 0 then x
  else if unsigned then x % y
  else BitVec.ofInt 64 (x.toInt.tmod y.toInt)

def execDiv (d a b : BitVec 6) (m : BitVec 2) (s : State) : Step :=
  toG (.div d a b m) 18 d (quotient (m == 1) (s.g a) (s.g b)) s
def execRem (d a b : BitVec 6) (m : BitVec 2) (s : State) : Step :=
  toG (.rem d a b m) 18 d (remainder (m == 1) (s.g a) (s.g b)) s

/-- The order of a comparison: signed, or unsigned (R119, R124). -/
def below (unsigned : Bool) (x y : Word) : Bool := if unsigned then x.ult y else x.slt y

def execMin (d a b : BitVec 6) (m : BitVec 2) (s : State) : Step :=
  toG (.min d a b m) 1 d (if below (m == 1) (s.g b) (s.g a) then s.g b else s.g a) s
def execMax (d a b : BitVec 6) (m : BitVec 2) (s : State) : Step :=
  toG (.max d a b m) 1 d (if below (m == 1) (s.g a) (s.g b) then s.g b else s.g a) s

/-- The count of one bits. -/
def popCount (x : Word) : Nat := (List.range 64).countP fun i => x.getLsbD i

def execClz (d a : BitVec 6) (s : State) : Step :=
  toG (.clz d a) 1 d (BitVec.ofNat 64 (64 - bitlen (s.g a).toNat)) s
def execPopc (d a : BitVec 6) (s : State) : Step :=
  toG (.popc d a) 1 d (BitVec.ofNat 64 (popCount (s.g a))) s

/-- ga + (gb << s) (R119). -/
def execAddsh (d a b : BitVec 6) (m : BitVec 2) (s : State) : Step :=
  toG (.addsh d a b m) 1 d (s.g a + (s.g b <<< m.toNat)) s

/-- Position and length of a field descriptor (R121). -/
def fieldPos (b : Word) : Nat := b.toNat % 64
def fieldLen (b : Word) : Nat := min (b.toNat / 256 % 128) 64

/-- BFX (R121). -/
def bitExtract (x b : Word) : Word :=
  let len := fieldLen b
  let f := x.toNat / 2 ^ fieldPos b % 2 ^ len
  if b.getLsbD 15 then BitVec.ofInt 64 (signedOf len f) else BitVec.ofNat 64 f

/-- BFI (R121). -/
def bitInsert (old x b : Word) : Word :=
  let mask := BitVec.ofNat 64 ((2 ^ fieldLen b - 1) * 2 ^ fieldPos b)
  (old &&& ~~~mask) ||| ((x <<< fieldPos b) &&& mask)

def execBfx (d a b : BitVec 6) (s : State) : Step :=
  toG (.bfx d a b) 1 d (bitExtract (s.g a) (s.g b)) s
def execBfi (d a b : BitVec 6) (s : State) : Step :=
  toG (.bfi d a b) 1 d (bitInsert (s.g d) (s.g a) (s.g b)) s

/-! ### Immediates (R122, R123) -/

def execAddi (d a : BitVec 6) (imm : BitVec 8) (s : State) : Step :=
  immToG (.addi d a imm) 8 true imm.toNat d (s.g a + ·) s
def execAndi (d a : BitVec 6) (imm : BitVec 8) (s : State) : Step :=
  immToG (.andi d a imm) 8 true imm.toNat d (s.g a &&& ·) s
def execOri (d a : BitVec 6) (imm : BitVec 8) (s : State) : Step :=
  immToG (.ori d a imm) 8 false imm.toNat d (s.g a ||| ·) s
def execXori (d a : BitVec 6) (imm : BitVec 8) (s : State) : Step :=
  immToG (.xori d a imm) 8 false imm.toNat d (s.g a ^^^ ·) s
def execShli (d a imm : BitVec 6) (s : State) : Step :=
  toG (.shli d a imm) 1 d (s.g a <<< imm.toNat) s
def execShri (d a imm : BitVec 6) (s : State) : Step :=
  toG (.shri d a imm) 1 d (s.g a >>> imm.toNat) s
def execShai (d a imm : BitVec 6) (s : State) : Step :=
  toG (.shai d a imm) 1 d ((s.g a).sshiftRight imm.toNat) s
def execLi (d : BitVec 6) (imm : BitVec 14) (s : State) : Step :=
  immToG (.li d imm) 14 true imm.toNat d id s
def execLih (d : BitVec 6) (imm : BitVec 14) (s : State) : Step :=
  immToG (.lih d imm) 14 false imm.toNat d (fun v =>
    (v.extractLsb' 0 32) ++ ((s.g d).extractLsb' 0 32)) s

/-! ### Comparisons and predicates (R124 to R127) -/

/-- All ones where a relation holds. -/
def allIf (b : Bool) : Word := if b then BitVec.allOnes 64 else 0

def execCmpeq (p a b : BitVec 6) (s : State) : Step :=
  toP (.cmpeq p a b) p (allIf (s.g a == s.g b)) s
def execCmpne (p a b : BitVec 6) (s : State) : Step :=
  toP (.cmpne p a b) p (allIf (s.g a != s.g b)) s
def execCmplt (p a b : BitVec 6) (m : BitVec 2) (s : State) : Step :=
  toP (.cmplt p a b m) p (allIf (below (m == 1) (s.g a) (s.g b))) s
def execCmple (p a b : BitVec 6) (m : BitVec 2) (s : State) : Step :=
  toP (.cmple p a b m) p (allIf (!below (m == 1) (s.g b) (s.g a))) s
def execPand (d a b : BitVec 6) (m : BitVec 2) (s : State) : Step :=
  toP (.pand d a b m) d (s.p a &&& (if m = 0 then s.p b else ~~~(s.p b))) s
def execPor (d a b : BitVec 6) (m : BitVec 2) (s : State) : Step :=
  toP (.por d a b m) d (s.p a ||| (if m = 0 then s.p b else ~~~(s.p b))) s
def execPxor (d a b : BitVec 6) (m : BitVec 2) (s : State) : Step :=
  toP (.pxor d a b m) d (if m = 0 then s.p a ^^^ s.p b else ~~~(s.p a ^^^ s.p b)) s

/-- A prefix of n lanes, n clamped to 0 to 64 (R126). -/
def lanePrefix (n : Int) : Word := BitVec.ofNat 64 (2 ^ (min (max n 0) 64).toNat - 1)

def execPsetn (p a : BitVec 6) (imm : BitVec 8) (s : State) : Step :=
  immWord (.psetn p a imm) 8 false imm.toNat s fun v =>
    .ok (s.land 1 (.p p.toNat (lanePrefix ((s.g a).toInt + v.toInt)) (BitVec.allOnes 64)))
def execPcnt (d p : BitVec 6) (s : State) : Step :=
  toG (.pcnt d p) 1 d (BitVec.ofNat 64 (popCount (s.p p))) s
def execPmovg (d p : BitVec 6) (s : State) : Step := toG (.pmovg d p) 1 d (s.p p) s
def execPmovp (p a : BitVec 6) (s : State) : Step := toP (.pmovp p a) p (s.g a) s

/-! ### Work identifier and special registers (R128, R129) -/

def execWidf (d : BitVec 6) (imm : BitVec 14) (s : State) : Step :=
  let v := match s.cur.launch.bind s.job with
    | some j => j.field s.cur.wid imm.toNat
    | none => 0
  toG (.widf d imm) 1 d (BitVec.ofNat 64 v) s

def execMovs (d : BitVec 6) (imm : BitVec 14) (s : State) : Step :=
  coreWord (.movs d imm) {} 0 s (checked
    (faultIf (!specReadable imm.toNat s.cur.lvl.toNat) .privilege)
    (s.land 1 (.g d.toNat (s.readSpecial imm.toNat))))

/-- RMODE 5 to 7 and TDEAD 0 are refused (R24). -/
def specValueOk (n : Nat) (v : Word) : Bool :=
  !(n == 5 && decide (5 ≤ v.toNat % 8)) && !(n == 8 && v == 0)

def execMovsw (g : BitVec 6) (imm : BitVec 14) (s : State) : Step :=
  coreWord (.movsw g imm) {} 0 s (checked
    (firstFault [faultIf (!specWritable imm.toNat s.cur.lvl.toNat) .privilege,
      faultIf (!specValueOk imm.toNat (s.g g)) .reservedField])
    (s.land 1 (.spec imm.toNat (s.g g))))

/-! ### Scalar loads and stores (R130 to R136) -/

/-- Bytes of an access of a width code (R55). -/
def widthBytes (wd : BitVec 2) : Nat := 2 ^ wd.toNat

/-- The value a load forms: zero- or sign-extended (R133). -/
def loadValue (sx : Bool) (n raw : Nat) : Word :=
  if sx then BitVec.ofInt 64 (signedOf (8 * n) raw) else BitVec.ofNat 64 raw

def execSld (d a : BitVec 6) (cls : BitVec 4) (wd : BitVec 2) (sx : BitVec 1) (s : State) : Step :=
  let addr := (s.g a).toNat
  let n := widthBytes wd
  let r := s.loadMem ((List.range n).map (addr + ·))
  coreWord (.sld d a cls wd sx) {} 0 s (checked (s.localChecks false true addr n n)
    (r.2.land 4 (.g d.toNat (loadValue (sx == 1) n (r.1.nat (localAddr s.who.core addr) n)))))

def execSst (d a : BitVec 6) (cls : BitVec 4) (wd : BitVec 2) (s : State) : Step :=
  let addr := (s.g a).toNat
  let n := widthBytes wd
  coreWord (.sst d a cls wd) {} 0 s (checked (s.localChecks true false addr n n)
    (s.land 2 (.store (bytesToMasked addr (bytesLE n (s.g d).toNat))) (some cls.toNat)))

def execFslot (f a : BitVec 6) (imm : BitVec 8) (s : State) : Step :=
  immWord (.fslot f a imm) 8 false imm.toNat s fun v =>
    .ok (s.land 1 (.fs f.toNat (BitVec.ofNat 8 (s.g a + v).toNat)))

def execShld (h a : BitVec 6) (imm : BitVec 8) (s : State) : Step :=
  immWord (.shld h a imm) 8 true imm.toNat s fun v =>
    let addr := (s.g a + v * 32).toNat
    let r := s.loadMem ((List.range 32).map (addr + ·))
    checked (s.localChecks false true addr 32 32)
      (r.2.land 4 (.sh h.toNat (BitVec.ofNat 256 (r.1.nat (localAddr s.who.core addr) 32)) (BitVec.allOnes 256)))

def execShst (h a : BitVec 6) (imm : BitVec 8) (s : State) : Step :=
  immWord (.shst h a imm) 8 true imm.toNat s fun v =>
    let addr := (s.g a + v * 32).toNat
    checked (s.localChecks true false addr 32 32)
      (s.land 2 (.store (bytesToMasked addr (bytesLE 32 (s.sh h).toNat))) (some 0))

def execShset (h a : BitVec 6) (imm : BitVec 4) (s : State) : Step :=
  let m := shapeMerge imm.toNat (s.g a)
  coreWord (.shset h a imm) {} 0 s (.ok (s.land 1 (.sh h.toNat m.1 m.2)))
def execShget (d h : BitVec 6) (imm : BitVec 4) (s : State) : Step :=
  toG (.shget d h imm) 1 d (shapeGet imm.toNat (s.sh h)) s
def execBndset (n a g : BitVec 6) (m : BitVec 2) (s : State) : Step :=
  coreWord (.bndset n a g m) {} 0 s
    (.ok (s.land 1 (.bnd n.toNat { lo := s.g a, hi := s.g g, act := m })))

/-! ### Targets, branches and calls (R139 to R142) -/

/-- A target register is loaded: its value lands one cycle later, the load counts from issue (R139). -/
def State.loadTarget (s : State) (t : Nat) (v : WordIdx) : State :=
  (s.land 1 (.t t v)).updCur fun x =>
    { x with regs := { x.regs with tAt := x.regs.tAt.setIfInBounds t (some s.who.cyc) } }

def execPbr (t : BitVec 3) (o : BitVec 17) (s : State) : Step :=
  immWord (.pbr t o) 17 true o.toNat s fun v =>
    .ok (s.loadTarget t.toNat (s.who.q.idx + BitVec.ofInt 15 v.toInt))
def execPbrg (t a : BitVec 6) (imm : BitVec 8) (s : State) : Step :=
  immWord (.pbrg t a imm) 8 true imm.toNat s fun v =>
    .ok (s.loadTarget t.toNat (BitVec.ofNat 15 (s.g a + v).toNat))

def execTmov (d t : BitVec 6) (m : BitVec 2) (s : State) : Step :=
  let v := s.cur.regs.readT t.toNat
  coreWord (.tmov d t m) {} 0 s
    (.ok (if m = 0 then s.loadTarget d.toNat v else s.land 1 (.g d.toNat (v.setWidth 64))))

/-- Does BR take the branch (R140)? -/
def taken (cond : BitVec 2) (p : Word) : Bool :=
  match cond.toNat with
  | 0 => p != 0
  | 1 => p == BitVec.allOnes 64
  | 2 => p == 0
  | _ => p.getLsbD 0

/-- The last word that loaded tt issued at or before cyc - 3 (R141); a target never loaded is not ready. -/
def targetReady (r : Regs) (t cyc : Nat) : Bool :=
  match r.tAt[t]?.getD none with
  | some a => decide (a + 3 ≤ cyc)
  | none => false

/-- Every write to pp by a word that issued earlier has landed (R141). -/
def predReady (x : Slot) (p cyc : Nat) : Bool :=
  p == 0 || !x.landings.any fun l => decide (l.iss < cyc) && match l.eff with
    | .p r _ _ => r == p
    | _ => false

/-- The stream goes on at an index with no bubble or with three cycles' bubble (R30). -/
def State.redirect (s : State) (pc : WordIdx) (ready : Bool) : State :=
  s.updCur fun x => { x with pc := pc, stall := false, dnext := s.who.cyc + (if ready then 1 else 4) }

def execBr (p : BitVec 6) (t : BitVec 3) (cond : BitVec 2) (s : State) : Step :=
  let ready := targetReady s.cur.regs t.toNat s.who.cyc && predReady s.cur p.toNat s.who.cyc
  coreWord (.br p t cond) {} 0 s (.ok
    (if taken cond (s.p p) then s.redirect (s.cur.regs.readT t.toNat) ready
     else s.redirect s.cur.pc true))

def execCall (d t : BitVec 6) (s : State) : Step :=
  coreWord (.call d t) {} 0 s (.ok
    ((s.land 1 (.g d.toNat ((s.who.q.idx + 1).setWidth 64))).redirect (s.cur.regs.readT t.toNat)
      (targetReady s.cur.regs t.toNat s.who.cyc)))

/-! ### EXIT (R143 to R145) -/

/-- A prefix still latched for an engine other than S: undelivered, or of a word that has not issued
(R58, R62). -/
def otherPrefix (t : Slot) : Bool :=
  (List.range 8).any (fun e => e != 0 && (t.latch[e]?.getD {}) != {})
    || (List.range 6).any fun e => e != 0 && (t.queues[e]?.getD []).any fun q => q.pfx != {}

/-- The same, and the prefixes of a word frozen, not completed, on the present cycle (R58, R62). -/
def State.prefixLeft (s : State) : Bool := otherPrefix s.cur || s.who.held.any fun z => z.q.pfx != {}

/-- The slot enters RETIRING; in the handler slot the interrupted task does (R143, R145). -/
def State.exitTask (s : State) (code : BitVec 20) : State :=
  if s.inHandler then
    (s.exitFromHandler s.who.core code).updCur fun t => { t with st := .retiring, exited := true }
  else s.updCur fun t => { t with st := .retiring, exited := true, xcode := code }

def execExit (code : BitVec 20) (s : State) : Step :=
  coreWord (.exit code) {} 0 s (checked (faultIf s.prefixLeft .xprefix) (s.exitTask code))

end Sys2Proof.Machine
end

