-- ==== Sys2Proof/Machine/Special.lean ====
section
/-!
DEFINITION. The correctly rounded special functions VSQRT, VREC, VRSQ, VEXP2 and VLOG2 (R155, Table
5.3): each gives an infinitely precise value (exact, or strictly between two units far below the last
kept bit), which ENCODE rounds once (R151).
-/
namespace Sys2Proof.Machine

/-- Newton's descent for the integer square root, from a start at or above it. -/
def isqrtFrom (n : Nat) : Nat → Nat → Nat
  | 0, x => x
  | fuel + 1, x =>
    let y := (x + n / x) / 2
    if y < x then isqrtFrom n fuel y else x

/-- The integer square root: the greatest r with r × r ≤ n. -/
def isqrt (n : Nat) : Nat :=
  if n = 0 then 0 else isqrtFrom n (bitlen n + 2) (2 ^ ((bitlen n + 1) / 2))

/-- √(m × 2^q) for m > 0. -/
def sqrtVal (m : Nat) (q : Int) : Val :=
  let k : Nat := 80 + (if (q - 80) % 2 = 0 then 0 else 1)
  let n := m * 2 ^ k
  let r := isqrt n
  ⟨.num, false, r, (q - k) / 2, decide (r * r ≠ n)⟩

/-- 1 ÷ √(m × 2^q) for m > 0: ⌊2^b ÷ √m'⌋ with q' even, scaled. -/
def rsqrtVal (m : Nat) (q : Int) : Val :=
  let odd : Bool := decide (q % 2 ≠ 0)
  let m' := if odd then 2 * m else m
  let q' := if odd then q - 1 else q
  let b := 48 + bitlen m'
  let n := 2 ^ (2 * b)
  let r := isqrt (n / m')
  ⟨.num, false, r, -(q' / 2) - b, decide (r * r * m' ≠ n)⟩

/-- Lower and upper bounds, in units of 2^−p, of the product of 2^(2^−i) over the set bits of a
fraction, the first bit being worth 1/2. -/
def exp2Bounds (p : Nat) : List Bool → Nat × Nat → Nat × Nat → Nat × Nat
  | [], _, acc => acc
  | b :: bs, root, acc =>
    let root' := (isqrt (root.1 * 2 ^ p), isqrt (root.2 * 2 ^ p) + 1)
    let acc' := if b then (acc.1 * root'.1 / 2 ^ p, acc.2 * root'.2 / 2 ^ p + 1) else acc
    exp2Bounds p bs root' acc'

/-- The fraction bits of f / 2^n, most significant first. -/
def fracBits (f n : Nat) : List Bool := (List.range n).map fun i => f.testBit (n - 1 - i)

/-- 2^(f / 2^n) in [1, 2) to 64 fraction bits, at the first working precision whose bounds agree;
2^f is irrational for such an f, so it lies strictly between. -/
def exp2Frac (f n : Nat) : List Nat → Nat
  | [] => 2 ^ 64
  | p :: ps =>
    let one := 2 ^ p
    let r := exp2Bounds p (fracBits f n) (2 * one, 2 * one) (one, one)
    let lo := r.1 / 2 ^ (p - 64)
    let hi := r.2 / 2 ^ (p - 64)
    if lo = hi ∨ ps.isEmpty then lo else exp2Frac f n ps

/-- 2^x for a finite non-zero x = (−1)^s m 2^q. -/
def exp2Val (s : Bool) (m : Nat) (q : Int) : Val :=
  if 0 ≤ q ∨ 0 < q + bitlen m then
    if 30 < q + bitlen m then
      -- |x| ≥ 2^30: beyond every exponent of every entry, on either side
      ⟨.num, false, 1, if s then -(2 ^ 29) else 2 ^ 29, true⟩
    else
      let n : Nat := (-q).toNat
      let mag := if 0 ≤ q then m * 2 ^ q.toNat else m
      let x : Int := if s then -(mag : Int) else mag
      let int := Int.fdiv x (2 ^ n)
      let f := (x - int * 2 ^ n).toNat
      if f = 0 then ⟨.num, false, 1, int, false⟩
      else ⟨.num, false, exp2Frac f n [128, 256, 512], int - 64, true⟩
  else if q + bitlen m ≤ -40 then
    -- |x| < 2^−40: 2^x differs from 1 by less than 2^−40
    if s then ⟨.num, false, 2 ^ 39 - 1, -39, true⟩ else ⟨.num, false, 2 ^ 38, -38, true⟩
  else
    let n : Nat := (-q).toNat
    let f := if s then 2 ^ n - m else m
    ⟨.num, false, exp2Frac f n [128, 256, 512], (if s then -1 else 0) - 64, true⟩

/-- Binary digits of log2 of y / 2^w in [1, 2), by squaring, most significant first: each step keeps
a lower and an upper bound; `none` when a digit is not decided. -/
def log2Digits (w : Nat) : Nat → Nat → Nat → Nat → Option Nat
  | 0, _, _, acc => some acc
  | fuel + 1, lo, hi, acc =>
    let l2 := lo * lo / 2 ^ w
    let h2 := hi * hi / 2 ^ w + 1
    let two := 2 * 2 ^ w
    if two ≤ l2 then log2Digits w fuel (l2 / 2) (h2 / 2 + 1) (2 * acc + 1)
    else if h2 < two then log2Digits w fuel l2 h2 (2 * acc)
    else none

/-- 96 digits of log2 of m / 2^(bitlen m − 1), at the first working precision that decides them. -/
def log2Frac (m : Nat) : List Nat → Nat
  | [] => 0
  | w :: ws =>
    let y := m * 2 ^ (w - (bitlen m - 1))
    match log2Digits w 96 y y 0 with
    | some d => d
    | none => log2Frac m ws

/-- log2 (m × 2^q) for m > 0: exact when m is a power of two, irrational otherwise. -/
def log2Val (m : Nat) (q : Int) : Val :=
  let e := q + bitlen m - 1
  if m = 2 ^ (bitlen m - 1) then Val.ofInt e
  else
    let t := e * 2 ^ 96 + log2Frac m [256, 512, 1024]
    if 0 ≤ t then ⟨.num, false, t.toNat, -96, true⟩
    else ⟨.num, true, (-t).toNat - 1, -96, true⟩

/-- The special functions of R155. -/
inductive Special where
  | sqrt | recip | rsq | exp2 | log2
  deriving DecidableEq, Repr

/-- Table 5.3. -/
def special (op : Special) (x : Val) : Res :=
  if x.isNan then (Val.nan, flagNone)
  else
    match op with
    | .sqrt =>
      if x.isZero then (x, flagNone)
      else if x.s then (Val.nan, flagINV)
      else if x.isInf then (x, flagNone)
      else (sqrtVal x.m x.q, flagNone)
    | .recip =>
      if x.isZero then (Val.inf x.s, flagNone)
      else if x.isInf then (Val.zero x.s, flagNone)
      else vDiv (Val.ofNat 1) x
    | .rsq =>
      if x.isZero then (Val.inf x.s, flagNone)
      else if x.s then (Val.nan, flagINV)
      else if x.isInf then (Val.zero false, flagNone)
      else (rsqrtVal x.m x.q, flagNone)
    | .exp2 =>
      if x.isInf then (if x.s then (Val.zero false, flagNone) else (x, flagNone))
      else if x.isZero then (Val.ofNat 1, flagNone)
      else (exp2Val x.s x.m x.q, flagNone)
    | .log2 =>
      if x.isZero then (Val.inf true, flagNone)
      else if x.s then (Val.nan, flagINV)
      else if x.isInf then (x, flagNone)
      else (log2Val x.m x.q, flagNone)

/-- One lane of a special function (R155). -/
def laneSpecial (op : Special) (e : Fmt) (mode : Rounding) (x : Nat) : Nat × Flags :=
  encodeRes e mode (special op (e.decode x))

end Sys2Proof.Machine
end

