-- ==== Sys2Proof/Machine/Vector.lean ====
section
/-!
DEFINITION. The V words (05): lane arithmetic under format entries, logic and shifts, comparisons and
predicates, moves, reductions and scans, vector loads and stores, the hitch mix and bound checks.
-/
namespace Sys2Proof.Machine

/-! ### Common rules (R147 to R149) -/

/-- The number and entry a format slot names. -/
def State.fsNo {w : Nat} (s : State) (fs : BitVec w) : Nat := s.cur.regs.readFs fs.toNat
def State.fsFmt {w : Nat} (s : State) (fs : BitVec w) : Fmt := s.me.fmt (s.fsNo fs)

/-- FORMAT_ILLEGAL of a slot whose entry is illegal (R89), or of a kind the word does not take. -/
def State.fsCheck {w : Nat} (s : State) (fs : BitVec w) (kindOk : Fmt → Bool := fun _ => true) :
    Option Raised :=
  faultIf (!s.me.entryOk (s.fsNo fs) || !kindOk (s.fsFmt fs)) .formatIllegal

/-- Compute the governed lanes (R148): their bits and the OR of their flags. -/
def governed (vgp : Word) (f : Nat → Nat × Flags) : List Half × Flags :=
  let xs := (List.range 64).map fun n => if vgp.getLsbD n then f n else (0, 0)
  (xs.map fun x => BitVec.ofNat 32 x.1, xs.foldl (fun a x => a ||| x.2) 0)

/-- A word that writes the governed lanes of vd after L cycles (R22, R148). -/
def toV (i : Instr) (rule : PfxRule) (L : Nat) (d : BitVec 5) (chk : Option Raised)
    (f : Nat → Nat × Flags) (s : State) : Step :=
  let r := governed s.cur.regs.vgp f
  coreWord i rule 0 s (checked chk
    ((s.land L (.v d.toNat r.1 s.cur.regs.vgp)).landFlags L r.2))

/-- Lane n of a source; of vb, lane 0 under `.vl0` (R150). -/
def srcLane (xs : List Half) (n : Nat) : Nat := (lane xs n).toNat
def srcLane0 (m : BitVec 2) (xs : List Half) (n : Nat) : Nat := srcLane xs (if m = 1 then 0 else n)

/-! ### Arithmetic (R151 to R158) -/

def arith2Word (i : Instr) (op : Arith2) (rounds : Bool) (L : Nat) (d a b : BitVec 5) (fs : BitVec 3)
    (m : BitVec 2) (s : State) : Step :=
  let e := s.fsFmt fs
  toV i { rounds := rounds } L d (s.fsCheck fs)
    (fun n => laneArith2 op e s.mode (srcLane (s.v a) n) (srcLane0 m (s.v b) n)) s

def execVadd (d a b : BitVec 5) (fs : BitVec 3) (m : BitVec 2) (s : State) : Step :=
  arith2Word (.vadd d a b fs m) .add true 4 d a b fs m s
def execVsub (d a b : BitVec 5) (fs : BitVec 3) (m : BitVec 2) (s : State) : Step :=
  arith2Word (.vsub d a b fs m) .sub true 4 d a b fs m s
def execVmul (d a b : BitVec 5) (fs : BitVec 3) (m : BitVec 2) (s : State) : Step :=
  arith2Word (.vmul d a b fs m) .mul true 5 d a b fs m s
def execVmin (d a b : BitVec 5) (fs : BitVec 3) (m : BitVec 2) (s : State) : Step :=
  arith2Word (.vmin d a b fs m) .min false 4 d a b fs m s
def execVmax (d a b : BitVec 5) (fs : BitVec 3) (m : BitVec 2) (s : State) : Step :=
  arith2Word (.vmax d a b fs m) .max false 4 d a b fs m s
def execVdiv (d a b : BitVec 5) (fs : BitVec 3) (m : BitVec 2) (s : State) : Step :=
  arith2Word (.vdiv d a b fs m) .div true 14 d a b fs m s

/-- The FMA family reads the old lane of vd as the third operand (R154). -/
def fmaWord (i : Instr) (negProd negAdd : Bool) (d a b : BitVec 5) (fs : BitVec 3) (m : BitVec 2)
    (s : State) : Step :=
  let e := s.fsFmt fs
  toV i { rounds := true } 5 d (s.fsCheck fs)
    (fun n => laneFma e s.mode negProd negAdd (srcLane (s.v a) n) (srcLane0 m (s.v b) n)
      (srcLane (s.v d) n)) s

def execVfma (d a b : BitVec 5) (fs : BitVec 3) (m : BitVec 2) (s : State) : Step :=
  fmaWord (.vfma d a b fs m) false false d a b fs m s
def execVfms (d a b : BitVec 5) (fs : BitVec 3) (m : BitVec 2) (s : State) : Step :=
  fmaWord (.vfms d a b fs m) false true d a b fs m s
def execVfnma (d a b : BitVec 5) (fs : BitVec 3) (m : BitVec 2) (s : State) : Step :=
  fmaWord (.vfnma d a b fs m) true false d a b fs m s

/-- The special functions take KIND 1 only (R155). -/
def specialWord (i : Instr) (op : Special) (d a : BitVec 5) (fs : BitVec 3) (s : State) : Step :=
  let e := s.fsFmt fs
  toV i { rounds := true } 14 d (s.fsCheck fs (·.kind == .float))
    (fun n => laneSpecial op e s.mode (srcLane (s.v a) n)) s

def execVsqrt (d a : BitVec 5) (fs : BitVec 3) (s : State) : Step :=
  specialWord (.vsqrt d a fs) .sqrt d a fs s
def execVrec (d a : BitVec 5) (fs : BitVec 3) (s : State) : Step :=
  specialWord (.vrec d a fs) .recip d a fs s
def execVrsq (d a : BitVec 5) (fs : BitVec 3) (s : State) : Step :=
  specialWord (.vrsq d a fs) .rsq d a fs s
def execVexp2 (d a : BitVec 5) (fs : BitVec 3) (s : State) : Step :=
  specialWord (.vexp2 d a fs) .exp2 d a fs s
def execVlog2 (d a : BitVec 5) (fs : BitVec 3) (s : State) : Step :=
  specialWord (.vlog2 d a fs) .log2 d a fs s

def execVabs (d a : BitVec 5) (fs : BitVec 3) (s : State) : Step :=
  toV (.vabs d a fs) {} 4 d (s.fsCheck fs)
    (fun n => laneAbs (s.fsFmt fs) s.mode (srcLane (s.v a) n)) s
def execVneg (d a : BitVec 5) (fs : BitVec 3) (s : State) : Step :=
  toV (.vneg d a fs) {} 4 d (s.fsCheck fs)
    (fun n => laneNeg (s.fsFmt fs) s.mode (srcLane (s.v a) n)) s
def execVscl (d a b : BitVec 5) (fs : BitVec 3) (m : BitVec 2) (s : State) : Step :=
  toV (.vscl d a b fs m) { rounds := true } 4 d (s.fsCheck fs)
    (fun n => laneScl (s.fsFmt fs) s.mode (srcLane (s.v a) n)
      (signedOf 32 (srcLane0 m (s.v b) n))) s

/-- Identical entries copy the TW bits; others convert (R158). -/
def execVcvt (d a : BitVec 5) (fsrc fs : BitVec 3) (s : State) : Step :=
  let ea := s.fsFmt fsrc
  let eb := s.fsFmt fs
  toV (.vcvt d a fsrc fs) { rounds := true } 4 d (firstFault [s.fsCheck fsrc, s.fsCheck fs])
    (fun n =>
      let x := srcLane (s.v a) n
      if s.fsNo fsrc = s.fsNo fs then (x % 2 ^ ea.tw, 0) else convert ea eb x s.mode) s

/-! ### Logic and shifts (R159, R160) -/

def logicWord (i : Instr) (op : Half → Half → Half) (d a b : BitVec 5) (m : BitVec 2)
    (s : State) : Step :=
  toV i {} 4 d none
    (fun n => ((op (lane (s.v a) n) (lane (s.v b) (if m = 1 then 0 else n))).toNat, 0)) s

def execVand (d a b : BitVec 5) (m : BitVec 2) (s : State) : Step :=
  logicWord (.vand d a b m) (· &&& ·) d a b m s
def execVor (d a b : BitVec 5) (m : BitVec 2) (s : State) : Step :=
  logicWord (.vor d a b m) (· ||| ·) d a b m s
def execVxor (d a b : BitVec 5) (m : BitVec 2) (s : State) : Step :=
  logicWord (.vxor d a b m) (· ^^^ ·) d a b m s

def shiftWord (i : Instr) (op : Nat → Nat → Nat → Nat) (d a b : BitVec 5) (fs : BitVec 3)
    (m : BitVec 2) (s : State) : Step :=
  let tw := (s.fsFmt fs).tw
  toV i {} 4 d (s.fsCheck fs (·.kind != .float))
    (fun n => (op tw (srcLane (s.v a) n % 2 ^ tw) (srcLane0 m (s.v b) n % 64), 0)) s

def execVshl (d a b : BitVec 5) (fs : BitVec 3) (m : BitVec 2) (s : State) : Step :=
  shiftWord (.vshl d a b fs m) (fun tw x c => x * 2 ^ c % 2 ^ tw) d a b fs m s
def execVshr (d a b : BitVec 5) (fs : BitVec 3) (m : BitVec 2) (s : State) : Step :=
  shiftWord (.vshr d a b fs m) (fun _ x c => x / 2 ^ c) d a b fs m s
def execVsha (d a b : BitVec 5) (fs : BitVec 3) (m : BitVec 2) (s : State) : Step :=
  shiftWord (.vsha d a b fs m)
    (fun tw x c => (signedOf tw x / 2 ^ c % 2 ^ tw).toNat) d a b fs m s

/-! ### Comparisons, selection, predicates (R161 to R164) -/

def compareWord (i : Instr) (r : Rel) (p : BitVec 6) (a b : BitVec 5) (fs : BitVec 3)
    (s : State) : Step :=
  let e := s.fsFmt fs
  let res := (List.range 64).map fun n =>
    if s.cur.regs.vgp.getLsbD n then
      relHolds r (e.decode (srcLane (s.v a) n)) (e.decode (srcLane (s.v b) n))
    else (false, 0)
  let bits := BitVec.ofBoolListLE (res.map (·.1))
  coreWord i {} 0 s (checked (s.fsCheck fs)
    ((s.land 4 (.p p.toNat (bits.setWidth 64) s.cur.regs.vgp)).landFlags 4
      (res.foldl (fun f x => f ||| x.2) 0)))

def execVcmpeq (p : BitVec 6) (a b : BitVec 5) (fs : BitVec 3) (s : State) : Step :=
  compareWord (.vcmpeq p a b fs) .eq p a b fs s
def execVcmpne (p : BitVec 6) (a b : BitVec 5) (fs : BitVec 3) (s : State) : Step :=
  compareWord (.vcmpne p a b fs) .ne p a b fs s
def execVcmplt (p : BitVec 6) (a b : BitVec 5) (fs : BitVec 3) (s : State) : Step :=
  compareWord (.vcmplt p a b fs) .lt p a b fs s
def execVcmple (p : BitVec 6) (a b : BitVec 5) (fs : BitVec 3) (s : State) : Step :=
  compareWord (.vcmple p a b fs) .le p a b fs s
def execVcmpun (p : BitVec 6) (a b : BitVec 5) (fs : BitVec 3) (s : State) : Step :=
  compareWord (.vcmpun p a b fs) .un p a b fs s

def execVsel (d a b pn : BitVec 5) (s : State) : Step :=
  toV (.vsel d a b pn) {} 4 d none
    (fun n => (srcLane (if (s.p pn).getLsbD n then s.v a else s.v b) n, 0)) s
def execVpred (p : BitVec 6) (s : State) : Step :=
  coreWord (.vpred p) {} 0 s (.ok (s.land 1 (.vgp (s.p p))))
def execVclass (d a : BitVec 5) (fs : BitVec 3) (s : State) : Step :=
  toV (.vclass d a fs) {} 4 d (s.fsCheck fs)
    (fun n => (classMask (s.fsFmt fs) (srcLane (s.v a) n), 0)) s

/-! ### Moving lanes (R165 to R169) -/

def execVbcast (d : BitVec 5) (g : BitVec 6) (fs : BitVec 3) (m : BitVec 2) (s : State) : Step :=
  let e := s.fsFmt fs
  let x := s.g g
  toV (.vbcast d g fs m) { rounds := m != 0 } 4 d (if m = 0 then none else s.fsCheck fs)
    (fun _ =>
      if m = 0 then (x.toNat % 2 ^ 32, 0)
      else e.encode (if m = 1 then Val.ofInt x.toInt else Val.ofNat x.toNat) s.mode) s

def execVlane (va : BitVec 5) (g : BitVec 6) (nh : BitVec 4) (nl : BitVec 2) (s : State) : Step :=
  coreWord (.vlane va g nh nl) {} 0 s
    (.ok (s.land 4 (.g g.toNat ((lane (s.v va) (nh.toNat * 4 + nl.toNat)).setWidth 64))))

def execViota (d : BitVec 5) (fs : BitVec 3) (m : BitVec 2) (s : State) : Step :=
  toV (.viota d fs m) { rounds := true } 4 d (s.fsCheck fs)
    (fun n => (s.fsFmt fs).encode (Val.ofNat (if m = 0 then n else 63 - n)) s.mode) s

def execVperm (d a b : BitVec 5) (m : BitVec 2) (s : State) : Step :=
  toV (.vperm d a b m) {} 4 d none
    (fun n =>
      let x := srcLane (s.v b) n
      if m = 1 ∧ x ≥ 2 ^ 31 then (0, 0) else (srcLane (s.v a) (x % 64), 0)) s

def execVrot (d a k : BitVec 5) (up hi : BitVec 1) (s : State) : Step :=
  let n0 := hi.toNat * 32 + k.toNat
  toV (.vrot d a k up hi) {} 4 d none
    (fun n => (srcLane (s.v a) ((if up = 1 then n + 64 - n0 else n + n0) % 64), 0)) s

/-! ### Reductions and scans (R108, R109, R170, R171) -/

/-- One level of the pairwise tree: an absent input passes the other unrounded (R108), a NaN as the canonical one (R170). -/
def treeLevel (op : Nat → Nat → Nat × Flags) (lone : Nat → Nat) : List (Option Nat) → List (Option Nat) × Flags
  | x :: y :: t =>
    let r := treeLevel op lone t
    match x, y with
    | some a, some b => let q := op a b; (some q.1 :: r.1, q.2 ||| r.2)
    | some a, none => (some (lone a) :: r.1, r.2)
    | none, y => (y.map lone :: r.1, r.2)
  | xs => (xs, 0)

/-- Levels of the tree. -/
def treeLevels (op : Nat → Nat → Nat × Flags) (lone : Nat → Nat) : Nat → List (Option Nat) → List (Option Nat) × Flags
  | 0, xs => (xs, 0)
  | k + 1, xs =>
    let r := treeLevel op lone xs
    let q := treeLevels op lone k r.1
    (q.1, r.2 ||| q.2)

/-- What a node with one input makes of it: a NaN becomes canonical, any other value is exact (R108, R170). -/
def Fmt.loneNode (e : Fmt) (x : Nat) : Nat := if (e.decode x).isNan then e.nanCode else x

/-- The governed lanes of va, low TW bits (R170). -/
def presentLanes (vgp : Word) (tw : Nat) (xs : List Half) : List (Option Nat) :=
  (List.range 64).map fun n => if vgp.getLsbD n then some (srcLane xs n % 2 ^ tw) else none

def reduceWord (i : Instr) (op : Arith2) (rounds : Bool) (d a : BitVec 5) (fs : BitVec 3)
    (m : BitVec 2) (s : State) : Step :=
  let e := s.fsFmt fs
  let r := treeLevels (laneArith2 op e s.mode) e.loneNode 6 (presentLanes s.cur.regs.vgp e.tw (s.v a))
  let v := match r.1 with
    | some x :: _ => x
    | _ => (e.encode (Val.zero false) s.mode).1
  coreWord i { rounds := rounds } 0 s (checked (s.fsCheck fs)
    ((s.land 8 (.v d.toNat (List.replicate 64 (BitVec.ofNat 32 v))
      (if m = 0 then 1 else BitVec.allOnes 64))).landFlags 8 r.2))

def execVredsum (d a : BitVec 5) (fs : BitVec 3) (m : BitVec 2) (s : State) : Step :=
  reduceWord (.vredsum d a fs m) .add true d a fs m s
def execVredmax (d a : BitVec 5) (fs : BitVec 3) (m : BitVec 2) (s : State) : Step :=
  reduceWord (.vredmax d a fs m) .max false d a fs m s
def execVredmin (d a : BitVec 5) (fs : BitVec 3) (m : BitVec 2) (s : State) : Step :=
  reduceWord (.vredmin d a fs m) .min false d a fs m s

/-- The running values in ascending lane order, and the flags of the steps (R109). -/
def scanLanes (op : Nat → Nat → Nat × Flags) :
    Option Nat → List (Option Nat) → List Nat × Flags
  | _, [] => ([], 0)
  | acc, none :: t => let r := scanLanes op acc t; (0 :: r.1, r.2)
  | none, some x :: t => let r := scanLanes op (some x) t; (x :: r.1, r.2)
  | some a, some x :: t =>
    let q := op a x
    let r := scanLanes op (some q.1) t
    (q.1 :: r.1, q.2 ||| r.2)

def execVscan (d a : BitVec 5) (fs : BitVec 3) (m : BitVec 2) (s : State) : Step :=
  let e := s.fsFmt fs
  let op : Arith2 := if m = 0 then .add else if m = 1 then .max else .min
  let r := scanLanes (laneArith2 op e s.mode) none (presentLanes s.cur.regs.vgp e.tw (s.v a))
  coreWord (.vscan d a fs m) { rounds := m == 0 } 0 s (checked (s.fsCheck fs)
    ((s.land 10 (.v d.toNat (r.1.map (BitVec.ofNat 32)) s.cur.regs.vgp)).landFlags 10 r.2))

/-! ### Loads and stores (R172 to R177) -/

/-- XMOD before a store: PAY[4] is BE and PAY[8:5] is BN (R149). -/
def storeRule : PfxRule := { mods := fun m => m.toNat < 32 }
def Pfx.be (p : Pfx) : Bool := p.mods.getLsbD 0
def Pfx.bn (p : Pfx) : Nat := (p.mods.extractLsb' 1 4).toNat

/-- Store elements, checked against a bound register under BE (R176). -/
def State.storeElems (s : State) (L cls : Nat) (fmt : Word) (xs : List Elem) : State :=
  if s.who.q.pfx.be then s.land L (.checked fmt s.who.q.pfx.bn xs) (some cls)
  else s.land L (.store (xs.flatMap fun x => scatter x.pieces x.bits)) (some cls)

/-- A range a word may reach at all (Table 5.6): outside it the access leaves the granted part (R172). The address reported is the run's
start, also where only its end lies outside: DESIGN CHOICE (log 27). -/
def rangeFault (a len lo hi : Nat) : Option Raised :=
  faultIf (!(decide (lo ≤ a) && decide (a + len ≤ hi))) .windowViolation (BitVec.ofNat 64 a)

/-- The checks of a vector access over one run of bytes (R172). -/
def State.runChecks (s : State) (write : Bool) (a len align lo hi : Nat) : Option Raised :=
  firstFault [s.watch write a len, faultIf (a % align != 0) .alignFault (BitVec.ofNat 64 a),
    rangeFault a len lo hi, s.grantFault false a len]

/-- Container width in bits, and alignment in bytes, of 64 containers (R173, Table 5.6). -/
def fsContainer (e : Fmt) : Nat × Nat :=
  let cb := containerBits e.tw
  (cb, max 1 (cb / 8))

def execVld (d : BitVec 5) (g : BitVec 6) (cls : BitVec 4) (fs : BitVec 3) (s : State) : Step :=
  let (cb, al) := fsContainer (s.fsFmt fs)
  let a := (s.g g).toNat
  let base := localAddr s.who.core 0
  let m := s.loadMem ((List.range (8 * cb)).map (a + ·))
  let lanes := (List.range 64).map fun n =>
    if s.cur.regs.vgp.getLsbD n then BitVec.ofNat 32 (m.1.bitsAt (8 * (base + a) + cb * n) cb) else 0
  coreWord (.vld d g cls fs) {} 0 s (checked
    (firstFault [s.fsCheck fs, s.runChecks false a (8 * cb) al 0 scratchSize])
    (m.2.land 6 (.v d.toNat lanes s.cur.regs.vgp)))

def execVst (v : BitVec 5) (g : BitVec 6) (cls : BitVec 4) (fs : BitVec 3) (s : State) : Step :=
  let (cb, al) := fsContainer (s.fsFmt fs)
  let a := (s.g g).toNat
  let elems := ((List.range 64).filter fun n => s.cur.regs.vgp.getLsbD n).map fun n =>
    ({ pieces := [(8 * a + cb * n, cb, 0)], bits := srcLane (s.v v) n % 2 ^ cb } : Elem)
  coreWord (.vst v g cls fs) storeRule 0 s (checked
    (firstFault [s.fsCheck fs, s.runChecks true a (8 * cb) al 0 scratchSize])
    (s.storeElems 3 cls.toNat (s.me.entry (s.fsNo fs)) elems))

/-- The row of the accumulator an address lies in (R174). -/
def accRowOf (a : Nat) : Nat := (a - accBase) / 1024

def execVlda (d : BitVec 5) (g : BitVec 6) (cls : BitVec 4) (fs : BitVec 3) (s : State) : Step :=
  let a := (s.g g).toNat
  let tag := s.me.rowEntry (accRowOf a)
  let m := s.loadMem ((List.range 256).map (a + ·))
  let x := fun n => m.1.nat (localAddr s.who.core (a + 4 * n)) 4
  let r := governed s.cur.regs.vgp fun n =>
    if s.fsNo fs = tag then (x n, 0) else convert (s.me.fmt tag) (s.fsFmt fs) (x n) s.mode
  coreWord (.vlda d g cls fs) { rounds := true } 0 s (checked
    (firstFault [s.fsCheck fs, s.runChecks false a 256 256 accBase accEnd])
    ((m.2.land 6 (.v d.toNat r.1 s.cur.regs.vgp)).landFlags 6 r.2))

def execVsta (v : BitVec 5) (g : BitVec 6) (cls : BitVec 4) (fs : BitVec 3) (s : State) : Step :=
  let a := (s.g g).toNat
  let no := s.fsNo fs
  let elems := ((List.range 64).filter fun n => s.cur.regs.vgp.getLsbD n).map fun n =>
    ({ pieces := [(8 * (a + 4 * n), 32, 0)], bits := srcLane (s.v v) n } : Elem)
  coreWord (.vsta v g cls fs) storeRule 0 s (checked
    (firstFault [faultIf (no != 1 && no != 10) .formatIllegal,
      s.runChecks true a 256 256 accBase accEnd])
    ((s.updMe fun k => k.setTags [accRowOf a] (no == 10)).storeElems 3 cls.toNat (presetEntry no)
      elems))

/-- The lanes VLDS and VSTS address, below COLS (R175). -/
def rowLanes (h : Shape) : List Nat := List.range (min h.cols 64)

/-- Byte address of element (r, n) under the container size of fs (R175). -/
def rowElem (h : Shape) (cb r n : Nat) : Nat := (h.bitAddr cb r n / 8).toNat

/-- The checks of VLDS and VSTS before any access, then those of the accesses (R172, R175). DESIGN CHOICE (log 27): where the valid
count leaves the row untouched, no element is accessed and step 4 is not made. -/
def State.rowChecks (s : State) (write : Bool) (h : Shape) (r : Nat) (fs : BitVec 3) : Option Raised :=
  let no := s.fsNo fs
  let e := s.fsFmt fs
  let cb := containerBits e.tw
  let addrs := (rowLanes h).map (rowElem h cb r)
  let live := decide (r < h.validBy s.cur.regs)
  let bytes := addrs.flatMap fun a => (List.range (cb / 8)).map (a + ·)
  let same := bytes.all fun a =>
    if h.space = 0 then s.me.sfmtNo (a / 0x5000) == no else s.me.rowEntry (accRowOf a) == no
  firstFault [
    faultIf (!h.fieldsOk [0, 1]) .shapeRange,
    faultIf (h.pln || decide (h.rows ≤ r)) .shapeRange,
    s.fsCheck fs (fun e => decide (4 < e.tw)),
    faultIf (!h.within cb 1 (spaceRange h.space)) .shapeRange,
    faultIf (live && !same) .shapeMismatch,
    if live then s.extentChecks write bytes
      (firstByte addrs fun a => a % (cb / 8) != 0)
    else none]

def execVlds (d h g : BitVec 5) (fs : BitVec 3) (s : State) : Step :=
  let x := shapeOf (s.sh h)
  let r := (s.g g).toNat
  let cb := containerBits (s.fsFmt fs).tw
  let ns := if r < x.validBy s.cur.regs then rowLanes x else []
  let mask := ns.foldl (fun (m : Word) n => m ||| ((1 : Word) <<< n)) 0 &&& s.cur.regs.vgp
  let m := s.loadMem (ns.flatMap fun n => (List.range (cb / 8)).map (rowElem x cb r n + ·))
  let lanes := (List.range 64).map fun n => BitVec.ofNat 32
    (if mask.getLsbD n then m.1.nat (localAddr s.who.core (rowElem x cb r n)) (cb / 8) else 0)
  coreWord (.vlds d h g fs) {} 0 s (checked (s.rowChecks false x r fs)
    (m.2.land 6 (.v d.toNat lanes mask)))

def execVsts (v h g : BitVec 5) (fs : BitVec 3) (s : State) : Step :=
  let x := shapeOf (s.sh h)
  let r := (s.g g).toNat
  let cb := containerBits (s.fsFmt fs).tw
  let ns := if r < x.validBy s.cur.regs then rowLanes x else []
  let elems := (ns.filter fun n => s.cur.regs.vgp.getLsbD n).map fun n =>
    ({ pieces := [(8 * rowElem x cb r n, cb, 0)], bits := srcLane (s.v v) n % 2 ^ cb } : Elem)
  coreWord (.vsts v h g fs) storeRule 0 s (checked (s.rowChecks true x r fs)
    (s.storeElems 3 0 (s.me.entry (s.fsNo fs)) elems))

/-! ### The hitch mix and bound checks (R178, R180) -/

def execVrnd (d a g : BitVec 5) (m : BitVec 2) (s : State) : Step :=
  let t := min (s.cur.regs.readG (g.toNat + 1)).toNat (2 ^ 32)
  toV (.vrnd d a g m) {} 6 d none
    (fun n =>
      let h := (hitch (s.g g) (lane (s.v a) n)).toNat
      (if m = 0 then h else if h < t then 2 ^ 32 - 1 else 0, 0)) s

def execVbnd (d a b : BitVec 5) (fs : BitVec 3) (s : State) : Step :=
  coreWord (.vbnd d a b fs) {} 0 s (checked (s.fsCheck fs)
    (s.land 4 (.vbnd d.toNat b.toNat (s.me.entry (s.fsNo fs)) (s.v a) s.cur.regs.vgp)))

end Sys2Proof.Machine
end

