-- ==== Sys2Proof/Machine/Dispatch.lean ====
section
/-!
DEFINITION. Dispatch: one arm per constructor of Instr, in the order of the table of operations and events, each one call of
its meaning.
-/
namespace Sys2Proof.Machine
open Host

def exec (i : Instr) (s : State) : Host.Outcome State Fault Refusal :=
  match i with
  | .add d a b => Sys2Proof.Machine.execAdd d a b s
  | .sub d a b => Sys2Proof.Machine.execSub d a b s
  | .and d a b => Sys2Proof.Machine.execAnd d a b s
  | .or d a b => Sys2Proof.Machine.execOr d a b s
  | .xor d a b => Sys2Proof.Machine.execXor d a b s
  | .shl d a b => Sys2Proof.Machine.execShl d a b s
  | .shr d a b => Sys2Proof.Machine.execShr d a b s
  | .sha d a b => Sys2Proof.Machine.execSha d a b s
  | .mul d a b => Sys2Proof.Machine.execMul d a b s
  | .mulh d a b sg => Sys2Proof.Machine.execMulh d a b sg s
  | .div d a b sg => Sys2Proof.Machine.execDiv d a b sg s
  | .rem d a b sg => Sys2Proof.Machine.execRem d a b sg s
  | .min d a b sg => Sys2Proof.Machine.execMin d a b sg s
  | .max d a b sg => Sys2Proof.Machine.execMax d a b sg s
  | .clz d a => Sys2Proof.Machine.execClz d a s
  | .popc d a => Sys2Proof.Machine.execPopc d a s
  | .addi d a imm => Sys2Proof.Machine.execAddi d a imm s
  | .andi d a imm => Sys2Proof.Machine.execAndi d a imm s
  | .ori d a imm => Sys2Proof.Machine.execOri d a imm s
  | .xori d a imm => Sys2Proof.Machine.execXori d a imm s
  | .shli d a imm => Sys2Proof.Machine.execShli d a imm s
  | .shri d a imm => Sys2Proof.Machine.execShri d a imm s
  | .shai d a imm => Sys2Proof.Machine.execShai d a imm s
  | .li d imm => Sys2Proof.Machine.execLi d imm s
  | .lih d imm => Sys2Proof.Machine.execLih d imm s
  | .bfx d a b => Sys2Proof.Machine.execBfx d a b s
  | .bfi d a b => Sys2Proof.Machine.execBfi d a b s
  | .addsh d a b sg => Sys2Proof.Machine.execAddsh d a b sg s
  | .cmpeq p a b => Sys2Proof.Machine.execCmpeq p a b s
  | .cmpne p a b => Sys2Proof.Machine.execCmpne p a b s
  | .cmplt p a b sg => Sys2Proof.Machine.execCmplt p a b sg s
  | .cmple p a b sg => Sys2Proof.Machine.execCmple p a b sg s
  | .widf d imm => Sys2Proof.Machine.execWidf d imm s
  | .movs d imm => Sys2Proof.Machine.execMovs d imm s
  | .movsw g imm => Sys2Proof.Machine.execMovsw g imm s
  | .sld d a cls wd sx => Sys2Proof.Machine.execSld d a cls wd sx s
  | .sst d a cls wd => Sys2Proof.Machine.execSst d a cls wd s
  | .fslot f a imm => Sys2Proof.Machine.execFslot f a imm s
  | .shld h a imm => Sys2Proof.Machine.execShld h a imm s
  | .shst h a imm => Sys2Proof.Machine.execShst h a imm s
  | .shset h a imm => Sys2Proof.Machine.execShset h a imm s
  | .shget d h imm => Sys2Proof.Machine.execShget d h imm s
  | .bndset n a g sg => Sys2Proof.Machine.execBndset n a g sg s
  | .pand d a b sg => Sys2Proof.Machine.execPand d a b sg s
  | .por d a b sg => Sys2Proof.Machine.execPor d a b sg s
  | .pxor d a b sg => Sys2Proof.Machine.execPxor d a b sg s
  | .psetn p a imm => Sys2Proof.Machine.execPsetn p a imm s
  | .pcnt d p => Sys2Proof.Machine.execPcnt d p s
  | .pmovg d p => Sys2Proof.Machine.execPmovg d p s
  | .pmovp p a => Sys2Proof.Machine.execPmovp p a s
  | .pbr t o => Sys2Proof.Machine.execPbr t o s
  | .pbrg t a imm => Sys2Proof.Machine.execPbrg t a imm s
  | .br p t cond => Sys2Proof.Machine.execBr p t cond s
  | .call d t => Sys2Proof.Machine.execCall d t s
  | .tmov d t sg => Sys2Proof.Machine.execTmov d t sg s
  | .exit code => Sys2Proof.Machine.execExit code s
  | .vadd d a b fs m => Sys2Proof.Machine.execVadd d a b fs m s
  | .vsub d a b fs m => Sys2Proof.Machine.execVsub d a b fs m s
  | .vmul d a b fs m => Sys2Proof.Machine.execVmul d a b fs m s
  | .vfma d a b fs m => Sys2Proof.Machine.execVfma d a b fs m s
  | .vfms d a b fs m => Sys2Proof.Machine.execVfms d a b fs m s
  | .vfnma d a b fs m => Sys2Proof.Machine.execVfnma d a b fs m s
  | .vmin d a b fs m => Sys2Proof.Machine.execVmin d a b fs m s
  | .vmax d a b fs m => Sys2Proof.Machine.execVmax d a b fs m s
  | .vdiv d a b fs m => Sys2Proof.Machine.execVdiv d a b fs m s
  | .vsqrt d a fs => Sys2Proof.Machine.execVsqrt d a fs s
  | .vrec d a fs => Sys2Proof.Machine.execVrec d a fs s
  | .vrsq d a fs => Sys2Proof.Machine.execVrsq d a fs s
  | .vexp2 d a fs => Sys2Proof.Machine.execVexp2 d a fs s
  | .vlog2 d a fs => Sys2Proof.Machine.execVlog2 d a fs s
  | .vabs d a fs => Sys2Proof.Machine.execVabs d a fs s
  | .vneg d a fs => Sys2Proof.Machine.execVneg d a fs s
  | .vcvt d a fsrc fs => Sys2Proof.Machine.execVcvt d a fsrc fs s
  | .vand d a b m => Sys2Proof.Machine.execVand d a b m s
  | .vor d a b m => Sys2Proof.Machine.execVor d a b m s
  | .vxor d a b m => Sys2Proof.Machine.execVxor d a b m s
  | .vshl d a b fs m => Sys2Proof.Machine.execVshl d a b fs m s
  | .vshr d a b fs m => Sys2Proof.Machine.execVshr d a b fs m s
  | .vsha d a b fs m => Sys2Proof.Machine.execVsha d a b fs m s
  | .vcmpeq p a b fs => Sys2Proof.Machine.execVcmpeq p a b fs s
  | .vcmpne p a b fs => Sys2Proof.Machine.execVcmpne p a b fs s
  | .vcmplt p a b fs => Sys2Proof.Machine.execVcmplt p a b fs s
  | .vcmple p a b fs => Sys2Proof.Machine.execVcmple p a b fs s
  | .vcmpun p a b fs => Sys2Proof.Machine.execVcmpun p a b fs s
  | .vsel d a b pn => Sys2Proof.Machine.execVsel d a b pn s
  | .vpred p => Sys2Proof.Machine.execVpred p s
  | .vbcast d g fs m => Sys2Proof.Machine.execVbcast d g fs m s
  | .vlane va g nh nl => Sys2Proof.Machine.execVlane va g nh nl s
  | .viota d fs m => Sys2Proof.Machine.execViota d fs m s
  | .vperm d a b m => Sys2Proof.Machine.execVperm d a b m s
  | .vrot d a k up hi => Sys2Proof.Machine.execVrot d a k up hi s
  | .vredsum d a fs m => Sys2Proof.Machine.execVredsum d a fs m s
  | .vredmax d a fs m => Sys2Proof.Machine.execVredmax d a fs m s
  | .vredmin d a fs m => Sys2Proof.Machine.execVredmin d a fs m s
  | .vscan d a fs m => Sys2Proof.Machine.execVscan d a fs m s
  | .vld d g cls fs => Sys2Proof.Machine.execVld d g cls fs s
  | .vst v g cls fs => Sys2Proof.Machine.execVst v g cls fs s
  | .vlds d h g fs => Sys2Proof.Machine.execVlds d h g fs s
  | .vsts v h g fs => Sys2Proof.Machine.execVsts v h g fs s
  | .vlda d g cls fs => Sys2Proof.Machine.execVlda d g cls fs s
  | .vsta v g cls fs => Sys2Proof.Machine.execVsta v g cls fs s
  | .vrnd d a g m => Sys2Proof.Machine.execVrnd d a g m s
  | .vbnd d a b fs => Sys2Proof.Machine.execVbnd d a b fs s
  | .vscl d a b fs m => Sys2Proof.Machine.execVscl d a b fs m s
  | .vclass d a fs => Sys2Proof.Machine.execVclass d a fs s
  | .mma shc sha w nega negb noacc => Sys2Proof.Machine.execMma shc sha w nega negb noacc s
  | .mmas shc sha w nega negb noacc => Sys2Proof.Machine.execMmas shc sha w nega negb noacc s
  | .mldb shs w bc trn cls => Sys2Proof.Machine.execMldb shs w bc trn cls s
  | .mldbs shs w bc trn cls => Sys2Proof.Machine.execMldbs shs w bc trn cls s
  | .mzero shc => Sys2Proof.Machine.execMzero shc s
  | .mout shc shd => Sys2Proof.Machine.execMout shc shd s
  | .mscale shc shs => Sys2Proof.Machine.execMscale shc shs s
  | .maddt shc shs => Sys2Proof.Machine.execMaddt shc shs s
  | .mdrain => Sys2Proof.Machine.execMdrain s
  | .mslotinv w => Sys2Proof.Machine.execMslotinv w s
  | .cpy shs shd gc cls => Sys2Proof.Machine.execCpy shs shd gc cls s
  | .cpym shs shd gc cls carried => Sys2Proof.Machine.execCpym shs shd gc cls carried s
  | .cpyv shs shd gc cls => Sys2Proof.Machine.execCpyv shs shd gc cls s
  | .lnset gstr gcnt lvl => Sys2Proof.Machine.execLnset gstr gcnt lvl s
  | .lnrun shs shd gc cls => Sys2Proof.Machine.execLnrun shs shd gc cls s
  | .lnclr => Sys2Proof.Machine.execLnclr s
  | .mcst shs shd gc cls => Sys2Proof.Machine.execMcst shs shd gc cls s
  | .nfill shs shd gc cls => Sys2Proof.Machine.execNfill shs shd gc cls s
  | .ncopy shs shd gc cls => Sys2Proof.Machine.execNcopy shs shd gc cls s
  | .ncmp shs shd gc cls => Sys2Proof.Machine.execNcmp shs shd gc cls s
  | .nred shs shd gc cls => Sys2Proof.Machine.execNred shs shd gc cls s
  | .cinit shs shd gc cls => Sys2Proof.Machine.execCinit shs shd gc cls s
  | .gath ga cls => Sys2Proof.Machine.execGath ga cls s
  | .gbag ga cls => Sys2Proof.Machine.execGbag ga cls s
  | .gscat ga cls => Sys2Proof.Machine.execGscat ga cls s
  | .gsadd ga cls => Sys2Proof.Machine.execGsadd ga cls s
  | .aadd d a cls wd => Sys2Proof.Machine.execAadd d a cls wd s
  | .aand d a cls wd => Sys2Proof.Machine.execAand d a cls wd s
  | .aor d a cls wd => Sys2Proof.Machine.execAor d a cls wd s
  | .axor d a cls wd => Sys2Proof.Machine.execAxor d a cls wd s
  | .amin d a cls wd sx => Sys2Proof.Machine.execAmin d a cls wd sx s
  | .amax d a cls wd sx => Sys2Proof.Machine.execAmax d a cls wd sx s
  | .afadd d a cls wd => Sys2Proof.Machine.execAfadd d a cls wd s
  | .aswap d a cls wd => Sys2Proof.Machine.execAswap d a cls wd s
  | .acas d a cls wd => Sys2Proof.Machine.execAcas d a cls wd s
  | .qpush d q cls => Sys2Proof.Machine.execQpush d q cls s
  | .qpop d q cls => Sys2Proof.Machine.execQpop d q cls s
  | .swinit d a cls => Sys2Proof.Machine.execSwinit d a cls s
  | .arrive d a cls => Sys2Proof.Machine.execArrive d a cls s
  | .waitg d a imm => Sys2Proof.Machine.execWaitg d a imm s
  | .waitm d a imm => Sys2Proof.Machine.execWaitm d a imm s
  | .testg p a imm => Sys2Proof.Machine.execTestg p a imm s
  | .testm p a imm => Sys2Proof.Machine.execTestm p a imm s
  | .align d a imm => Sys2Proof.Machine.execAlign d a imm s
  | .fence mask kind scope => Sys2Proof.Machine.execFence mask kind scope s
  | .trap code => Sys2Proof.Machine.execTrap code s
  | .rett => Sys2Proof.Machine.execRett s
  | .ftw v a imm => Sys2Proof.Machine.execFtw v a imm s
  | .ftr d a imm => Sys2Proof.Machine.execFtr d a imm s
  | .bfmt v a imm => Sys2Proof.Machine.execBfmt v a imm s
  | .flowreq d a b => Sys2Proof.Machine.execFlowreq d a b s
  | .event gs code => Sys2Proof.Machine.execEvent gs code s
  | .wpset n a b => Sys2Proof.Machine.execWpset n a b s
  | .icinv m => Sys2Proof.Machine.execIcinv m s
  | .waitt d a imm => Sys2Proof.Machine.execWaitt d a imm s
  | .fuserd d a imm => Sys2Proof.Machine.execFuserd d a imm s
  | .keywipe d imm => Sys2Proof.Machine.execKeywipe d imm s
  | .keyld d a b => Sys2Proof.Machine.execKeyld d a b s
  | .dbgunlk d a b => Sys2Proof.Machine.execDbgunlk d a b s
  | .measure a b => Sys2Proof.Machine.execMeasure a b s
  | .attest a b => Sys2Proof.Machine.execAttest a b s
  | .yield => Sys2Proof.Machine.execYield s
  | .lat imm => Sys2Proof.Machine.execLat imm s
  | .lsend ad an rel inc => Sys2Proof.Machine.execLsend ad an rel inc s
  | .lrecv ad an inc => Sys2Proof.Machine.execLrecv ad an inc s
  | .lfwd an port => Sys2Proof.Machine.execLfwd an port s
  | .lrfwd ad an inc port => Sys2Proof.Machine.execLrfwd ad an inc port s
  | .lradd ad an inc fc => Sys2Proof.Machine.execLradd ad an inc fc s
  | .lsig ad an dir => Sys2Proof.Machine.execLsig ad an dir s
  | .lguard imm => Sys2Proof.Machine.execLguard imm s
  | .lloop ad imm => Sys2Proof.Machine.execLloop ad imm s
  | .lend => Sys2Proof.Machine.execLend s
  | .lchk ad imm => Sys2Proof.Machine.execLchk ad imm s
  | .lhalt code => Sys2Proof.Machine.execLhalt code s
  | .lset ad imm => Sys2Proof.Machine.execLset ad imm s
  | .ladd ad aa imm => Sys2Proof.Machine.execLadd ad aa imm s
  | .ximm tgt pay => Sys2Proof.Machine.execXimm tgt pay s
  | .xidle tgt pay => Sys2Proof.Machine.execXidle tgt pay s
  | .xmod tgt pay => Sys2Proof.Machine.execXmod tgt pay s
  | .extest din => Sys2Proof.Machine.execExtest din s
  | .samplePreload din => Sys2Proof.Machine.execSamplePreload din s
  | .idcode => Sys2Proof.Machine.execIdcode s
  | .dbgaddr din => Sys2Proof.Machine.execDbgaddr din s
  | .dbgdataRead => Sys2Proof.Machine.execDbgdataRead s
  | .dbgdataWrite din => Sys2Proof.Machine.execDbgdataWrite din s
  | .dbgstat => Sys2Proof.Machine.execDbgstat s
  | .bypass => Sys2Proof.Machine.execBypass s
  | .doorbell att n tail => Sys2Proof.Machine.execDoorbell att n tail s
  | .hwqPoll n => Sys2Proof.Machine.execHwqPoll n s
  | .launchRecord n => Sys2Proof.Machine.execLaunchRecord n s
  | .launchLoad n => Sys2Proof.Machine.execLaunchLoad n s
  | .graphStart n => Sys2Proof.Machine.execGraphStart n s
  | .nodeLaunch n => Sys2Proof.Machine.execNodeLaunch n s
  | .nodeCopy n => Sys2Proof.Machine.execNodeCopy n s
  | .nodeCond n => Sys2Proof.Machine.execNodeCond n s
  | .nodeLoop n => Sys2Proof.Machine.execNodeLoop n s
  | .nodeWait n => Sys2Proof.Machine.execNodeWait n s
  | .waitNodeExpiry n => Sys2Proof.Machine.execWaitNodeExpiry n s
  | .nodeSignal n => Sys2Proof.Machine.execNodeSignal n s
  | .nodeEnd n => Sys2Proof.Machine.execNodeEnd n s
  | .taskBind core => Sys2Proof.Machine.execTaskBind core s
  | .slotActivate core => Sys2Proof.Machine.execSlotActivate core s
  | .taskRetire core slot => Sys2Proof.Machine.execTaskRetire core slot s
  | .launchComplete n => Sys2Proof.Machine.execLaunchComplete n s
  | .writeCtxcfg att target value => Sys2Proof.Machine.execWriteCtxcfg att target value s
  | .acquireLease att base limit => Sys2Proof.Machine.execAcquireLease att base limit s
  | .releaseLease att n => Sys2Proof.Machine.execReleaseLease att n s
  | .preEmptOrRestore att n what => Sys2Proof.Machine.execPreEmptOrRestore att n what s
  | .frameWrite n => Sys2Proof.Machine.execFrameWrite n s
  | .restore n => Sys2Proof.Machine.execRestore n s
  | .readViolationLog att ctx index => Sys2Proof.Machine.execReadViolationLog att ctx index s
  | .advanceLifecycle att token => Sys2Proof.Machine.execAdvanceLifecycle att token s
  | .tdispLock att ctx => Sys2Proof.Machine.execTdispLock att ctx s
  | .tdispStart att ctx => Sys2Proof.Machine.execTdispStart att ctx s
  | .tdispStop att ctx => Sys2Proof.Machine.execTdispStop att ctx s
  | .registerWrite src addr value => Sys2Proof.Machine.execRegisterWrite src addr value s
  | .atsCompletion core entry answer => Sys2Proof.Machine.execAtsCompletion core entry answer s
  | .priResponse core entry answer => Sys2Proof.Machine.execPriResponse core entry answer s
  | .atsInvalidation att pasid base len => Sys2Proof.Machine.execAtsInvalidation att pasid base len s
  | .invalidationCompletion att pasid base len => Sys2Proof.Machine.execInvalidationCompletion att pasid base len s
  | .cxlMemRead att addr => Sys2Proof.Machine.execCxlMemRead att addr s
  | .cxlMemWrite att addr data mask => Sys2Proof.Machine.execCxlMemWrite att addr data mask s
  | .hostLinkDown att => Sys2Proof.Machine.execHostLinkDown att s
  | .functionLevelReset att => Sys2Proof.Machine.execFunctionLevelReset att s
  | .getVersion => Sys2Proof.Machine.execGetVersion s
  | .getCapabilities => Sys2Proof.Machine.execGetCapabilities s
  | .negotiateAlgorithms => Sys2Proof.Machine.execNegotiateAlgorithms s
  | .getDigests => Sys2Proof.Machine.execGetDigests s
  | .getCertificate slot offset len => Sys2Proof.Machine.execGetCertificate slot offset len s
  | .challenge slot nonce => Sys2Proof.Machine.execChallenge slot nonce s
  | .getMeasurements index nonce => Sys2Proof.Machine.execGetMeasurements index nonce s
  | .keyExchange slot share => Sys2Proof.Machine.execKeyExchange slot share s
  | .finish mac => Sys2Proof.Machine.execFinish mac s
  | .endSession => Sys2Proof.Machine.execEndSession s
  | .keyProg stream dir key => Sys2Proof.Machine.execKeyProg stream dir key s
  | .kSetGo stream dir => Sys2Proof.Machine.execKSetGo stream dir s
  | .coldReset => Sys2Proof.Machine.execColdReset s
  | .coolingSample zones watts uncore => Sys2Proof.Machine.execCoolingSample zones watts uncore s
  | .zoneClockStop zone => Sys2Proof.Machine.execZoneClockStop zone s
  | .purgeEnd zone => Sys2Proof.Machine.execPurgeEnd zone s
  | .pulsesEnd zone => Sys2Proof.Machine.execPulsesEnd zone s
  | .rePrimeEnd zone => Sys2Proof.Machine.execRePrimeEnd zone s
  | .verifyEnd zone => Sys2Proof.Machine.execVerifyEnd zone s
  | .heldLanding core => Sys2Proof.Machine.execHeldLanding core s
  | .prime zone => Sys2Proof.Machine.execPrime zone s
  | .primeVerify zone => Sys2Proof.Machine.execPrimeVerify zone s
  | .close zone => Sys2Proof.Machine.execClose zone s
  | .clearFailed zone => Sys2Proof.Machine.execClearFailed zone s
  | .forceEvacuation zone => Sys2Proof.Machine.execForceEvacuation zone s
  | .flowreqDecision core entry => Sys2Proof.Machine.execFlowreqDecision core entry s
  | .grantStart id => Sys2Proof.Machine.execGrantStart id s
  | .grantEnd id => Sys2Proof.Machine.execGrantEnd id s
  | .arm src => Sys2Proof.Machine.execArm src s
  | .debugStop => Sys2Proof.Machine.execDebugStop s
  | .resume src => Sys2Proof.Machine.execResume src s
  | .dbgctlClose => Sys2Proof.Machine.execDbgctlClose s
  | .bufferEnable src n => Sys2Proof.Machine.execBufferEnable src n s
  | .recordWrite n => Sys2Proof.Machine.execRecordWrite n s
  | .iswinArm src => Sys2Proof.Machine.execIswinArm src s
  | .issueBlock => Sys2Proof.Machine.execIssueBlock s
  | .counterSample => Sys2Proof.Machine.execCounterSample s
  | .monitorPeriod m => Sys2Proof.Machine.execMonitorPeriod m s
  | .softError core array => Sys2Proof.Machine.execSoftError core array s
  | .uncorrectableError addr array => Sys2Proof.Machine.execUncorrectableError addr array s
  | .patrolScrub addr found => Sys2Proof.Machine.execPatrolScrub addr found s
  | .lockstepMismatch => Sys2Proof.Machine.execLockstepMismatch s
  | .cpRestart => Sys2Proof.Machine.execCpRestart s
  | .linkTraining port x far => Sys2Proof.Machine.execLinkTraining port x far s
  | .timebaseFlit port beats parity wander => Sys2Proof.Machine.execTimebaseFlit port beats parity wander s
  | .guardFlit port guard => Sys2Proof.Machine.execGuardFlit port guard s
  | .dataFlit port flit => Sys2Proof.Machine.execDataFlit port flit s
  | .signalFlit port flit => Sys2Proof.Machine.execSignalFlit port flit s
  | .noticeFlit port flit => Sys2Proof.Machine.execNoticeFlit port flit s
  | .mgmtFlit port flit => Sys2Proof.Machine.execMgmtFlit port flit s
  | .lossOfLaneLock port => Sys2Proof.Machine.execLossOfLaneLock port s
  | .bufferLimit reached => Sys2Proof.Machine.execBufferLimit reached s
  | .spliceStop => Sys2Proof.Machine.execSpliceStop s
  | .spliceResume => Sys2Proof.Machine.execSpliceResume s
  | .guardGap port => Sys2Proof.Machine.execGuardGap port s
  | .automaticGuard port => Sys2Proof.Machine.execAutomaticGuard port s
  | .programStart port => Sys2Proof.Machine.execProgramStart port s
  | .programDeadline port => Sys2Proof.Machine.execProgramDeadline port s
  | .handlerEntry core slot => Sys2Proof.Machine.execHandlerEntry core slot s
  | .handlerDeadline core => Sys2Proof.Machine.execHandlerDeadline core s
  | .waitDeadline core slot => Sys2Proof.Machine.execWaitDeadline core slot s
  | .weaveRelease cluster => Sys2Proof.Machine.execWeaveRelease cluster s
  | .waitSatisfied core slot => Sys2Proof.Machine.execWaitSatisfied core slot s
  | .testReturn core slot => Sys2Proof.Machine.execTestReturn core slot s
  | .alignResume core slot => Sys2Proof.Machine.execAlignResume core slot s
  | .fenceComplete core slot => Sys2Proof.Machine.execFenceComplete core slot s
  | .waittResume core slot => Sys2Proof.Machine.execWaittResume core slot s
  | .securityBlockReply => Sys2Proof.Machine.execSecurityBlockReply s
  | .chunkComplete core entry => Sys2Proof.Machine.execChunkComplete core entry s
  | .arrival addr => Sys2Proof.Machine.execArrival addr s
  | .carriedWordIssue core entry => Sys2Proof.Machine.execCarriedWordIssue core entry s
  | .ticketedUpdate core entry => Sys2Proof.Machine.execTicketedUpdate core entry s
  | .queueStep core entry => Sys2Proof.Machine.execQueueStep core entry s
  | .ftwPropagation core entry => Sys2Proof.Machine.execFtwPropagation core entry s
  | .unassignedPattern w => Sys2Proof.Machine.execUnassignedPattern w s
  | .idleFlit port flit => Sys2Proof.Machine.execIdleFlit port flit s
  | .dieToDieBeat pair flit => Sys2Proof.Machine.execDieToDieBeat pair flit s
  | .tdispError ctx => Sys2Proof.Machine.execTdispError ctx s
  | .bankAtomic core entry => Sys2Proof.Machine.execBankAtomic core entry s
  | .otherCommandCode att code => Sys2Proof.Machine.execOtherCommandCode att code s
  | .unsupportedRequest code => Sys2Proof.Machine.execUnsupportedRequest code s

end Sys2Proof.Machine
end

