-- ==== Sys2Proof/Machine/Step.lean ====
section
/-!
DEFINITION. One step of the machine: an event of the present phase, the next phase, or one action of an agent of the tick.
-/
namespace Sys2Proof.Machine

/-- ONE STEP. An event that stands in the inbox is executed; else the next phase of the tick begins; after the last one the
agents act, one word or one cycle's end a step, until the next tick. -/
def step (s : State) : Host.Outcome State Fault Refusal :=
  match s.inbox with
  | i :: rest => exec i { s with inbox := rest }
  | [] =>
    if s.phase < lastPhase then .next s.nextPhase
    else match s.agentAction with
      | (s1, none) => .next s1
      | (s1, some i) => match exec i s1.aside with
        | .next s2 => .next (s2.settled s1)
        | other => other

/-- The instruction of a table word stored where the next step fetches it: a TAP instruction in the inbox, an L word in the
program memory of link engine 0, any other word in the instruction memory of core 0, whose slot 0 is at it. -/
def State.withFetchWord (s : State) (nbits w : Nat) : State := s.placeWord nbits w

end Sys2Proof.Machine
end

