-- ==== Sys2Proof/Safety.lean ====
section
/-!
DEFINITION. What claims are stated in: the invariant of the memories, the words that reach their own meaning, and the
outcomes that go on.
-/
namespace Sys2Proof

/-- The words whose whole effect is results that land later: the S words but those that load a target, redirect the stream or
end the task, the V words but VSTA, and of the engine and system words LNSET, LNCLR, FTR, BFMT, WPSET and ICINV. -/
def Instr.resultOnly : Instr → Bool
  | .add .. | .sub .. | .and .. | .or .. | .xor .. | .shl .. | .shr .. | .sha .. | .mul .. | .mulh .. | .div ..
  | .rem .. | .min .. | .max .. | .clz .. | .popc .. | .addi .. | .andi .. | .ori .. | .xori .. | .shli ..
  | .shri .. | .shai .. | .li .. | .lih .. | .bfx .. | .bfi .. | .addsh .. | .cmpeq .. | .cmpne .. | .cmplt ..
  | .cmple .. | .widf .. | .movs .. | .movsw .. | .sld .. | .sst .. | .fslot .. | .shld .. | .shst .. | .shset ..
  | .shget .. | .bndset .. | .pand .. | .por .. | .pxor .. | .psetn .. | .pcnt .. | .pmovg .. | .pmovp .. | .vadd ..
  | .vsub .. | .vmul .. | .vfma .. | .vfms .. | .vfnma .. | .vmin .. | .vmax .. | .vdiv .. | .vsqrt .. | .vrec ..
  | .vrsq .. | .vexp2 .. | .vlog2 .. | .vabs .. | .vneg .. | .vcvt .. | .vand .. | .vor .. | .vxor .. | .vshl ..
  | .vshr .. | .vsha .. | .vcmpeq .. | .vcmpne .. | .vcmplt .. | .vcmple .. | .vcmpun .. | .vsel .. | .vpred ..
  | .vbcast .. | .vlane .. | .viota .. | .vperm .. | .vrot .. | .vredsum .. | .vredmax .. | .vredmin .. | .vscan ..
  | .vld .. | .vst .. | .vlds .. | .vsts .. | .vlda .. | .vrnd .. | .vbnd .. | .vscl .. | .vclass .. | .lnset ..
  | .lnclr | .ftr .. | .bfmt .. | .wpset .. | .icinv .. => true
  | _ => false

/-- The words that start an operation of an engine or the matrix unit; CPYM, whose carried word is checked first, stands apart. -/
def Instr.engineWord : Instr → Bool
  | .mma .. | .mmas .. | .mldb .. | .mldbs .. | .mzero .. | .mout .. | .mscale .. | .maddt .. | .mdrain
  | .mslotinv .. | .cpy .. | .cpyv .. | .lnrun .. | .mcst .. | .nfill .. | .ncopy .. | .ncmp .. | .nred ..
  | .cinit .. | .gath .. | .gbag .. | .gscat .. | .gsadd .. | .aadd .. | .aand .. | .aor .. | .axor .. | .amin ..
  | .amax .. | .afadd .. | .aswap .. | .acas .. | .qpush .. | .qpop .. | .arrive .. | .ftw .. | .flowreq .. => true
  | _ => false

/-- The manager words of 08, at level M only. -/
def Instr.managerWord : Instr → Bool
  | .fuserd .. | .keywipe .. | .keyld .. | .dbgunlk .. | .measure .. | .attest .. => true
  | _ => false

/-- The other words of a core stream: VSTA, targets, branches and EXIT, synchronisation, traps, events and the manager words. -/
def Instr.systemWord : Instr → Bool
  | .vsta .. | .pbr .. | .pbrg .. | .tmov .. | .br .. | .call .. | .exit .. | .swinit .. | .waitg .. | .waitm ..
  | .testg .. | .testm .. | .align .. | .fence .. | .trap .. | .rett | .event .. | .waitt .. | .yield | .fuserd ..
  | .keywipe .. | .keyld .. | .dbgunlk .. | .measure .. | .attest .. => true
  | _ => false

end Sys2Proof

namespace Sys2Proof.Machine

/-- Package memory and host memory stand in canonical form. -/
def State.memOk (s : State) : Prop := s.mem.wf = true ∧ s.hostMem.wf = true

/-- A word of a core stream reaches its own meaning: it has no decode fault under the prefixes its opcode takes (R61,
R62, R69), and its task is at the word's level or above (R5). -/
def State.admits (s : State) (i : Instr) (rule : PfxRule) (lvl : Nat) : Prop :=
  decodeFault i rule true s.who.q = none ∧ lvl ≤ s.cur.lvl.toNat

/-- An L word reaches its own meaning: no reserved field, no prefix it does not take (R383, R384). -/
def State.linkAdmits (s : State) (i : Instr) (ximm : Bool) (xmod : BitVec 20 → Bool) (resv : Bool) : Prop :=
  linkDecodeFault i ximm xmod true resv s.who.q.pfx = none

/-- The value of a word's immediate of n bits under its XIMM prefixes, where it has one (R59). -/
def State.immIs (s : State) (n : Nat) (sx : Bool) (imm : Nat) (v : Word) : Prop :=
  immediate s.who.q.pfx.ximm n sx imm = some v

/-- The word being executed stands in a slot of a core. -/
def State.atSlot (s : State) : Prop := s.who.core < 64 ∧ s.who.slot < 5

/-- The result that the word being executed makes, on its way to land L cycles after its issue (R32). -/
def State.landing (s : State) (L : Nat) (e : Effect) (cls : Option Nat := none) : Landing :=
  { cyc := s.who.cyc + L, iss := s.who.cyc, seq := s.who.q.seq, idx := s.who.q.idx, word := s.who.q.word
    cls := cls, pfx := s.who.q.pfx, eff := e }

/-- The suppress-once flag after a word completes: clear where it was set for that word (R267). -/
def State.suppNext (s : State) : Bool := s.cur.supp && !(s.cur.freeze.isNone && s.who.q.idx == s.cur.hpc)

/-- The state in which results more are on their way in the word's slot, and nothing else has changed. -/
def State.landed (s : State) (xs : List Landing) : State :=
  s.setSlot s.who.core s.who.slot { s.cur with landings := s.cur.landings ++ xs, supp := s.suppNext }

/-- The state in which lanes are on their way to a vector register, with their flags where there are any (R148). -/
def State.lanesLanded (s : State) (L d : Nat) (mask : Word) (r : List Half × Flags) : State :=
  s.landed (s.landing L (.v d r.1 mask) :: if r.2 = 0 then [] else [s.landing L (.flags r.2)])

/-- A word that passed its checks has put the operation o into the engine table, in the lowest free entry and with its first
action on a later tick; of its slot only `f` has been applied and of its core only `g` beside the table; with every entry held
it has frozen its task until one frees (R42, R44). -/
def State.forks (s t : State) (o : Op) (f : Slot → Slot := id) (g : Core → Core := id) : Prop :=
  t.mem = s.mem ∧ t.hostMem = s.hostMem ∧ (∀ c, c ≠ s.who.core → t.core c = s.core c) ∧
  (∀ n, n ≠ s.who.slot → t.me.slot n = s.me.slot n) ∧
  (∀ e, s.me.freeEntry = some e → ∃ d, s.tick < d ∧ t.cur = f { s.cur with supp := s.suppNext } ∧
    t.me = { g s.me with
      ops := s.me.ops ++ [{ o with entry := e, delay := d }], forkNo := s.me.forkNo + 1, slots := t.me.slots, hslot := t.me.hslot }) ∧
  (s.me.freeEntry = none → ∃ z, t.cur = { s.cur with freeze := some z } ∧ z.hold = .tableFull ∧ z.q = s.who.q ∧
    z.deadline = none ∧ t.me.ops = s.me.ops)

/-- An armed watchpoint of the task meets a core-local byte, and the word that accesses it is checked (R132, R267, R341). -/
def State.watched (s : State) (write : Bool) (b : Nat) : Prop :=
  s.who.slot ≠ 4 ∧ s.who.q.supp = false ∧ ∃ w ∈ s.cur.wp.toList, w.getLsbD (if write then 97 else 96) = true ∧
    w.extractLsb' 98 2 = 0#2 ∧ (w.extractLsb' 0 64).toNat ≤ b ∧ b < (w.extractLsb' 0 64).toNat + (w.extractLsb' 64 32).toNat

/-- What a word answers where its access of len bytes from a fails a check, the first that fails in the order of R132: its lowest
watched byte, its alignment, a range it does not reach, its first byte that is not granted unless the range needs no grant. -/
def State.accessFaults (s : State) (r : Host.Outcome State Fault Refusal) (write : Bool) (a len align : Nat) (reach free : Prop) : Prop :=
  let raises := fun (code : FaultCode) (b : Nat) => r = .next (s.raise { code := code, addr := BitVec.ofNat 64 b })
  (∀ b, a ≤ b → b < a + len → s.watched write b → (∀ x, a ≤ x → x < b → ¬s.watched write x) → raises .watchpoint b) ∧
  ((∀ b, a ≤ b → b < a + len → ¬s.watched write b) →
    (a % align ≠ 0 → raises .alignFault a) ∧
    (a % align = 0 → ¬reach → raises .windowViolation a) ∧
    (a % align = 0 → reach → ¬free → ∀ b, s.ungranted s.who.core s.who.slot a len = some b → raises .windowViolation b))

/-- A step goes on: it is neither a fault nor a refusal. -/
def goesOn (r : Host.Outcome State Fault Refusal) : Prop := ∃ t, r = .next t

/-- Everything but the cores stands as before. -/
def State.sameOutside (s t : State) : Prop := t = { s with cores := t.cores }

end Sys2Proof.Machine
end

