-- ==== Sys2Proof/Certificates/Slice0/Obligations.lean ====
section
/-!
DEFINITION. The statements for the provers: encodings, the step, and family by family what a word or an event does, what
it leaves unchanged, and where it traps.
-/
open Host Sys2Proof Sys2Proof.Machine

/-! ### Encodings (02) -/

/-- Decoding the words that the encoder makes of any instruction gives it back, with every operand and idle count (R51, R57,
R63 to R67, R70). -/
def Obligations.DecodeEncode : Prop :=
  ∀ (i : Instr) (idle : BitVec 3) (w : Half) (rest : List Half) (x : Half), encode idle i = w :: rest →
    decode w (rest.headD x) = some i ∧ (engineOf w < 6 → idleOf w = idle.toNat)

/-- A word that decodes is the encoder's word of what it decodes to, so that each instruction has one word per idle count and
no bit of a word is dropped (R51, R68). -/
def Obligations.EncodeDecode : Prop :=
  ∀ (w x : Half) (i : Instr), decode w x = some i →
    encode (BitVec.ofNat 3 (idleOf w)) i = if isCpym w then [w, x] else [w]

/-- Words of the specification's worked examples decode to the instructions they stand for (Tables 2.12, 4.14, 5.8, 6.7, 12.14
and R211, R247). -/
def Obligations.WordsDecode : Prop :=
  (∀ x, decode 0x00000000 x = some (.add 0 0 0)) ∧ (∀ x, decode 0x01705400 x = some (.li 1 0x1400)) ∧
  (∀ x, decode 0x0631021A x = some (.sld 4 2 1 2 1)) ∧ (∀ x, decode 0x0340CA00 x = some (.br 3 1 1)) ∧
  (∀ x, decode 0x03220001 x = some (.pbr 1 1)) ∧ (∀ x, decode 0x03700000 x = some (.exit 0)) ∧
  (∀ x, decode 0x20018448 x = some (.vadd 3 1 2 2 0)) ∧ (∀ x, decode 0x32818604 x = some (.vst 3 3 0 1)) ∧
  (∀ x, decode 0x40008820 x = some (.mma 1 2 0 0 0 1)) ∧ (∀ x, decode 0x40511000 x = some (.mout 2 4)) ∧
  (∀ x, decode 0x60008871 x = some (.cpy 1 2 7 1)) ∧ (∀ x, decode 0x80100520 x = some (.gbag 5 2)) ∧
  (∀ x, decode 0xA0700061 x = some (.fence 6 0 1)) ∧ (∀ x, decode 0xA0900000 x = some .rett) ∧
  (∀ x, decode 0xC0108100 x = some (.lsend 2 1 0 0)) ∧ (∀ x, decode 0xE0900064 x = some (.xidle 1 100))

/-! ### The step -/

/-- A STEP RUNS THE DECODED INSTRUCTION. The word at the head of a queue that issues next, or the word just fetched where it
issues on its delivery, is decoded and executed with the task's own freezes standing aside; its outcome is the step's, but for
how freezes and re-fetches of one cycle settle (R31, R36, R41, R336). -/
def Obligations.StepRunsWord : Prop :=
  ∀ (s : State) (c n e : Nat) (rest : List Nat) (q : QWord) (i : Instr), s.inbox = [] → s.phase = lastPhase →
    s.todo = c :: rest → c < 64 → s.nextUnit c = some n → engineOf q.word ≠ 6 → decode q.word q.carried = some i →
    ((s.slot c n).dueHead = some (e, q) →
      step s = match exec i (s.takeHead c n e q).aside with
        | .next t => .next (t.settled (s.takeHead c n e q))
        | other => other) ∧
    (∀ t, (s.slot c n).dueHead = none → (s.slot c n).fetch (s.imem c (s.slot c n).pc) = .deliver t →
      t.dueHead = some (e, q) →
      step s = match exec i ((s.setSlot c n t).takeHead c n e q).aside with
        | .next u => .next (u.settled ((s.setSlot c n t).takeHead c n e q))
        | other => other)

/-- A link engine that may decode on a tick decodes the word at its index, after its timed words of the tick have acted
(R381), unless a stop holds the package's clocks (R437). -/
def Obligations.LinkStepRunsWord : Prop :=
  ∀ (s s1 : State) (n : Nat) (rest : List Nat) (i : Instr), s.inbox = [] → s.phase = lastPhase → s.gated = false →
    s.todo = (64 + n) :: rest → s1 = { s.linkExecute n with todo := (s.linkExecute n).todo.filter (· != 64 + n) } →
    s1.linkDecodes n = true → 6 ≤ engineOf (s1.linkWordAt n (s1.fab.link n).pc) →
    decode (s1.linkWordAt n (s1.fab.link n).pc) 0 = some i →
    step s = match exec i (s1.linkFetch n).aside with
      | .next u => .next (u.settled (s1.linkFetch n))
      | other => other

/-- The bytes at PC reach the queue that their E field names, in stream order, with that engine's latched prefixes and the
delivery cycle; PC and the stream go on to the next word (R27, R28, R30, R52, R58). -/
def Obligations.FetchDelivers : Prop :=
  ∀ (t : Slot) (w : Half), engineOf w < 6 → isCpym w = false → t.dnext ≤ t.tc → t.stall = false → t.half = none →
    t.room (engineOf w) = true →
    ∃ u, t.fetch w = .deliver u ∧ u.pc = t.pc + 1 ∧ u.dnext = t.tc + 1 ∧ u.seqNext = t.seqNext + 1 ∧
      u.queues[engineOf w]?.getD [] = t.queues[engineOf w]?.getD [] ++
        [{ word := w, idx := t.pc, seq := t.seqNext, dcyc := t.tc, pfx := t.latch[engineOf w]?.getD {} }] ∧
      u.latch[engineOf w]?.getD {} = {} ∧ u.stall = stallsStream w ∧ u.regs = t.regs ∧ u.landings = t.landings

/-- A prefix is executed on its delivery and enters no queue (R57, R58). An event that stands in the inbox is the next step, and
nothing else happens on it. -/
def Obligations.StepRunsPrefixOrEvent : Prop :=
  (∀ (s : State) (c n : Nat) (rest : List Nat) (t : Slot) (q : QWord) (i : Instr), s.inbox = [] → s.phase = lastPhase →
    s.todo = c :: rest → c < 64 → s.nextUnit c = some n → (s.slot c n).dueHead = none →
    (s.slot c n).fetch (s.imem c (s.slot c n).pc) = .atOnce t q → engineOf q.word = 7 → decode q.word 0 = some i →
    let s1 : State := { s.setSlot c n t with who := { core := c, slot := n, q := q, cyc := t.tc } }
    step s = match exec i s1.aside with
      | .next u => .next (u.settled s1)
      | other => other) ∧
  (∀ (s : State) (i : Instr) (rest : List Instr), s.inbox = i :: rest → step s = exec i { s with inbox := rest })

/-- Every step goes on: no state makes the machine stop with a fault or a refusal, since every exception of Table 11.1 is taken
(R334) and every instruction and event has its meaning. -/
def Obligations.StepGoesOn : Prop := ∀ s : State, ∃ t, step s = .next t

/-- Package memory and host memory keep their canonical form under every step, from any state (the model's own invariant,
log 5). -/
def Obligations.StepKeepsMemory : Prop := ∀ s t : State, s.memOk → step s = .next t → t.memOk

/-- State.reset. What the specification gives: the registers of every task slot and of the handler slot at the Reset column of
Table 1.4 (g, p, v and sh 0, p0 all ones, fs 1, VGP all ones) and FSTAT, BSTAT and RMODE 0, SFMT 1 (Table 3.4), accumulator tags 0
(R93), measurements zero (R452), every lease register free, trace buffers off. What it gives no value for is the model's choice
(log 4, DESIGN CHOICE): pod tick 0, slots EMPTY, no engine operation, weight slots not loaded and key slots empty; the
memories are canonical (log 5). -/
def Obligations.ResetState : Prop :=
  State.reset.memOk ∧ State.reset.tick = 0 ∧
  (∀ c n, c < 64 → n < 5 → let t := State.reset.slot c n
    t.st = .empty ∧ (∀ r, r < 64 → t.regs.readG r = 0) ∧ (∀ r, 1 ≤ r → r < 48 → t.regs.readP r = 0) ∧
      t.regs.readP 0 = BitVec.allOnes 64 ∧ (∀ r, r < 32 → t.regs.readV r = Vector.replicate 64 0 ∧ t.regs.readSh r = 0) ∧
      (∀ r, r < 8 → t.regs.readFs r = 1) ∧ t.regs.vgp = BitVec.allOnes 64 ∧ t.fstat = 0 ∧ t.bstat = 0 ∧ t.rmode = 0) ∧
  (∀ c b, c < 64 → b < 16 → (State.reset.core c).sfmtNo b = 1) ∧
  (∀ c, c < 64 → (State.reset.core c).acctag = 0 ∧ (State.reset.core c).ops = []) ∧
  (∀ c w, c < 64 → w < 4 → ((State.reset.core c).wslot w).loaded = false) ∧
  (∀ n, n < 64 → leaseState (State.reset.lease n) = 0) ∧ (∀ n, n < 8 → (State.reset.dbg.buf n).en = false) ∧
  (∀ n, n < 64 → State.reset.sec.key n = none) ∧ (∀ n, n < 8 → State.reset.sec.measure n = 0)


/-! ### Scalar words (04) -/

/-- The register arithmetic of Table 4.4 but DIV and REM: each word reads ga and gb at issue and makes one result, which lands
in gd at its latency (Table 4.1); nothing else changes (R119, R121). -/
def Obligations.RegisterArithmetic : Prop :=
  ∀ (s : State) (d a b : BitVec 6) (m : BitVec 2), s.atSlot →
    let x := s.g a
    let y := s.g b
    let run := fun (i : Instr) (L : Nat) (v : Word) =>
      s.admits i {} 0 → exec i s = .next (s.landed [s.landing L (.g d.toNat v)])
    run (.add d a b) 1 (x + y) ∧ run (.sub d a b) 1 (x - y) ∧ run (.and d a b) 1 (x &&& y) ∧ run (.or d a b) 1 (x ||| y) ∧
    run (.xor d a b) 1 (x ^^^ y) ∧ run (.shl d a b) 1 (x <<< (y.toNat % 64)) ∧ run (.shr d a b) 1 (x >>> (y.toNat % 64)) ∧
    run (.sha d a b) 1 (x.sshiftRight (y.toNat % 64)) ∧ run (.mul d a b) 3 (x * y) ∧
    (m = 0 → run (.mulh d a b m) 3 ((x.signExtend 128 * y.signExtend 128).extractLsb' 64 64)) ∧
    (m = 1 → run (.mulh d a b m) 3 ((x.setWidth 128 * y.setWidth 128).extractLsb' 64 64)) ∧
    (m = 2 → run (.mulh d a b m) 3 ((x.signExtend 128 * y.setWidth 128).extractLsb' 64 64)) ∧
    (m = 0 → run (.min d a b m) 1 (if y.slt x then y else x) ∧ run (.max d a b m) 1 (if x.slt y then y else x)) ∧
    (m = 1 → run (.min d a b m) 1 (if y.ult x then y else x) ∧ run (.max d a b m) 1 (if x.ult y then y else x)) ∧
    run (.clz d a) 1 x.clz ∧ run (.popc d a) 1 x.cpop ∧ run (.addsh d a b m) 1 (x + y * (1 <<< m.toNat)) ∧
    run (.bfi d a b) 1 (bitInsert (s.g d) x y) ∧ run (.bfx d a b) 1 (bitExtract x y)

/-- DIV and REM: the quotient rounded toward zero and its remainder, landing after 18 cycles; where gb is 0 the quotient is all
ones and the remainder ga, and -2^63 by -1 gives -2^63 and 0 (R120, Table 4.5). -/
def Obligations.Division : Prop :=
  ∀ (s : State) (d a b : BitVec 6), s.atSlot →
    let x := s.g a
    let y := s.g b
    let run := fun (i : Instr) (v : Word) => s.admits i {} 0 → exec i s = .next (s.landed [s.landing 18 (.g d.toNat v)])
    (y = 0 → run (.div d a b 1) 0xFFFFFFFFFFFFFFFF ∧ run (.rem d a b 1) x) ∧
    (y = 0 → run (.div d a b 0) (-1) ∧ run (.rem d a b 0) x) ∧
    (x = BitVec.intMin 64 → y = -1 → run (.div d a b 0) (BitVec.intMin 64) ∧ run (.rem d a b 0) 0) ∧
    (y ≠ 0 → run (.div d a b 1) (x / y) ∧ run (.rem d a b 1) (x % y)) ∧
    (y ≠ 0 → run (.div d a b 0) (x.sdiv y) ∧ run (.rem d a b 0) (x.srem y))

/-- XIMM: the immediate is the payloads and the field joined, sign-extended from bit 47 or from its own top bit; a value wider
than 48 bits that is no sign copy raises XPREFIX; without a prefix the entry's own extension holds (R59). -/
def Obligations.PrefixedImmediate : Prop :=
  (∀ (n imm : Nat) (x y : BitVec 20), n = 8 ∨ n = 14 ∨ n = 17 ∨ n = 20 → imm < 2 ^ n →
    let f := BitVec.ofNat n imm
    immediate [] n true imm = some (f.signExtend 64) ∧ immediate [] n false imm = some (f.setWidth 64) ∧
    (∀ sx, immediate [x] n sx imm = some ((x ++ f).signExtend 64)) ∧
    (∀ sx, 40 + n ≤ 48 → immediate [x, y] n sx imm = some ((x ++ y ++ f).signExtend 64)) ∧
    (∀ sx, 48 < 40 + n →
      let c := x ++ y ++ f
      immediate [x, y] n sx imm =
        if c = (c.setWidth 48).signExtend (20 + 20 + n) then some ((c.setWidth 48).signExtend 64) else none)) ∧
  (∀ (s : State) (d : BitVec 6) (i14 : BitVec 14) (t3 : BitVec 3) (i17 : BitVec 17), s.who.q.pfx.xidle = none → s.who.q.pfx.xmod = none →
    let xs := s.who.q.pfx.ximm
    let traps := fun (i : Instr) => i.wf = true → exec i s = .next (s.raise { code := .xprefix })
    (immediate xs 14 true i14.toNat = none → traps (.li d i14)) ∧ (immediate xs 17 true i17.toNat = none → traps (.pbr t3 i17)))

/-- The words with an immediate: ADDI to XORI and LI, LIH from the value under R59, the shifts by their count (R122, R123). -/
def Obligations.Immediates : Prop :=
  ∀ (s : State) (d a n : BitVec 6) (i8 : BitVec 8) (i14 : BitVec 14) (v : Word), s.atSlot →
    let x := s.g a
    let run := fun (i : Instr) (r : Word) =>
      s.admits i { ximm := true } 0 → exec i s = .next (s.landed [s.landing 1 (.g d.toNat r)])
    (s.immIs 8 true i8.toNat v → run (.addi d a i8) (x + v) ∧ run (.andi d a i8) (x &&& v)) ∧
    (s.immIs 8 false i8.toNat v → run (.ori d a i8) (x ||| v) ∧ run (.xori d a i8) (x ^^^ v)) ∧
    (s.immIs 14 true i14.toNat v → run (.li d i14) v) ∧
    (s.immIs 14 false i14.toNat v → run (.lih d i14) (v.setWidth 32 ++ (s.g d).setWidth 32 : BitVec 64)) ∧
    (∀ i r, (i = .shli d a n ∧ r = x <<< n.toNat) ∨ (i = .shri d a n ∧ r = x >>> n.toNat) ∨
        (i = .shai d a n ∧ r = x.sshiftRight n.toNat) →
      s.admits i {} 0 → exec i s = .next (s.landed [s.landing 1 (.g d.toNat r)]))

/-- Comparisons make all ones where the relation holds and zero elsewhere; predicate logic, PSETN, PCNT and the moves between g
and p (R124 to R127). -/
def Obligations.Predicates : Prop :=
  ∀ (s : State) (d a b : BitVec 6) (m : BitVec 2) (i8 : BitVec 8) (v : Word), s.atSlot →
    let x := s.g a
    let y := s.g b
    let all := fun (b : Bool) => if b then BitVec.allOnes 64 else 0#64
    let p := fun (r : Word) => s.landed [s.landing 1 (.p d.toNat r (BitVec.allOnes 64))]
    let run := fun (i : Instr) (t : State) => s.admits i {} 0 → exec i s = .next t
    run (.cmpeq d a b) (p (all (x == y))) ∧ run (.cmpne d a b) (p (all (x != y))) ∧
    run (.cmplt d a b m) (p (all (if m = 1 then x.ult y else x.slt y))) ∧
    run (.cmple d a b m) (p (all (if m = 1 then x.ule y else x.sle y))) ∧
    run (.pand d a b m) (p (if m = 0 then s.p a &&& s.p b else s.p a &&& ~~~s.p b)) ∧
    run (.por d a b m) (p (if m = 0 then s.p a ||| s.p b else s.p a ||| ~~~s.p b)) ∧
    run (.pxor d a b m) (p (if m = 0 then s.p a ^^^ s.p b else ~~~(s.p a ^^^ s.p b))) ∧
    (s.immIs 8 false i8.toNat v → s.admits (.psetn d a i8) { ximm := true } 0 →
      let n := min (max (x.toInt + v.toInt) 0) 64
      exec (.psetn d a i8) s = .next (p (if n = 64 then BitVec.allOnes 64 else BitVec.ofNat 64 (2 ^ n.toNat - 1)))) ∧
    run (.pcnt d a) (s.landed [s.landing 1 (.g d.toNat (s.p a).cpop)]) ∧
    run (.pmovg d a) (s.landed [s.landing 1 (.g d.toNat (s.p a))]) ∧ run (.pmovp d a) (p x)

/-- WIDF gives a field of the WID at its offset and width. MOVS reads a special register of Table 1.5 that the level may read and
MOVSW writes one it may write; a read of HCAUSE to HWORD at level T, a write of a read-only register, and RMODE 5 to 7 or TDEAD 0
trap with nothing written (R23, R24, R128, R129). -/
def Obligations.SpecialRegisters : Prop :=
  ∀ (s : State) (d : BitVec 6) (n : BitVec 14), s.atSlot →
    let k := n.toNat
    let t := s.cur
    let get := fun (v : Word) => exec (.movs d n) s = .next (s.landed [s.landing 1 (.g d.toNat v)])
    (s.admits (.widf d n) {} 0 → ∀ j, t.launch.bind s.job = some j →
      exec (.widf d n) s = .next (s.landed [s.landing 1 (.g d.toNat
        (BitVec.ofNat 64 (t.wid.toNat / 2 ^ j.fieldOff k % 2 ^ j.width k)))])) ∧
    (s.admits (.movs d n) {} 0 →
      (k = 0 → get (BitVec.ofNat 64 s.tick)) ∧ (k = 1 → get t.wid) ∧ (k = 2 → get (BitVec.ofNat 64 s.who.core)) ∧
      (k = 3 → get (BitVec.ofNat 64 t.ctx)) ∧ (k = 4 → get (s.tstat s.who.core s.who.slot)) ∧
      (k = 5 → get (t.rmode.setWidth 64)) ∧ (k = 6 → get (t.fstat.setWidth 64)) ∧ (k = 7 → get (t.bstat.setWidth 64)) ∧
      (k = 8 → get t.tdead) ∧
      (t.lvl ≠ 0 → (k = 9 → get t.hcause) ∧ (k = 10 → get t.haddr) ∧ (k = 11 → get (t.hpc.setWidth 64)) ∧
        (k = 12 → get (t.hword.setWidth 64))) ∧
      (k = 13 → get (s.lnstat s.who.core s.who.slot)) ∧
      (9 ≤ k → k ≤ 12 → t.lvl = 0 → exec (.movs d n) s = .next (s.raise { code := .privilege }))) ∧
    (s.admits (.movsw d n) {} 0 →
      let v := s.g d
      let done := exec (.movsw d n) s = .next (s.landed [s.landing 1 (.spec k v)])
      let trap := fun (c : FaultCode) => exec (.movsw d n) s = .next (s.raise { code := c })
      (k = 5 → v.toNat % 8 < 5 → done) ∧ (k = 5 → 5 ≤ v.toNat % 8 → trap .reservedField) ∧ (k = 6 ∨ k = 7 → done) ∧
      (k = 8 → v ≠ 0 → done) ∧ (k = 8 → v = 0 → trap .reservedField) ∧ (k = 11 → t.lvl ≠ 0 → done) ∧
      (k < 5 ∨ 9 ≤ k → ¬(k = 11 ∧ t.lvl ≠ 0) → trap .privilege))

/-- Scalar and shape-record loads and stores. Where a check fails its fault is raised, the first of WATCHPOINT, ALIGN_FAULT and
WINDOW_VIOLATION that fails, and nothing else happens (R131, R132). Where they pass: SLD and SHLD land what the load reads at issue, extended, after 4
cycles; SST and SHST put the low bytes of their register at A and up, after 2. The load reads each byte as memory has it, or as it
was before a write of an operation of the task that the task has not joined; where no such older value stands it reads memory; of
the state it changes at most the free values drawn and which older values still stand (R130, R133, R134, R136). -/
def Obligations.ScalarMemory : Prop :=
  ∀ (s : State) (d a : BitVec 6) (cls : BitVec 4) (wd : BitVec 2) (sx : BitVec 1) (i8 : BitVec 8) (v : Word), s.atSlot →
    let A := (s.g a).toNat
    let n := 2 ^ wd.toNat
    let load := fun (x k : Nat) => s.loadMem ((List.range k).map (x + ·))
    let value := fun (x k : Nat) => (load x k).1.nat (localAddr s.who.core x) k
    let fails := fun (i : Instr) (write : Bool) (x k : Nat) =>
      s.accessFaults (exec i s) write x k k (oneRange (!write) x k = true) (write = false ∧ imemBase ≤ x ∧ x + k ≤ imemEnd)
    (s.admits (.sld d a cls wd sx) {} 0 → fails (.sld d a cls wd sx) false A n) ∧
    (s.admits (.sst d a cls wd) {} 0 → fails (.sst d a cls wd) true A n) ∧
    (s.immIs 8 true i8.toNat v →
      (s.admits (.shld d a i8) { ximm := true } 0 → fails (.shld d a i8) false (s.g a + v * 32).toNat 32) ∧
      (s.admits (.shst d a i8) { ximm := true } 0 → fails (.shst d a i8) true (s.g a + v * 32).toNat 32)) ∧
    (s.admits (.sld d a cls wd sx) {} 0 → s.localChecks false true A n n = none →
      exec (.sld d a cls wd sx) s = .next ((load A n).2.landed [s.landing 4 (.g d.toNat
        (if sx = 1 then (BitVec.ofNat (8 * n) (value A n)).signExtend 64 else BitVec.ofNat 64 (value A n)))])) ∧
    (s.admits (.sst d a cls wd) {} 0 → s.localChecks true false A n n = none →
      exec (.sst d a cls wd) s = .next (s.landed [s.landing 2
        (.store ((List.range n).map fun i => { addr := A + i, bits := (s.g d).extractLsb' (8 * i) 8 })) (some cls.toNat)])) ∧
    (s.immIs 8 true i8.toNat v →
      let B := (s.g a + v * 32).toNat
      (s.admits (.shld d a i8) { ximm := true } 0 → s.localChecks false true B 32 32 = none →
        exec (.shld d a i8) s = .next ((load B 32).2.landed [s.landing 4
          (.sh d.toNat (BitVec.ofNat 256 (value B 32)) (BitVec.allOnes 256))])) ∧
      (s.admits (.shst d a i8) { ximm := true } 0 → s.localChecks true false B 32 32 = none →
        exec (.shst d a i8) s = .next (s.landed [s.landing 2
          (.store ((List.range 32).map fun i => { addr := B + i, bits := (s.sh d).extractLsb' (8 * i) 8 })) (some 0)]))) ∧
    (∀ x k, (load x k).2 = { s with free := (load x k).2.free, cores := (load x k).2.cores } ∧
      (∀ c m, (load x k).2.slot c m = s.slot c m) ∧ (s.me.olds s.who.slot = [] → load x k = (s.mem, s)) ∧
      ∀ y, (load x k).1.get y = s.mem.get y ∨ ∃ o ∈ s.me.olds s.who.slot, o.key = y ∧ o.byte = (load x k).1.get y)

/-- FSLOT, SHSET, SHGET and BNDSET (R135, R137, R138). -/
def Obligations.ShapesAndSlots : Prop :=
  ∀ (s : State) (d a b : BitVec 6) (sel : BitVec 4) (m : BitVec 2) (i8 : BitVec 8) (v : Word), s.atSlot →
    let h := s.sh a
    (s.immIs 8 false i8.toNat v → s.admits (.fslot d a i8) { ximm := true } 0 →
      exec (.fslot d a i8) s = .next (s.landed [s.landing 1 (.fs d.toNat ((s.g a + v).setWidth 8))])) ∧
    (s.admits (.shset d a sel) {} 0 → ∀ lo len, (sel.toNat, lo, len) ∈ [(0, 0, 64), (1, 64, 64), (2, 128, 64), (3, 192, 64),
        (4, 0, 32), (5, 32, 3), (6, 48, 16), (7, 64, 16), (8, 80, 24), (9, 104, 8), (10, 112, 8), (11, 120, 6), (12, 126, 1),
        (13, 127, 1), (14, 128, 32)] →
      exec (.shset d a sel) s = .next (s.landed [s.landing 1 (.sh d.toNat
        (((s.g a).setWidth len).setWidth 256 <<< lo) ((BitVec.allOnes len).setWidth 256 <<< lo))])) ∧
    (s.admits (.shset d a sel) {} 0 → sel = 15 →
      exec (.shset d a sel) s = .next (s.landed [s.landing 1 (.sh d.toNat
        (((s.g a).extractLsb' 32 32 ++ (0#96 ++ (s.g a).extractLsb' 0 32) : BitVec 160).setWidth 256)
        ((BitVec.allOnes 32 ++ (0#96 ++ BitVec.allOnes 32) : BitVec 160).setWidth 256))])) ∧
    (s.admits (.shget d a sel) {} 0 →
      let get := fun (v : Word) => exec (.shget d a sel) s = .next (s.landed [s.landing 1 (.g d.toNat v)])
      (∀ lo len, (sel.toNat, lo, len) ∈ [(0, 0, 64), (1, 64, 64), (2, 128, 64), (3, 192, 64), (4, 0, 32), (5, 32, 3), (6, 48, 16),
        (7, 64, 16), (9, 104, 8), (10, 112, 8), (11, 120, 6), (12, 126, 1), (13, 127, 1), (14, 128, 32)] →
          get ((h.extractLsb' lo len).setWidth 64)) ∧
      (sel = 8 → get ((h.extractLsb' 80 24).signExtend 64)) ∧
      (sel = 15 → get (h.extractLsb' 128 32 ++ h.extractLsb' 0 32 : BitVec 64))) ∧
    (s.admits (.bndset d a b m) {} 0 →
      exec (.bndset d a b m) s = .next (s.landed [s.landing 1 (.bnd d.toNat { lo := s.g a, hi := s.g b, act := m })]))

/-- The target loads: PBR and PBRG give an index modulo 32,768, TMOV copies a target or reads it; a load counts for the redirect
from its issue cycle on (R139). -/
def Obligations.Targets : Prop :=
  ∀ (s : State) (d a : BitVec 6) (t : BitVec 3) (o : BitVec 17) (i8 : BitVec 8) (v : Word), s.atSlot →
    let load := fun (n : Nat) (x : WordIdx) => s.setSlot s.who.core s.who.slot { s.cur with
      landings := s.cur.landings ++ [s.landing 1 (.t n x)], supp := s.suppNext
      regs := { s.cur.regs with tAt := s.cur.regs.tAt.setIfInBounds n (some s.who.cyc) } }
    (s.immIs 17 true o.toNat v → s.admits (.pbr t o) { ximm := true } 0 →
      exec (.pbr t o) s = .next (load t.toNat (s.who.q.idx + v.setWidth 15))) ∧
    (s.immIs 8 true i8.toNat v → s.admits (.pbrg d a i8) { ximm := true } 0 →
      exec (.pbrg d a i8) s = .next (load d.toNat ((s.g a + v).setWidth 15))) ∧
    (s.admits (.tmov d a 0) {} 0 → exec (.tmov d a 0) s = .next (load d.toNat (s.cur.regs.readT a.toNat))) ∧
    (s.admits (.tmov d a 1) {} 0 → exec (.tmov d a 1) s =
      .next (s.landed [s.landing 1 (.g d.toNat ((s.cur.regs.readT a.toNat).setWidth 64))]))

/-- BR and CALL: delivery goes on one cycle after the issue, at the target where the branch is taken, or four cycles after where
the target was loaded later than three cycles before or a write to the predicate by an earlier word is still in flight; CALL
lands its link (R30, R140 to R142). -/
def Obligations.BranchesAndCalls : Prop :=
  ∀ (s : State) (p d a : BitVec 6) (t : BitVec 3) (c : BitVec 2), s.atSlot →
    let go := fun (pc : WordIdx) (n : Nat) (xs : List Landing) => s.setSlot s.who.core s.who.slot { s.cur with
      landings := s.cur.landings ++ xs, supp := s.suppNext, pc := pc, stall := false, dnext := s.who.cyc + n }
    let target := fun (n : Nat) => (s.cur.regs.tAt[n]?.getD none).any fun x => decide (x + 3 ≤ s.who.cyc)
    let predicate := p.toNat = 0 ∨ ∀ l ∈ s.cur.landings, l.iss < s.who.cyc → ∀ v m, l.eff ≠ .p p.toNat v m
    let x := s.p p
    let takes := (c = 0 ∧ x ≠ 0) ∨ (c = 1 ∧ x = BitVec.allOnes 64) ∨ (c = 2 ∧ x = 0) ∨ (c = 3 ∧ x.getLsbD 0 = true)
    (s.admits (.br p t c) {} 0 →
      (¬takes → exec (.br p t c) s = .next (go s.cur.pc 1 [])) ∧
      (takes → target t.toNat = true → predicate → exec (.br p t c) s = .next (go (s.cur.regs.readT t.toNat) 1 [])) ∧
      (takes → ¬(target t.toNat = true ∧ predicate) → exec (.br p t c) s = .next (go (s.cur.regs.readT t.toNat) 4 []))) ∧
    (s.admits (.call d a) {} 0 →
      exec (.call d a) s = .next (go (s.cur.regs.readT a.toNat) (if target a.toNat then 1 else 4)
        [s.landing 1 (.g d.toNat ((s.who.q.idx + 1).setWidth 64))]))

/-- EXIT in a task slot: the slot is RETIRING with the exit code and nothing else changes; with a prefix left for another
engine, latched, of a word not issued or of a word frozen on this cycle, EXIT raises XPREFIX. In the handler slot the handler retires and the interrupted task becomes RETIRING with the code, its
undelivered and unissued words, its freeze and its waiting faults gone (R143, R145). -/
def Obligations.ExitRetires : Prop :=
  ∀ (s : State) (code : BitVec 20), s.who.core < 64 → s.admits (.exit code) {} 0 →
    (s.who.slot < 4 → s.prefixLeft = false → exec (.exit code) s = .next (s.setSlot s.who.core s.who.slot
      { s.cur with st := .retiring, exited := true, xcode := code, supp := s.suppNext })) ∧
    (s.who.slot < 5 → s.prefixLeft = true → exec (.exit code) s = .next (s.raise { code := .xprefix })) ∧
    (s.who.slot = 4 → s.cur.hserve < 4 → s.prefixLeft = false → ∃ t, exec (.exit code) s = .next t ∧
      t = { s with cores := t.cores } ∧ (t.slot s.who.core 4).st = .retiring ∧
      let x := t.slot s.who.core s.cur.hserve
      let y := s.slot s.who.core s.cur.hserve
      x.st = .retiring ∧ x.exited = true ∧ x.xcode = code ∧ x.waiting = [] ∧ x.flt = none ∧ x.freeze = none ∧
        (∀ e, e < 6 → x.queues[e]?.getD [] = []) ∧ x.regs = y.regs ∧ x.landings = y.landings ∧
      (∀ n, n < 4 → n ≠ s.cur.hserve → t.slot s.who.core n = s.slot s.who.core n) ∧
      (∀ c, c ≠ s.who.core → t.core c = s.core c))

/-! ### Frames and landings (01) -/

/-- THE FRAME of the words that make results only. Whether such a word completes or traps, the next state differs from the one
before in the word's own slot, and there in nothing but results on their way, the queue the word came from, the faults of the
cycle and the suppress-once flag; of its core beside that slot at most in the bank formats on their way (BFMT lands on
the core's next cycle) and in which older values of bytes its operations have written still stand; and in the model's counter of
free values, which a load before a join advances (log 8). Every register, flag, special register, accumulator, byte of memory,
operation, other slot and other core, and everything outside the cores, stands (R32, R37, R41). -/
def Obligations.ResultWordFrame : Prop :=
  ∀ (i : Instr) (s t : State), s.atSlot → i.resultOnly = true → exec i s = .next t →
    t = { s with cores := t.cores, free := t.free } ∧ (∀ c, c ≠ s.who.core → t.core c = s.core c) ∧
    (∀ n, n ≠ s.who.slot → t.me.slot n = s.me.slot n) ∧ (s.me.olds s.who.slot = [] → t.free = s.free ∧ t.me.ops = s.me.ops) ∧
    s.me.formats <+: t.me.formats ∧
    t.me = { s.me with slots := t.me.slots, hslot := t.me.hslot, formats := t.me.formats, ops := t.me.ops } ∧
    t.me.ops.map (fun o => { o with olds := [] }) = s.me.ops.map (fun o => { o with olds := [] }) ∧
    (let x := t.cur
     s.cur.landings <+: x.landings ∧ (∀ e, e ≠ queueOf s.who.q.word → x.queues[e]? = s.cur.queues[e]?) ∧
      x = { s.cur with landings := x.landings, queues := x.queues, flt := x.flt, fltAt := x.fltAt, waiting := x.waiting,
                       supp := x.supp })

/-- A result that lands changes the register it names and no other: g0 and p0 take no write, a predicate or vector result only
the lanes of its mask, a shape field only its bits; the flags are an OR into FSTAT (R20, R22, R102, R137). -/
def Obligations.LandingFrame : Prop :=
  ∀ (t : Slot) (n : Nat) (v m : Word) (xs : List Half) (h hm : Shape256) (w : WordIdx) (f : Byte) (b : Bound) (fl : Flags),
    (n < 64 → let u := t.applyReg (.g n v)
      (∀ k, u.regs.readG k = if k = n ∧ n ≠ 0 then v else t.regs.readG k) ∧ u = { t with regs := { t.regs with g := u.regs.g } }) ∧
    (n < 48 → let u := t.applyReg (.p n v m)
      (∀ k, u.regs.readP k = if k = n ∧ n ≠ 0 then (t.regs.readP n &&& ~~~m) ||| (v &&& m) else t.regs.readP k) ∧
        u = { t with regs := { t.regs with p := u.regs.p } }) ∧
    (n < 32 → let u := t.applyReg (.v n xs m)
      (∀ k (j : Fin 64), (u.regs.readV k)[j] =
        if k = n ∧ m.getLsbD j = true then xs[j.val]?.getD 0 else (t.regs.readV k)[j]) ∧
        u = { t with regs := { t.regs with v := u.regs.v } }) ∧
    (n < 32 → let u := t.applyReg (.sh n h hm)
      (∀ k, u.regs.readSh k = if k = n then (t.regs.readSh n &&& ~~~hm) ||| (h &&& hm) else t.regs.readSh k) ∧
        u = { t with regs := { t.regs with sh := u.regs.sh } }) ∧
    (n < 8 → let u := t.applyReg (.t n w)
      (∀ k, u.regs.readT k = if k = n then w else t.regs.readT k) ∧ u = { t with regs := { t.regs with t := u.regs.t } }) ∧
    (n < 8 → let u := t.applyReg (.fs n f)
      (∀ k, u.regs.readFs k = if k = n then f.toNat else t.regs.readFs k) ∧
        u = { t with regs := { t.regs with fs := u.regs.fs } }) ∧
    (n < 16 → let u := t.applyReg (.bnd n b)
      (∀ k, u.regs.readB k = if k = n then b else t.regs.readB k) ∧ u = { t with regs := { t.regs with b := u.regs.b } }) ∧
    t.applyReg (.vgp v) = { t with regs := { t.regs with vgp := v } } ∧
    t.applyReg (.flags fl) = { t with fstat := t.fstat ||| fl } ∧
    t.applyReg (.spec 5 v) = { t with rmode := v.setWidth 3 } ∧ t.applyReg (.spec 6 v) = { t with fstat := v.setWidth 5 } ∧
    t.applyReg (.spec 7 v) = { t with bstat := v.setWidth 16 } ∧ t.applyReg (.spec 8 v) = { t with tdead := v } ∧
    t.applyReg (.spec 11 v) = { t with hpc := v.setWidth 15 }

/-- A result is seen by every word that issues on its landing cycle or later and by none before: the landings of a task cycle
are those due on it, they leave the slot, and a scalar result due is then in its register (R32). A scalar or shape store lands its
bytes at the addresses it names in the core's own memory, and every other byte of package memory reads as before (R133, R136). -/
def Obligations.ResultsLand : Prop :=
  ∀ (s : State) (c n : Nat),
    (c < 64 → n < 5 →
      ((s.landCycle c n).slot c n).landings = (s.slot c n).landings.filter (fun l => decide ((s.slot c n).tc < l.cyc)) ∧
      (∀ l r v, (s.slot c n).landings = [l] → l.eff = .g r v → 0 < r → r < 64 →
        (l.cyc ≤ (s.slot c n).tc → ((s.landCycle c n).slot c n).regs.readG r = v) ∧
        ((s.slot c n).tc < l.cyc → s.landCycle c n = s))) ∧
    (∀ (A : Nat) (l : Landing) (bs : List Byte), l.eff = .store (bytesToMasked A bs) →
      let t := (s.applyLanding c n l).1
      (∀ i, i < bs.length → t.mem.get (localAddr c (A + i)) = bs[i]?.getD 0) ∧
      (∀ a, (∀ i, i < bs.length → a ≠ localAddr c (A + i)) → t.mem.get a = s.mem.get a) ∧ t.hostMem = s.hostMem ∧
      (∀ d m, t.slot d m = s.slot d m))

/-! ### Vector words (05) -/

/-- VADD to VDIV, VMIN, VMAX and the FMA family under a well-formed entry: each governed lane is one exact result of the decoded
operands, encoded once; lanes and flags land together (R148, R150, R151, R154). -/
def Obligations.VectorArithmetic : Prop :=
  ∀ (s : State) (d a b : BitVec 5) (fs : BitVec 3) (m : BitVec 2), s.atSlot → s.fsCheck fs = none →
    let e := s.fsFmt fs
    let r := s.mode
    let x := fun n => e.decode ((s.v a)[n]?.getD 0).toNat
    let y := fun n => e.decode ((s.v b)[if m = 1 then 0 else n]?.getD 0).toNat
    let z := fun n => e.decode ((s.v d)[n]?.getD 0).toNat
    let run := fun (i : Instr) (rounds : Bool) (L : Nat) (f : Nat → Val × Flags) => s.admits i { rounds := rounds } 0 →
      exec i s = .next (s.lanesLanded L d.toNat s.cur.regs.vgp (governed s.cur.regs.vgp fun n =>
        ((e.encode (f n).1 r).1, (e.encode (f n).1 r).2 ||| (f n).2)))
    run (.vadd d a b fs m) true 4 (fun n => vAdd r (x n) (y n)) ∧
    run (.vsub d a b fs m) true 4 (fun n => vAdd r (x n) (y n).neg) ∧
    run (.vmul d a b fs m) true 5 (fun n => vMul (x n) (y n)) ∧
    run (.vdiv d a b fs m) true 14 (fun n => if e.kind = .float then vDiv (x n) (y n) else intDiv e (x n) (y n)) ∧
    run (.vmin d a b fs m) false 4 (fun n => vMin (x n) (y n)) ∧ run (.vmax d a b fs m) false 4 (fun n => vMax (x n) (y n)) ∧
    run (.vfma d a b fs m) true 5 (fun n => vFma r (x n) (y n) (z n) false false) ∧
    run (.vfms d a b fs m) true 5 (fun n => vFma r (x n) (y n) (z n) false true) ∧
    run (.vfnma d a b fs m) true 5 (fun n => vFma r (x n) (y n) (z n) true false)

/-- The special functions under a float entry, each the model's infinitely precise value (log 13) encoded once, with the special
operands of Table 5.3 (R155); VABS and VNEG, which under a signed float entry copy the TW bits with the sign cleared or inverted and
else encode |x| or -x (R156); VSCL, the exact x * 2^k encoded once (R157); VCVT, which copies the TW bits under identical entries and
else encodes what it decodes (R158). Under an ill-formed entry, and a special function under an entry of another kind, the word
raises FORMAT_ILLEGAL (R148, R155). -/
def Obligations.VectorFunctions : Prop :=
  (∀ (s : State) (d a b : BitVec 5) (fs fa : BitVec 3) (m : BitVec 2), s.atSlot →
    let e := s.fsFmt fs
    let r := s.mode
    let x := fun n => ((s.v a)[n]?.getD 0).toNat
    let val := fun n => e.decode (x n)
    let bits := fun n => x n % 2 ^ e.tw
    let top := 2 ^ (e.tw - 1)
    let run := fun (i : Instr) (rounds : Bool) (L : Nat) (f : Nat → Nat × Flags) => s.admits i { rounds := rounds } 0 →
      exec i s = .next (s.lanesLanded L d.toNat s.cur.regs.vgp (governed s.cur.regs.vgp f))
    let traps := fun (i : Instr) (rounds : Bool) => s.admits i { rounds := rounds } 0 →
      exec i s = .next (s.raise { code := .formatIllegal })
    let by_ := fun (op : Special) (n : Nat) => let y := special op (val n); ((e.encode y.1 r).1, (e.encode y.1 r).2 ||| y.2)
    (s.fsCheck fs = none → e.kind = .float →
      run (.vsqrt d a fs) true 14 (by_ .sqrt) ∧ run (.vrec d a fs) true 14 (by_ .recip) ∧ run (.vrsq d a fs) true 14 (by_ .rsq) ∧
      run (.vexp2 d a fs) true 14 (by_ .exp2) ∧ run (.vlog2 d a fs) true 14 (by_ .log2)) ∧
    (s.fsCheck fs = none →
      (e.kind = .float → e.sgn = true → run (.vabs d a fs) false 4 (fun n => (bits n % top, 0)) ∧
        run (.vneg d a fs) false 4 (fun n => ((bits n + top) % 2 ^ e.tw, 0))) ∧
      (e.kind = .float → e.sgn = false → run (.vabs d a fs) false 4 (fun n => (bits n, 0)) ∧
        run (.vneg d a fs) false 4 (fun n => e.encode (val n).neg r)) ∧
      (e.kind ≠ .float → run (.vabs d a fs) false 4 (fun n => e.encode (val n).abs r) ∧
        run (.vneg d a fs) false 4 (fun n => e.encode (val n).neg r)) ∧
      run (.vscl d a b fs m) true 4 (fun n =>
        let k := ((s.v b)[if m = 1 then 0 else n]?.getD 0).toInt
        e.encode (if (val n).isNum then { val n with q := (val n).q + k } else val n) r) ∧
      (s.fsCheck fa = none → run (.vcvt d a fa fs) true 4 (fun n =>
        if s.fsNo fa = s.fsNo fs then (x n % 2 ^ (s.fsFmt fa).tw, 0) else e.encode ((s.fsFmt fa).decode (x n)) r))) ∧
    (s.fsCheck fs ≠ none ∨ e.kind ≠ .float → traps (.vsqrt d a fs) true ∧ traps (.vrec d a fs) true ∧
      traps (.vrsq d a fs) true ∧ traps (.vexp2 d a fs) true ∧ traps (.vlog2 d a fs) true) ∧
    (s.fsCheck fs ≠ none → traps (.vabs d a fs) false ∧ traps (.vneg d a fs) false ∧ traps (.vscl d a b fs m) true) ∧
    (s.fsCheck fa ≠ none ∨ s.fsCheck fs ≠ none → traps (.vcvt d a fa fs) true)) ∧
  (∀ v : Val,
    (v.isNan = true → ∀ op, special op v = (Val.nan, 0)) ∧
    (v.isZero = true → special .sqrt v = (v, 0) ∧ special .recip v = (Val.inf v.s, 0) ∧ special .rsq v = (Val.inf v.s, 0) ∧
      special .exp2 v = (Val.ofNat 1, 0) ∧ special .log2 v = (Val.inf true, 0)) ∧
    (v.isNan = false → v.isZero = false → v.s = true →
      special .sqrt v = (Val.nan, flagINV) ∧ special .rsq v = (Val.nan, flagINV) ∧ special .log2 v = (Val.nan, flagINV)) ∧
    (v.isInf = true → special .recip v = (Val.zero v.s, 0) ∧
      (v.s = true → special .exp2 v = (Val.zero false, 0)) ∧
      (v.s = false → special .sqrt v = (v, 0) ∧ special .rsq v = (Val.zero false, 0) ∧ special .exp2 v = (v, 0) ∧
        special .log2 v = (v, 0))))

/-- Logic, shifts, VSEL, VPRED, VCLASS and VBND (R159, R160, R162 to R164, R180): VAND, VOR and VXOR on all 32 bits; the shifts on
the TW-bit element by the low six bits of the count; VSEL by one predicate; VPRED sets VGP; VCLASS sets one bit of Table 5.4; VBND
sends its lanes with their entry and bound register to the check at its landing, four cycles after issue. A shift under a float or
an ill-formed entry, and VCLASS and VBND under an ill-formed one, raise FORMAT_ILLEGAL. -/
def Obligations.VectorBits : Prop :=
  ∀ (s : State) (d a b pn : BitVec 5) (p : BitVec 6) (fs : BitVec 3) (m : BitVec 2), s.atSlot →
    let e := s.fsFmt fs
    let g := s.cur.regs.vgp
    let x := fun n => (s.v a)[n]?.getD 0
    let y := fun n => (s.v b)[if m = 1 then 0 else n]?.getD 0
    let lands := fun (i : Instr) (f : Nat → Nat) => s.admits i {} 0 →
      exec i s = .next (s.lanesLanded 4 d.toNat g (governed g fun n => (f n, 0)))
    let traps := fun (i : Instr) => s.admits i {} 0 → exec i s = .next (s.raise { code := .formatIllegal })
    lands (.vand d a b m) (fun n => (x n &&& y n).toNat) ∧ lands (.vor d a b m) (fun n => (x n ||| y n).toNat) ∧
    lands (.vxor d a b m) (fun n => (x n ^^^ y n).toNat) ∧
    (s.fsCheck fs = none → e.kind ≠ .float →
      let t := fun n => (x n).toNat % 2 ^ e.tw
      let c := fun n => (y n).toNat % 64
      lands (.vshl d a b fs m) (fun n => t n * 2 ^ c n % 2 ^ e.tw) ∧ lands (.vshr d a b fs m) (fun n => t n / 2 ^ c n) ∧
      lands (.vsha d a b fs m) (fun n => (signedOf e.tw (t n) / 2 ^ c n % 2 ^ e.tw).toNat)) ∧
    (s.fsCheck fs ≠ none ∨ e.kind = .float →
      traps (.vshl d a b fs m) ∧ traps (.vshr d a b fs m) ∧ traps (.vsha d a b fs m)) ∧
    lands (.vsel d a b pn) (fun n => if (s.p pn).getLsbD n then (x n).toNat else ((s.v b)[n]?.getD 0).toNat) ∧
    (s.admits (.vpred p) {} 0 → exec (.vpred p) s = .next (s.landed [s.landing 1 (.vgp (s.p p))])) ∧
    (s.fsCheck fs = none → lands (.vclass d a fs) (fun n =>
      let u := e.decode (x n).toNat
      let sub : Bool := decide (((x n).toNat / 2 ^ e.fw) % 2 ^ e.ew = 0)
      if e.kind ≠ .float then (if u.m = 0 then 32 else if u.s then 4 else 128)
      else if u.isNan then 1 else if u.isInf then (if u.s then 2 else 256)
      else if u.m = 0 then (if u.s then 16 else 32)
      else if u.s then (if sub then 8 else 4) else if sub then 64 else 128)) ∧
    (s.fsCheck fs = none → s.admits (.vbnd d a b fs) {} 0 → exec (.vbnd d a b fs) s = .next (s.landed
      [s.landing 4 (.vbnd d.toNat b.toNat (s.me.entry (s.fsNo fs)) (s.v a) g)])) ∧
    (s.fsCheck fs ≠ none → traps (.vclass d a fs) ∧ traps (.vbnd d a b fs))

/-- The vector comparisons: bit n of pd, for each governed lane and no other, is the relation of the decoded operands; LT and LE
raise INV on a NaN (R161). -/
def Obligations.VectorCompare : Prop :=
  ∀ (s : State) (p : BitVec 6) (a b : BitVec 5) (fs : BitVec 3), s.atSlot → s.fsCheck fs = none →
    let e := s.fsFmt fs
    let g := s.cur.regs.vgp
    let x := fun n => e.decode ((s.v a)[n]?.getD 0).toNat
    let y := fun n => e.decode ((s.v b)[n]?.getD 0).toNat
    let nan := fun n => (x n).isNan || (y n).isNan
    let run := fun (i : Instr) (holds inv : Nat → Bool) => s.admits i {} 0 →
      ∃ (v : Word) (f : Flags),
        exec i s = .next (s.landed (s.landing 4 (.p p.toNat v g) :: if f = 0 then [] else [s.landing 4 (.flags f)])) ∧
        (∀ n, n < 64 → g.getLsbD n = true → v.getLsbD n = holds n) ∧
        (f = if (List.range 64).any (fun n => g.getLsbD n && inv n) then flagINV else 0)
    run (.vcmpeq p a b fs) (fun n => !nan n && !(x n).lt (y n) && !(y n).lt (x n)) (fun _ => false) ∧
    run (.vcmpne p a b fs) (fun n => nan n || (x n).lt (y n) || (y n).lt (x n)) (fun _ => false) ∧
    run (.vcmplt p a b fs) (fun n => !nan n && (x n).lt (y n)) nan ∧
    run (.vcmple p a b fs) (fun n => !nan n && !(y n).lt (x n)) nan ∧ run (.vcmpun p a b fs) nan (fun _ => false)

/-- The words that move lanes: VBCAST, VLANE, VIOTA, VPERM, VROT and the hitch mix of VRND (R165 to R169, R178). -/
def Obligations.VectorMoves : Prop :=
  ∀ (s : State) (d a b : BitVec 5) (g : BitVec 6) (fs : BitVec 3) (m : BitVec 2) (nh : BitVec 4) (up hi : BitVec 1), s.atSlot →
    let e := s.fsFmt fs
    let vgp := s.cur.regs.vgp
    let x := fun n => ((s.v a)[n]?.getD 0).toNat
    let run := fun (i : Instr) (rule : PfxRule) (L : Nat) (f : Nat → Nat × Flags) => s.admits i rule 0 →
      exec i s = .next (s.lanesLanded L d.toNat vgp (governed vgp f))
    (m = 0 → run (.vbcast d g fs m) {} 4 (fun _ => ((s.g g).toNat % 2 ^ 32, 0))) ∧
    (m = 1 → s.fsCheck fs = none → run (.vbcast d g fs m) { rounds := true } 4
      (fun _ => e.encode (Val.ofInt (s.g g).toInt) s.mode)) ∧
    (m = 2 → s.fsCheck fs = none → run (.vbcast d g fs m) { rounds := true } 4
      (fun _ => e.encode (Val.ofNat (s.g g).toNat) s.mode)) ∧
    (s.admits (.vlane a g nh m) {} 0 → exec (.vlane a g nh m) s = .next (s.landed
      [s.landing 4 (.g g.toNat (((s.v a)[nh.toNat * 4 + m.toNat]?.getD 0).setWidth 64))])) ∧
    (s.fsCheck fs = none → run (.viota d fs m) { rounds := true } 4
      (fun n => e.encode (Val.ofNat (if m = 0 then n else 63 - n)) s.mode)) ∧
    run (.vperm d a b m) {} 4 (fun n =>
      let y := (s.v b)[n]?.getD 0
      (if m = 1 ∧ y.getLsbD 31 = true then 0 else x (y.toNat % 64), 0)) ∧
    run (.vrot d a b up hi) {} 4 (fun n =>
      let k := hi.toNat * 32 + b.toNat
      (x (if up = 1 then (n + 64 - k) % 64 else (n + k) % 64), 0)) ∧
    run (.vrnd d a b m) {} 6 (fun n =>
      let h := (hitch (s.g b) ((s.v a)[n]?.getD 0)).toNat
      (if m = 0 then h else if h < min (s.cur.regs.readG (b.toNat + 1)).toNat (2 ^ 32) then 2 ^ 32 - 1 else 0, 0))

/-- Reductions and scans of the governed lanes: the tree of R108 over VADD, VMAX or VMIN, to lane 0 or every lane after 8 cycles;
the running value in ascending lane order, to the governed lanes after 10 (R108, R109, R170, R171). A node of the tree with one
input passes its value on, a NaN as the canonical one. -/
def Obligations.Reductions : Prop :=
  ∀ (s : State) (d a : BitVec 5) (fs : BitVec 3) (m : BitVec 2), s.atSlot → s.fsCheck fs = none →
    let e := s.fsFmt fs
    let g := s.cur.regs.vgp
    let xs := (List.range 64).map fun n => if g.getLsbD n then some (((s.v a)[n]?.getD 0).toNat % 2 ^ e.tw) else none
    let tree := fun (i : Instr) (op : Arith2) (rounds : Bool) => s.admits i { rounds := rounds } 0 →
      let r := treeLevels (laneArith2 op e s.mode) (fun x => if (e.decode x).isNan then e.nanCode else x) 6 xs
      exec i s = .next (s.lanesLanded 8 d.toNat (if m = 0 then 1 else BitVec.allOnes 64)
        (List.replicate 64 (BitVec.ofNat 32 ((r.1.head?.getD none).getD (e.encode (Val.zero false) s.mode).1)), r.2))
    tree (.vredsum d a fs m) .add true ∧ tree (.vredmax d a fs m) .max false ∧ tree (.vredmin d a fs m) .min false ∧
    (s.admits (.vscan d a fs m) { rounds := m == 0 } 0 →
      let r := scanLanes (laneArith2 (if m = 0 then .add else if m = 1 then .max else .min) e s.mode) none xs
      exec (.vscan d a fs m) s = .next (s.lanesLanded 10 d.toNat g (r.1.map (BitVec.ofNat 32), r.2)))

/-- Vector loads and stores. A word whose format slot fails raises FORMAT_ILLEGAL, and where a check of its whole extent fails the first of
WATCHPOINT, ALIGN_FAULT and WINDOW_VIOLATION (R172, Table 5.6; that a run which leaves its range at its end names its start is the
model's choice, log 27); VLDS and VSTS raise the first fault of their row's checks. Where all pass: lane n is container n of the run at ga, of the accumulator row converted under its
tag, or of row r of a shape below its valid count; a store moves the governed lanes alone, VSTA sets the row's tag at issue, and
with BE set the elements are checked when they land; a load of bytes that an unjoined operation of the task has written takes each
at its old or its new value, which loadMem chooses (R149, R172 to R177). -/
def Obligations.VectorMemory : Prop :=
  ∀ (s : State) (d h r : BitVec 5) (g : BitVec 6) (cls : BitVec 4) (fs : BitVec 3), s.atSlot →
    let e := s.fsFmt fs
    let cb := containerBits e.tw
    let vgp := s.cur.regs.vgp
    let A := (s.g g).toNat
    let x := fun n => ((s.v d)[n]?.getD 0).toNat
    let store := fun (s1 : State) (c : Nat) (fmt : Word) (es : List Elem) => s1.landed [s.landing 3
      (if s.who.q.pfx.mods.getLsbD 0 then .checked fmt (s.who.q.pfx.mods.extractLsb' 1 4).toNat es
        else .store (es.flatMap fun y => scatter y.pieces y.bits)) (some c)]
    let lanes := (List.range 64).filter fun n => vgp.getLsbD n
    let run := fun (k : Nat) => s.loadMem ((List.range k).map (A + ·))
    let fails := fun (i : Instr) (write : Bool) (len align lo hi : Nat) =>
      s.accessFaults (exec i s) write A len align (lo ≤ A ∧ A + len ≤ hi) False
    (s.fsCheck fs = none →
      (s.admits (.vld d g cls fs) {} 0 → fails (.vld d g cls fs) false (8 * cb) (max 1 (cb / 8)) 0 scratchSize) ∧
      (s.admits (.vst d g cls fs) storeRule 0 → fails (.vst d g cls fs) true (8 * cb) (max 1 (cb / 8)) 0 scratchSize) ∧
      (s.admits (.vlda d g cls fs) { rounds := true } 0 → fails (.vlda d g cls fs) false 256 256 accBase accEnd)) ∧
    (s.fsNo fs = 1 ∨ s.fsNo fs = 10 → s.admits (.vsta d g cls fs) storeRule 0 →
      fails (.vsta d g cls fs) true 256 256 accBase accEnd) ∧
    (s.fsNo fs ≠ 1 → s.fsNo fs ≠ 10 → s.admits (.vsta d g cls fs) storeRule 0 →
      exec (.vsta d g cls fs) s = .next (s.raise { code := .formatIllegal })) ∧
    (∀ f, s.fsCheck fs = some f →
      (s.admits (.vld d g cls fs) {} 0 → exec (.vld d g cls fs) s = .next (s.raise f)) ∧
      (s.admits (.vst d g cls fs) storeRule 0 → exec (.vst d g cls fs) s = .next (s.raise f)) ∧
      (s.admits (.vlda d g cls fs) { rounds := true } 0 → exec (.vlda d g cls fs) s = .next (s.raise f))) ∧
    (∀ f,
      (s.rowChecks false (shapeOf (s.sh h)) (s.g r).toNat fs = some f → s.admits (.vlds d h r fs) {} 0 →
        exec (.vlds d h r fs) s = .next (s.raise f)) ∧
      (s.rowChecks true (shapeOf (s.sh h)) (s.g r).toNat fs = some f → s.admits (.vsts d h r fs) storeRule 0 →
        exec (.vsts d h r fs) s = .next (s.raise f))) ∧
    (s.fsCheck fs = none → s.runChecks false A (8 * cb) (max 1 (cb / 8)) 0 scratchSize = none → s.admits (.vld d g cls fs) {} 0 →
      exec (.vld d g cls fs) s = .next ((run (8 * cb)).2.landed [s.landing 6 (.v d.toNat ((List.range 64).map fun n =>
        if vgp.getLsbD n then BitVec.ofNat 32 ((run (8 * cb)).1.bitsAt (8 * (localAddr s.who.core 0 + A) + cb * n) cb) else 0) vgp)])) ∧
    (s.fsCheck fs = none → s.runChecks true A (8 * cb) (max 1 (cb / 8)) 0 scratchSize = none →
      s.admits (.vst d g cls fs) storeRule 0 →
      exec (.vst d g cls fs) s = .next (store s cls.toNat (s.me.entry (s.fsNo fs)) (lanes.map fun n =>
        { pieces := [(8 * A + cb * n, cb, 0)], bits := x n % 2 ^ cb }))) ∧
    (s.fsCheck fs = none → s.runChecks false A 256 256 accBase accEnd = none → s.admits (.vlda d g cls fs) { rounds := true } 0 →
      let tag := s.me.rowEntry ((A - accBase) / 1024)
      exec (.vlda d g cls fs) s = .next ((run 256).2.lanesLanded 6 d.toNat vgp (governed vgp fun n =>
        let w := (run 256).1.nat (localAddr s.who.core (A + 4 * n)) 4
        if s.fsNo fs = tag then (w, 0) else convert (s.me.fmt tag) e w s.mode))) ∧
    (s.fsNo fs = 1 ∨ s.fsNo fs = 10 → s.runChecks true A 256 256 accBase accEnd = none → s.admits (.vsta d g cls fs) storeRule 0 →
      exec (.vsta d g cls fs) s = .next (store (s.updMe fun k => k.setTags [(A - accBase) / 1024] (s.fsNo fs == 10)) cls.toNat
        (presetEntry (s.fsNo fs)) (lanes.map fun n => { pieces := [(8 * (A + 4 * n), 32, 0)], bits := x n }))) ∧
    (let row := (s.g r).toNat
     let sh := shapeOf (s.sh h)
     let cols := fun n => decide (row < sh.validBy s.cur.regs) && decide (n < min sh.cols 64) && vgp.getLsbD n
     let at_ := fun n => (sh.bitAddr cb row n / 8).toNat
     (s.rowChecks false sh row fs = none → s.admits (.vlds d h r fs) {} 0 → ∃ mask,
       (∀ n, n < 64 → mask.getLsbD n = cols n) ∧
       let m := s.loadMem ((if row < sh.validBy s.cur.regs then List.range (min sh.cols 64) else []).flatMap fun n =>
         (List.range (cb / 8)).map (at_ n + ·))
       exec (.vlds d h r fs) s = .next (m.2.landed [s.landing 6 (.v d.toNat ((List.range 64).map fun n =>
         if cols n then BitVec.ofNat 32 (m.1.nat (localAddr s.who.core (at_ n)) (cb / 8)) else 0) mask)])) ∧
     (s.rowChecks true sh row fs = none → s.admits (.vsts d h r fs) storeRule 0 →
       exec (.vsts d h r fs) s = .next (store s 0 (s.me.entry (s.fsNo fs)) (((List.range 64).filter cols).map fun n =>
         { pieces := [(8 * at_ n, cb, 0)], bits := x n % 2 ^ cb }))))

/-! ### Faults, exceptions and return (08, 11) -/

/-- A word that faults: it stands again at the head of its queue for the next task cycle, and its fault stands at the task's
boundary with the word's index and bits, but where a fault stands there already, behind which only one raised at the landing of a
later word goes back to wait; nothing else changes (R41, R336, R499). An ill-formed word of a core stream
raises RESERVED_FIELD whatever its prefixes (R54, R69), a word above its task's level PRIVILEGE (R5), and TRAP raises TRAP_INSN
with its code as HADDR (R259). -/
def Obligations.WordsThatFault : Prop :=
  ∀ (s : State), s.atSlot →
    (∀ f : Raised, f.landed = false →
      let e := engineOf s.who.q.word
      let q := { s.who.q with dcyc := s.who.cyc + 1, again := true }
      let back := { s.cur with queues := s.cur.queues.setIfInBounds e (q :: s.cur.queues[e]?.getD []) }
      let mine := { f with idx := s.who.q.idx, word := s.who.q.word, seq := s.who.q.seq, tick := s.tick }
      let leaves := fun (x : Slot) => s.raise f = s.setSlot s.who.core s.who.slot x
      (s.cur.flt = none → leaves { back with flt := some mine, fltAt := (s.tick, s.me.cyc) }) ∧
      (∀ g, s.cur.flt = some g → g.landed = false ∨ g.seq ≤ s.who.q.seq → leaves back) ∧
      (∀ g, s.cur.flt = some g → g.landed = true → s.who.q.seq < g.seq →
        leaves { back with flt := some mine, waiting := s.cur.waiting ++ [g] })) ∧
    (∀ i, i.resultOnly = true ∨ i.engineWord = true ∨ i.systemWord = true → i.wf = false →
      exec i s = .next (s.raise { code := .reservedField })) ∧
    (∀ i lvl, (lvl = 1 ∧ ∃ n a b, i = .wpset n a b) ∨ (lvl = 2 ∧ i.managerWord = true) → decodeFault i {} true s.who.q = none →
      s.who.q.pfx.ximm = [] → s.cur.lvl.toNat < lvl → exec i s = .next (s.raise { code := .privilege })) ∧
    (∀ code : BitVec 20, s.admits (.trap code) {} 0 →
      exec (.trap code) s = .next (s.raise { code := .trapInsn, addr := code.setWidth 64 }))

/-- TAKING AN EXCEPTION. A fault that stands at a slot's boundary and is routed to the handler: the slot becomes BLOCKED, or FROZEN
for a violation, with FCODE and the saved cause, address, index and word; the handler slot starts ACTIVE at level H at the entry
index of HCFG with its registers at reset, the fault's values in HCAUSE, HADDR, HPC and HWORD, and the task's TDEAD; no memory, no
register of the task and no other slot changes (R338 to R340, R359). -/
def Obligations.ExceptionEntry : Prop :=
  ∀ (s : State) (c n : Nat) (f : Raised), c < 64 → n < 4 →
    let y := s.slot c n
    let hcfg := (s.ctx y.ctx).hcfg
    (s.core c).stopped = false → y.flt = some f → y.fltAt.1 < s.tick → (s.core c).hslot.st = .empty →
    y.st ≠ .frozen → routed hcfg y f = true →
    ∃ t, exec (.handlerEntry c n) s = .next t ∧ t = { s with cores := t.cores } ∧
      (∀ d m, d ≠ c ∨ (m ≠ n ∧ m ≠ 4) → t.slot d m = s.slot d m) ∧
      (let x := t.slot c n
       x.st = (if f.code = .windowViolation then .frozen else .blocked) ∧ x.flt = none ∧ x.fcode.toNat = f.code.toNat ∧
       x.hcause = hcauseOf f ∧ x.haddr = f.addr ∧ x.hpc = f.idx ∧ x.hword = f.word ∧ x.regs = y.regs ∧ x.fstat = y.fstat ∧
       x.bstat = y.bstat ∧ x.rmode = y.rmode ∧ x.tdead = y.tdead ∧ x.landings = y.landings ∧ x.pc = y.pc ∧ x.freeze = none) ∧
      (let h := t.slot c 4
       h.st = .active ∧ h.lvl = 1 ∧ h.pc = hcfg.extractLsb' 0 15 ∧ h.regs = Regs.init ∧ h.hcause = hcauseOf f ∧
       h.haddr = f.addr ∧ h.hpc = f.idx ∧ h.hword = f.word ∧ h.tdead = y.tdead ∧ h.hserve = n ∧ h.launch = y.launch ∧
       h.wid = y.wid ∧ h.ctx = y.ctx ∧ h.rmode = 0 ∧ h.fstat = 0 ∧ h.bstat = 0 ∧ h.landings = [] ∧ h.hfault = some f)

/-- RETURN FROM EXCEPTION. RETT in a handler entered for a fault at index F, with none of the handler's operations outstanding,
ends the handler and makes the interrupted task ACTIVE, or RETIRING after its EXIT. For a fault of a word in its queue: at HPC = F
the task goes on as it stands, the word taking its suppress-once flag after WATCHPOINT; at HPC = F + 1 that word is discarded from
the head of its queue. For one raised at a landing: at HPC = F its word stands at the head of its queue again, at HPC = F + 1
nothing does. At another HPC every delivered word and every latched prefix is discarded and delivery goes on there with the bubble of a
taken branch. Registers, flags and memory stand (R30, R260, R342, Table 8.7). RETT outside a handler, or in one entered for a
violation, raises PRIVILEGE (R260, R359). -/
def Obligations.ExceptionReturn : Prop :=
  ∀ (s : State), s.who.core < 64 → s.admits .rett {} 0 →
    (s.who.slot < 4 → exec .rett s = .next (s.raise { code := .privilege })) ∧
    (∀ f, s.who.slot = 4 → s.cur.hfault = some f →
      (f.code = .windowViolation → exec .rett s = .next (s.raise { code := .privilege })) ∧
      (f.code ≠ .windowViolation → f.async = false → f.unissued = false → s.cur.hserve < 4 → engineOf f.word < 6 →
        s.me.handlerOps = false → ∃ t, exec .rett s = .next t ∧ t = { s with cores := t.cores } ∧
          (t.slot s.who.core 4).st = .retiring ∧
          let e := engineOf f.word
          let y := s.slot s.who.core s.cur.hserve
          let x := t.slot s.who.core s.cur.hserve
          x.st = (if y.exited then .retiring else .active) ∧ x.regs = y.regs ∧ x.fstat = y.fstat ∧ x.landings = y.landings ∧
          (f.landed = false → s.cur.hpc = f.idx → x.pc = y.pc ∧ (f.code ≠ .watchpoint → x.queues = y.queues) ∧
            (f.code = .watchpoint → ∀ q rest, y.queues[e]? = some (q :: rest) → q.idx = f.idx →
              x.queues[e]? = some ({ q with supp := true } :: rest) ∧ x.supp = true ∧ ∀ d, d ≠ e → x.queues[d]? = y.queues[d]?)) ∧
          (f.landed = false → s.cur.hpc = f.idx + 1 → x.pc = y.pc ∧
            ∀ q rest, y.queues[e]? = some (q :: rest) → q.idx = f.idx →
              x.queues[e]? = some rest ∧ ∀ d, d ≠ e → x.queues[d]? = y.queues[d]?) ∧
          (f.landed = true → s.cur.hpc = f.idx → x.pc = y.pc ∧ ∃ q, q.word = f.word ∧ q.idx = f.idx ∧ q.seq = f.seq ∧
            q.pfx = f.pfx ∧ x.queues = y.queues.setIfInBounds e (q :: y.queues[e]?.getD [])) ∧
          (f.landed = true → s.cur.hpc = f.idx + 1 → x.queues = y.queues ∧ x.pc = y.pc) ∧
          (s.cur.hpc ≠ f.idx → s.cur.hpc ≠ f.idx + 1 →
            x.pc = s.cur.hpc ∧ x.dnext = y.tc + 3 ∧ (∀ d, d < 6 → x.queues[d]? = some []) ∧ (∀ e, e < 8 → x.latch[e]? = some ({} : Pfx)) ∧
            x.half = none ∧ x.stall = false ∧ x.supp = false)))

/-- A fault that is not routed to a handler, a fault in the handler slot, and a handler that runs past its deadline end the
launch: no slot of it keeps a task, and its entry ends with the fault's code as its status (R323, R324, R338, R344). -/
def Obligations.FaultEndsTheLaunch : Prop :=
  ∀ (s : State) (c n l : Nat) (j : Job), c < 64 → s.job l = some j → j.stage ≠ .ended →
    let beyond := fun (t : State) (code : FaultCode) =>
      (∀ d m, d < 64 → m < 5 → (t.slot d m).launch ≠ some l) ∧
      (∃ k, t.job l = some k ∧ k.stage = .ended ∧ k.status = code.toNat ∧ k.etick = s.tick) ∧ t.mem = s.mem
    (∀ f, n < 4 → (s.slot c n).launch = some l → (s.core c).stopped = false → (s.slot c n).flt = some f →
      (s.slot c n).fltAt.1 < s.tick → (s.core c).hslot.st = .empty → f.code ≠ .windowViolation →
      routed (s.ctx (s.slot c n).ctx).hcfg (s.slot c n) f = false →
      ∃ t, exec (.handlerEntry c n) s = .next t ∧ beyond t f.code) ∧
    (∀ f, (s.slot c 4).launch = some l → (s.core c).stopped = false → (s.slot c 4).flt = some f →
      (s.slot c 4).fltAt.1 < s.tick → f.code ≠ .windowViolation →
      ∃ t, exec (.handlerEntry c 4) s = .next t ∧ beyond t f.code) ∧
    (∀ t0, (s.slot c 4).launch = some l → (s.slot c 4).st = .active → (s.slot c 4).hstart = some t0 →
      t0 + (s.slot c 4).tdead.toNat ≤ s.tick →
      ∃ t, exec (.handlerDeadline c) s = .next t ∧ beyond t .waitDeadline)

/-! ### Synchronisation and system words (08) -/

/-- The advance of a synchronisation word, tested once after the updates of a cycle: ARR counts the arrivals modulo 2^16, BYTES
falls by the amounts, and where ARR meets EXP and BYTES is 0, GEN counts on, ARR is 0 and BYTES is TARGET again; NEG and OVER stay
once raised; EXP and TARGET never change (R250). -/
def Obligations.SyncAdvance : Prop :=
  ∀ (w : SyncWord) (n : Nat) (x : Int),
    let r := w.step n x
    let arr := (w.arr + n) % 2 ^ 16
    r.1.exp = w.exp ∧ r.1.target = w.target ∧
    r.1.neg = (w.neg || decide (w.bytes - x < 0)) ∧ r.1.beyond = (w.beyond || (decide (0 < n) && decide (w.exp < w.arr + n))) ∧
    (arr = w.exp → w.bytes = x → r.2 = true ∧ r.1.gen = (w.gen + 1) % 2 ^ 32 ∧ r.1.arr = 0 ∧ r.1.bytes = w.target) ∧
    (¬(arr = w.exp ∧ w.bytes = x) → r.2 = false ∧ r.1.gen = w.gen ∧ r.1.arr = arr ∧ r.1.bytes = w.bytes - x)

/-- ARRIVAL: the updates of a word that are due and free to apply do so and leave the queue, an initialisation first, in one step of the
word in memory; an ARRIVE that may apply is one arrival with its amount; of a line marked poisoned an initialisation is written and
nothing else applies, an operation whose completion update it is raising the fault that it carries (R250 to R252, R455). An update waits where its way to the bank is
clock-stopped or a flit holds the bank, and where the bank's ALU is at another line on the tick (R284, R395, R417; the order of what
waits is the model's choice, log 2). -/
def Obligations.ArrivalApplies : Prop :=
  ∀ (s : State) (a : Nat), s.aluTaken a 32 = false →
    let due := s.sync.filter (s.freeAt a)
    let rest := s.sync.filter fun u => !s.freeAt a u
    let ups := due.filter (·.init.isNone)
    let inits := due.filterMap (·.init)
    let bad := ∃ i, i < 32 ∧ (a + i) / 64 * 64 ∈ s.poison
    let leaves := fun (w : SyncWord) => ∃ t, exec (.arrival a) s = .next t ∧ t.sync = rest ∧ t.hostMem = s.hostMem ∧
      t.mem = (s.setSyncWord a w).mem
    (s.arrivals a = [] → due ≠ [] →
      (bad → inits = [] → ∃ t, exec (.arrival a) s = .next t ∧ t.sync = rest ∧ t.mem = s.mem ∧ t.hostMem = s.hostMem ∧
        ∀ u ∈ ups, ∀ n cls f, u.op = some (n, cls) → u.by_ = some f → u.core < 64 → n < 5 → (s.slot u.core n).st ≠ .empty →
          ∃ g ∈ (t.slot u.core n).waiting, g.code = f.code ∧ g.entry = f.entry ∧ g.idx = f.idx ∧ g.tick = s.tick) ∧
      (bad → ∀ g, inits.getLast? = some g → leaves (SyncWord.init g)) ∧
      (¬bad → let w0 := inits.foldl (fun _ g => SyncWord.init g) (s.syncWord a)
        leaves (if ups = [] then w0 else (w0.step (ups.filter (·.arr)).length ((ups.map (·.bytes)).foldl (· + ·) 0)).1))) ∧
    (∀ c o, s.arrivals a = [(c, o)] → due = [] → ¬bad → leaves ((s.syncWord a).step 1 o.x1.toInt).1)

/-- Waits and tests of an object that passes its checks: a wait whose condition holds completes and joins; else it freezes its
task with a deadline of its immediate, or of TDEAD at 0; a test, an ALIGN and a SWINIT freeze it always; WAITT freezes until its
tick, or gives the lateness at once, and faults where the tick lies beyond TDEAD (R248, R251, R253 to R256, R270). A wait on an object
that a clock stop keeps from its core freezes (R420), and an ALIGN that issues again waits on for the arrival it has made (R50). -/
def Obligations.WaitsFreeze : Prop :=
  ∀ (s : State) (d a : BitVec 6) (imm : BitVec 8) (cls : BitVec 4) (v : Word), s.atSlot →
    let comp := s.g a
    let dl := s.tick + (if v = 0 then s.cur.tdead.toNat else v.toNat)
    let plain := s.who.q.pfx.ximm = [] ∨ 0 ≤ v.toInt
    let frozen := fun (t : State) (h : Hold) (dl : Option Nat) => ∃ z, t.cur = { s.cur with freeze := some z } ∧
      z.q = s.who.q ∧ z.hold = h ∧ z.start = s.tick ∧ z.deadline = dl ∧ t.mem = s.mem ∧ t.hostMem = s.hostMem
    let waits := fun (i : Instr) (bitmap : Bool) (x : Nat) (h : Hold) => s.admits i { ximm := true } 0 → plain →
      (bitmap = true → 0 < x ∧ x ≤ 4096) → s.objectChecks comp bitmap x = none →
      s.objectPoison comp (if compBitmap comp then x else 0) = none →
      let stands := s.clockStopped s.who.core (compPackage s.who.core comp)
      (s.holds s.who.core comp x = true → stands = false →
        exec i s = .next (s.joinObject s.who.core s.who.slot comp).finish) ∧
      (s.holds s.who.core comp x = false ∨ stands = true → ∃ t, exec i s = .next t ∧ frozen t h (some dl))
    let tests := fun (i : Instr) (bitmap : Bool) (x : Nat) (h : Hold) => s.admits i { ximm := true } 0 → plain →
      (bitmap = true → 0 < x ∧ x ≤ 4096) → s.objectChecks comp bitmap x = none →
      ∃ t, exec i s = .next t ∧ frozen t h (some dl)
    (s.immIs 8 false imm.toNat v →
      waits (.waitg d a imm) false ((s.g d).toNat % 2 ^ 32) (.waitg comp ((s.g d).toNat % 2 ^ 32)) ∧
      waits (.waitm d a imm) true (s.g d).toNat (.waitm comp (s.g d).toNat) ∧
      (let x := (s.cur.regs.readG (a.toNat + 1)).toNat
       tests (.testg d a imm) false (x % 2 ^ 32) (.testg comp (x % 2 ^ 32) d.toNat) ∧
       tests (.testm d a imm) true x (.testm comp x d.toNat)) ∧
      (s.objectPoison comp 0 = none →
        (s.cur.arrived.lookup s.who.q.seq = none → tests (.align d a imm) false 0 (.align comp d.toNat .draining)) ∧
        (∀ h, s.cur.arrived.lookup s.who.q.seq = some h → s.admits (.align d a imm) { ximm := true } 0 → plain →
          s.objectChecks comp false 0 = none → ∃ t z, exec (.align d a imm) s = .next t ∧ z.q = s.who.q ∧ z.hold = h ∧
            z.deadline = some dl ∧ t.mem = s.mem ∧ t.sync = s.sync ∧
            t.cur = { s.cur with freeze := some z, arrived := s.cur.arrived.filter (·.1 != s.who.q.seq) }))) ∧
    (s.admits (.swinit d a cls) {} 0 → s.objectChecks comp false 0 = none →
      ∃ t, exec (.swinit d a cls) s = .next t ∧ frozen t (.swinit comp (s.g d)) (some (s.tick + s.cur.tdead.toNat)) ∧
        ∃ u, t.sync = s.sync ++ [u] ∧ u.addr = compPackage s.who.core comp ∧ u.init = some (s.g d) ∧ s.tick < u.due) ∧
    (s.immIs 8 true imm.toNat v → s.admits (.waitt d a imm) { ximm := true } 0 →
      let T := comp + v
      (s.tick + s.cur.tdead.toNat < T.toNat → exec (.waitt d a imm) s = .next (s.raise { code := .waitDeadline, addr := T })) ∧
      (T.toNat ≤ s.tick + s.cur.tdead.toNat → T.toNat ≤ s.tick + 1 →
        exec (.waitt d a imm) s = .next (s.landed [s.landing 1 (.late d.toNat T)])) ∧
      (T.toNat ≤ s.tick + s.cur.tdead.toNat → s.tick + 1 < T.toNat →
        ∃ t, exec (.waitt d a imm) s = .next t ∧ frozen t (.waitt T.toNat d.toNat) none))

/-- FENCE of acquire kind, where the accesses it covers have performed, completes and joins them; where they have not, and of
release or full kind, it freezes the task with a deadline of TDEAD, at system scope with a read of every host port and peer device that
writes of the task have reached (R257, R258, R498). FTR lands the entry as the core holds it; BFMT's entry number lands on the core's next
cycle, a bank above 15 raises SHAPE_RANGE; WPSET lands its watchpoint; ICINV completes; EVENT writes one record where tracing is
selected; YIELD gives way at the end of its cycle, in E-mode and out of a handler (R263 to R265, R269, R271, R272). -/
def Obligations.SystemWords : Prop :=
  ∀ (s : State) (d a b : BitVec 6) (imm : BitVec 8) (mask : BitVec 16) (kind scope : BitVec 2) (code : BitVec 14) (m : BitVec 1)
    (v : Word), s.atSlot →
    let q := s.who.q.seq
    (s.admits (.fence mask kind scope) {} 0 →
      let f : Fencing := { slot := s.who.slot, iss := s.who.cyc, seq := q, mask := mask, kind := kind.toNat, scope := scope.toNat }
      let reads := kind ≠ 1 ∧ scope = 3
      (kind = 1 → s.fenceHolds s.who.core f = true →
        exec (.fence mask kind scope) s = .next (s.fenceJoin s.who.core f).finish) ∧
      (kind ≠ 1 ∨ s.fenceHolds s.who.core f = false → ∃ t z, exec (.fence mask kind scope) s = .next t ∧
        t.cur = { s.cur with freeze := some z, flushTo := if reads then [] else s.cur.flushTo } ∧ z.q = s.who.q ∧
        z.hold = .fence mask kind.toNat scope.toNat ∧ z.iss = s.who.cyc ∧ z.deadline = some (s.tick + s.cur.tdead.toNat) ∧
        t.mem = s.mem ∧ t.out = s.out ++ if reads then s.cur.flushTo.map fun x => .flush x.1 x.2 else [])) ∧
    (s.immIs 8 false imm.toNat v →
      (s.admits (.ftr d a imm) { ximm := true } 0 → exec (.ftr d a imm) s =
        .next (s.landed [s.landing 1 (.g d.toNat (s.me.entry ((s.g a + v).toNat % 256)))])) ∧
      (let bank := (s.g a + v).toNat
       s.admits (.bfmt d a imm) { ximm := true } 0 →
        (15 < bank → exec (.bfmt d a imm) s = .next (s.raise { code := .shapeRange })) ∧
        (bank ≤ 15 → s.ungranted s.who.core s.who.slot (bank * 0x5000) 0x5000 = none →
          exec (.bfmt d a imm) s = .next (s.updMe fun k => { k with
            formats := k.formats ++ [(s.who.slot, { s.landing 1 (.sfmt bank ((s.g d).setWidth 8)) with cyc := k.cyc + 1 })] }).finish))) ∧
    (s.admits (.wpset d a b) {} 1 → (s.g b).extractLsb' 34 2 ≠ 3 → (s.g b).extractLsb' 36 28 = 0 →
      exec (.wpset d a b) s = .next (s.landed [s.landing 1 (.wp d.toNat (s.g b ++ s.g a : BitVec 128))])) ∧
    (s.admits (.icinv m) {} 0 → exec (.icinv m) s = .next s.finish) ∧
    (s.admits (.event a code) {} 0 →
      (s.dbg.trsel.getLsbD 3 = false → exec (.event a code) s = .next s.finish) ∧
      (s.dbg.trsel.getLsbD 3 = true → exec (.event a code) s = .next (s.putRecord (s.dbg.sel 0) 1 s.tick
        [BitVec.ofNat 64 (code.toNat + s.who.core * 2 ^ 16 + s.cur.ctx * 2 ^ 22 + s.taskSlot * 2 ^ 28), s.g a]).finish)) ∧
    (s.admits .yield {} 0 →
      (s.who.slot = 4 ∨ s.cur.dmode = true → exec .yield s = .next s.finish) ∧
      (s.who.slot < 4 → s.cur.dmode = false → ∃ t, exec .yield s = .next t ∧
        t = s.setSlot s.who.core s.who.slot { s.cur with yielding := true, supp := s.suppNext }))

/-- The end of a freeze. A frozen wait whose object now holds, a SWINIT that is visible, an MDRAIN whose rows have landed, a test
whose read has returned, an ALIGN seven ticks after its advance, a FENCE whose accesses have performed with nothing to read,
and a WAITT at its tick complete: the task is frozen no more, and a test or ALIGN lands its register; an ALIGN whose accesses have
performed sends its arrival; a word that found the engine table full stands at the head of its queue again. A frozen WAITT's gd takes
the lateness on its resume cycle (R44, R251, R254 to R257, R270). A frozen word whose deadline has passed faults with WAIT_DEADLINE at
the address of its object, and every word that holds the task frozen goes back to the head of its queue; the task, ACTIVE or
RETIRING, is frozen no more and the fault stands at its boundary (R47, R248). That several words of one cycle may hold a task frozen,
the next of them holding it when one completes and the first past its deadline being the one that faults, is the model's
choice (log 15). -/
def Obligations.FreezesEnd : Prop :=
  (∀ (s : State) (c n : Nat) (z : Freeze), c < 64 → n < 5 → s.frozenActs c n = true → (s.slot c n).freeze = some z →
      1 ≤ (s.slot c n).tc →
      let y := s.slot c n
      let stands := fun (comp : Word) => s.clockStopped c (compPackage c comp)
      let ends := fun (i : Instr) (e : Option Effect) => ∃ t, exec i s = .next t ∧ t.mem = s.mem ∧
        (t.slot c n).freeze = y.behind.head? ∧ (t.slot c n).regs = y.regs ∧ (t.slot c n).queues = y.queues ∧
        ∃ ls, (t.slot c n).landings = y.landings ++ ls ∧
          ls.map (fun l => (l.eff, l.cyc, l.seq, l.idx)) = e.toList.map fun x => (x, y.tc, z.q.seq, z.q.idx)
      (∀ comp x, (z.hold = .waitg comp x ∨ z.hold = .waitm comp x) → stands comp = false →
        s.objectPoison comp (waitBits comp x) = none → s.holds c comp x = true → ends (.waitSatisfied c n) none) ∧
      (∀ comp g, z.hold = .swinit comp g → (s.sync.any fun u => u.init.isSome && u.src == some (c, n)) = false →
        ends (.waitSatisfied c n) none) ∧
      (∀ p, (s.core c).freeEntry = some p → z.hold = .tableFull →
        let e := engineOf z.q.word
        ∃ t, exec (.waitSatisfied c n) s = .next t ∧ (t.slot c n).freeze = y.behind.head? ∧
          (t.slot c n).queues = y.queues.setIfInBounds e
            ({ z.q with dcyc := y.tc - 1, again := true } :: y.queues[e]?.getD [])) ∧
      (∀ comp x pd, (z.hold = .testg comp x pd ∨ z.hold = .testm comp x pd) → z.delay ≤ s.tick →
        s.bankStopped c (compPackage c comp) = false → s.objectPoison comp (waitBits comp x) = none →
        ends (.testReturn c n) (some (.p pd (if s.holds c comp x then BitVec.allOnes 64 else 0) (BitVec.allOnes 64)))) ∧
      (∀ comp gd g a, z.hold = .align comp gd (.advanced g a) → s.objectPoison comp 0 = none → a + 7 ≤ s.tick →
        ends (.alignResume c n) (some (.g gd (BitVec.ofNat 64 ((g + 1) % 2 ^ 32))))) ∧
      (∀ comp gd, z.hold = .align comp gd .draining → s.objectPoison comp 0 = none → (s.core c).drained n z.iss z.q.seq = true →
        ∃ t u, exec (.alignResume c n) s = .next t ∧ t.mem = s.mem ∧ t.sync = s.sync ++ [u] ∧ u.addr = compPackage c comp ∧
          u.arr = true ∧ u.init = none ∧ s.tick < u.due ∧ u.src = some (c, n) ∧
          (t.slot c n).freeze = some { z with hold := .align comp gd .sent }) ∧
      (∀ mask kind scope, z.hold = .fence mask kind scope → z.delay ≤ s.tick →
        s.fenceHolds c { slot := n, iss := z.iss, seq := z.q.seq, mask := mask, kind := kind, scope := scope } = true →
        kind = 1 ∨ scope ≠ 3 ∨ y.flushTo = [] → ends (.fenceComplete c n) none) ∧
      (∀ T gd, z.hold = .waitt T gd → T ≤ s.tick →
        let at_ := max y.startAt ((s.core c).matsLast n)
        (y.behind ≠ [] ∨ (s.core c).cyc < at_ → ends (.waittResume c n) (some (.late gd (BitVec.ofNat 64 T)))) ∧
        (y.behind = [] → at_ ≤ (s.core c).cyc → (∀ l ∈ y.landings, y.tc < l.cyc) →
          ∃ t, exec (.waittResume c n) s = .next t ∧ t.mem = s.mem ∧ (t.slot c n).freeze = none ∧
            (t.slot c n).regs = y.regs.writeG gd (BitVec.ofNat 64 s.tick - BitVec.ofNat 64 T) ∧
            (t.slot c n).landings = y.landings)) ∧
      (z.hold = .mdrain → (s.core c).matsBusy n = false → ∃ t, exec (.waitSatisfied c n) s = .next t ∧
        (t.slot c n).freeze = y.behind.head? ∧ (t.slot c n).queues = y.queues)) ∧
  (∀ (s : State) (c n : Nat) (z : Freeze), c < 64 → n < 5 → (s.slot c n).frozenWords.find? (·.over s.tick) = some z →
      (s.slot c n).st = .active ∨ (s.slot c n).st = .retiring → (s.core c).stopped = false → (s.slot c n).flt = none →
      let y := s.slot c n
      ∃ t, exec (.waitDeadline c n) s = .next t ∧ t = { s with cores := t.cores } ∧
        (∀ d m, d ≠ c ∨ m ≠ n → t.slot d m = s.slot d m) ∧
        (t.slot c n).flt = some { code := .waitDeadline, addr := z.hold.haddr c, idx := z.q.idx, word := z.q.word
                                  seq := z.q.seq, tick := s.tick } ∧
        (t.slot c n).freeze = none ∧ (t.slot c n).behind = [] ∧ (t.slot c n).regs = y.regs ∧ (t.slot c n).landings = y.landings ∧
        ∀ e, e < 6 → (t.slot c n).queues[e]? = some
          (((y.frozenWords.filter fun w => engineOf w.q.word == e).reverse.map fun w => { w.q with dcyc := y.tc, again := true }) ++
            y.queues[e]?.getD []))

/-! ### Matrix words (06) -/

/-- Matrix words whose checks pass issue one operation that captures its shapes, valid counts, latched entries, weight slot and
rounding mode, and reads on the issue cycle the rows it reads then: MMA and MMAS set the tags of the accumulator rows they write and
open a window of ceil(ROWS / r) cycles (R198 to R202), loads make their slot PENDING, an F16 one the pair (R195, R196), with BC = 1
they freeze the task with a deadline of TDEAD (R197), MSCALE sets its rows' tags to F32 (R205), MOUT keeps a bound register's number
(R206), MSLOTINV issues one operation for each slot of a pair (R208), and MDRAIN freezes exactly where a matrix operation of the
slot's own is in flight (R207). MSCALE and MADDT take C's rows below its valid count and the source's, or, with a one-row source,
all below C's own count unless that row is itself invalid (R187, R205; that a one-row source whose valid count is 0 leaves every row as
it is is the model's choice, log 14). MSCALE and MADDT capture the tags of C's rows as they stand at the word's issue, which R205 leaves
open: the model's choice (log 27). What these next states do not name keeps its value; where the checks of mmaChecks, loadChecks, scaleChecks and moutChecks fail the statement is silent. -/
def Obligations.MatrixIssue : Prop :=
  ∀ (s : State) (shc sha : BitVec 5) (w : BitVec 2) (na nb acc bc trn : BitVec 1) (cls : BitVec 4), s.atSlot →
    let c := s.who.core
    let k := s.me
    let C := shapeOf (s.sh shc)
    let A := shapeOf (s.sh sha)
    let cv := C.validBy s.cur.regs
    let av := A.validBy s.cur.regs
    let no := A.entryNo k
    let m0 : MatOp := { s.matOp .mma with ash := s.sh sha, av := av, fa := (no, k.entry no), wslot := w.toNat }
    let issues := fun (i : Instr) (m : MatOp) (k1 : Machine.Core) =>
      exec i s = .next (s.updMe fun _ => { k1 with mats := k.mats ++ [s.readMat c m] }).finish
    let rate2 := mmaRate2 (k.fmt no) (fmtOfBits (k.wslot w.toNat).fmt)
    let ints := intKinds (k.fmt no) (fmtOfBits (k.wslot w.toNat).fmt)
    let mma := fun (i : Instr) (sparse : Bool) => s.admits i {} 0 →
      s.mmaChecks sparse w.toNat (acc == 1) C A cv av = none →
      issues i { m0 with rate2 := rate2, csh := s.sh shc, cv := cv, intPath := ints, nega := na == 1, negb := nb == 1,
                         noacc := acc == 1, b := k.wslot w.toNat }
        { k.setTags (C.accRows (min av cv)) ints with mmaEnd := k.cyc + (2 * A.rows + rate2 - 1) / rate2 }
    let msh := s.cur.regs.readSh (sha.toNat + 1)
    let load := fun (i : Instr) (keep : Nat) (rule : PfxRule) => s.admits i rule 0 →
      s.loadChecks keep w.toNat (bc == 1) (trn == 1) (bc == 0 || c == leaderOf c) A (shapeOf msh) = none →
      (bc = 0 → issues i { m0 with kind := .mldb, msh := msh, mv := (shapeOf msh).validBy s.cur.regs, trn := trn == 1, keep := keep }
        (k.setPending w.toNat ((fmtOfBits (k.entry no)).tw == 16))) ∧
      (bc = 1 → ∃ z, exec i s = .next (s.updCur fun t => { t with freeze := some z }) ∧ z.hold = .weave ∧ z.q = s.who.q ∧
        z.deadline = some (s.tick + s.cur.tdead.toNat))
    mma (.mma shc sha w na nb acc) false ∧ mma (.mmas shc sha w na nb acc) true ∧
    load (.mldb sha w bc trn cls) 0 {} ∧
    load (.mldbs sha w bc trn cls) (keepOf true s.who.q) { mods := fun m => decide (m.toNat < 2) } ∧
    (s.admits (.mzero shc) {} 0 → s.accPriv C = none → C.accOk = true → s.accGrant C cv = none →
      issues (.mzero shc) { s.matOp .mzero with csh := s.sh shc, cv := cv } k) ∧
    (let v := if A.rows = 1 then (if av = 0 then 0 else cv) else min cv av
     let m := fun (kind : MatKind) => { s.matOp kind with csh := s.sh shc, ash := s.sh sha, cv := v, av := v, fa := (no, k.entry no),
                                                          tags := (C.accRows v).map fun r => k.acctag.getLsbD r }
     (s.admits (.mscale shc sha) { rounds := true } 0 → s.scaleChecks .mscale C A v = none →
       issues (.mscale shc sha) (m .mscale) (k.setTags (C.accRows v) false)) ∧
     (s.admits (.maddt shc sha) { rounds := true } 0 → s.scaleChecks .maddt C A v = none →
       issues (.maddt shc sha) (m .maddt) k)) ∧
    (let p := s.who.q.pfx.mods
     s.admits (.mout shc sha) { rounds := true, mods := fun m => m.toNat < 32 } 0 → s.moutChecks C A = none →
      issues (.mout shc sha) { s.matOp .mout with
        csh := s.sh shc, ash := s.sh sha, cv := av, av := av, fa := (no, k.entry no)
        bn := if p.getLsbD 0 then some (p.extractLsb' 1 4).toNat else none } k) ∧
    (let pair := w.toNat % 2 == 0 && (k.wslot w.toNat).loaded && (k.wslot w.toNat).pair
     let m := fun (n : Nat) => { s.matOp .slotinv with wslot := n }
     s.admits (.mslotinv w) {} 0 → s.slotPriv w.toNat = none → s.pairPriv pair w.toNat = none →
      exec (.mslotinv w) s = .next (s.updMe fun k => { k with
        mats := k.mats ++ m w.toNat :: (if pair then [m (w.toNat + 1)] else []) }).finish) ∧
    (s.admits .mdrain {} 0 →
      (k.matsBusy s.who.slot = false → exec .mdrain s = .next s.finish) ∧
      (k.matsBusy s.who.slot = true → ∃ z, exec .mdrain s = .next (s.updCur fun t => { t with freeze := some z }) ∧
        z.hold = .mdrain ∧ z.q = s.who.q ∧ z.deadline = none))

/-- What matrix operations land, and when, counted from their first core cycle: an MMA's row i on issue + 40 + floor(i / r), in two
halves for r = 1/2, its flags with its last row (R102, R199); each integer-path element becomes its accumulator, or 0 under NOACC, plus
the exact products modulo 2^32 with no flag (R104), and each float-path element takes its products in groups of 64 by ascending k, one
rounding to F32 under RNE for each group, from -0 under NOACC (R105, R106); NEGA and NEGB negate the elements exactly (R201). MZERO's
zero row i lands on issue + 4 + i (R204), row i of MSCALE and MADDT on issue + 8 + i (R205), of MOUT on issue + 9 + i, converted from the
format of its tag, under a bound register where it names one (R206); a load lands nothing before issue + 16 + ROWS, and MLDB then lands
its slot (R195); an emptied slot on issue + 1 (R208); and an MMA reads a row i below its valid count on issue + floor(i / r) (R199). OVF
for an infinite product of finite operands, and +0 for an element that a sparse slot does not keep, are the model's reading (log 12). -/
def Obligations.MatrixLandings : Prop :=
  ∀ (s : State) (c : Nat) (m : MatOp),
    let now := m.clock (s.core c).cyc
    let h := shapeOf m.csh
    let ea := fmtOfBits m.fa.2
    let av := fun (row : List Nat) (j : Nat) =>
      let v := ea.decode (row[j]?.getD 0)
      if m.nega then v.neg else v
    let bv := fun (x : Nat) =>
      let v := (fmtOfBits m.b.fmt).decode x
      if m.negb then v.neg else v
    let lands := fun (bytes : List MByte) (fl : Flags) => (s.matLandings c m).1 =
      (if bytes = [] then [] else [m.landing (.store bytes)]) ++ (if now = m.last ∧ fl ≠ 0 then [m.landing (.flags fl)] else [])
    let old := fun (i n : Nat) => s.localNat c ((h.addr + i * h.rstr).toNat + 4 * n) 4
    (∀ i, m.rate2 = 1 → m.landCols i (m.t0 + 40 + 2 * i) = (List.range m.b.n).filter (· < 128) ∧
      m.landCols i (m.t0 + 41 + 2 * i) = (List.range m.b.n).filter (128 ≤ ·)) ∧
    (∀ i r, 0 < r → m.rate2 = 2 * r → m.landCols i now = if now = m.t0 + i / r + 40 then List.range m.b.n else []) ∧
    (m.kind = .mma →
      let els := (List.range (min m.av m.cv)).flatMap fun i => (m.landCols i now).map fun n => (i, n)
      let val := fun (x : Nat × Nat) => m.element ((m.rows.lookup x.1).getD []) x.2 (old x.1 x.2)
      lands (els.flatMap fun x => accStore h x.1 x.2 (val x).1) (els.foldl (fun f x => f ||| (val x).2) m.flags)) ∧
    (∀ row n acc, m.intPath = true → ∃ ps : List Int, ps.length = m.b.k ∧
      (∀ j x, j < m.b.k → m.b.at_ j n = some x → ps[j]? = some (vMul (av row j) (bv x)).1.toInt) ∧
      (∀ j, j < m.b.k → m.b.at_ j n = none → ps[j]? = some 0) ∧
      (m.element row n acc).1 = (((if m.noacc then 0 else signedOf 32 acc) + ps.foldl (· + ·) 0) % 2 ^ 32).toNat ∧
      (m.element row n acc).2 = 0) ∧
    (∀ row n acc, m.intPath = false → ∃ (ps : List Res) (sum : Nat → Val × Flags), ps.length = m.b.k ∧
      (∀ j x, j < m.b.k → m.b.at_ j n = some x → ps[j]? = some (vMul (av row j) (bv x))) ∧
      (∀ j, j < m.b.k → m.b.at_ j n = none → ps[j]? = some (Val.zero false, 0)) ∧
      sum 0 = (if m.noacc then Val.zero true else fmtF32.decode acc, 0) ∧
      (∀ g, g < (m.b.k + 63) / 64 →
        let r := accGroup (sum g).1 ((ps.drop (64 * g)).take 64)
        sum (g + 1) = (r.1, (sum g).2 ||| r.2)) ∧
      m.element row n acc = ((fmtF32.encode (sum ((m.b.k + 63) / 64)).1 .rne).1, (sum ((m.b.k + 63) / 64)).2)) ∧
    (∀ (acc : Val) (ps : List Res),
      let set := acc :: ps.map (·.1)
      let inf := fun (neg : Bool) => ∃ v ∈ set, v.isInf = true ∧ v.s = neg
      let nan := ∃ v ∈ set, v.isNan = true
      (nan ∨ (inf true ∧ inf false) → (accGroup acc ps).1 = Val.nan) ∧
      (∀ neg, ¬nan → inf neg → ¬inf (!neg) → (accGroup acc ps).1 = Val.inf neg) ∧
      (¬nan → ¬inf true → ¬inf false → (accGroup acc ps).1 =
        fmtF32.decode (fmtF32.encode (addFinite acc (groupSum (ps.map (·.1))) .rne) .rne).1)) ∧
    (m.kind = .mzero → lands (((List.range m.cv).filter fun i => now == m.t0 + 4 + i).flatMap fun i =>
      (List.range h.cols).flatMap fun n => accStore h i n 0) 0) ∧
    (m.kind = .mscale ∨ m.kind = .maddt →
      let els := ((List.range m.cv).filter fun i => now == m.t0 + 8 + i).flatMap fun i => (List.range h.cols).map fun n => (i, n)
      let val := fun (x : Nat × Nat) =>
        m.scaled (m.tags[x.1]?.getD false) (((m.rows.lookup x.1).getD [])[x.2]?.getD 0) (((m.mrows.lookup x.1).getD [])[x.2]?.getD 0)
      lands (els.flatMap fun x => accStore h x.1 x.2 (val x).1) (els.foldl (fun f x => f ||| (val x).2) m.flags)) ∧
    (∀ (tag : Bool) (x y : Nat),
      (m.kind = .mscale → m.scaled tag x y =
        encodeRes fmtF32 m.mode (vMul ((if tag then fmtS32 else fmtF32).decode x) (ea.decode y))) ∧
      (m.kind = .maddt → m.scaled false x y = encodeRes fmtF32 m.mode (vAdd m.mode (fmtF32.decode x) (ea.decode y)) ∧
        m.scaled true x y = (((signedOf 32 x + (ea.decode y).toInt) % 2 ^ 32).toNat, 0))) ∧
    (m.kind = .mout → m.bnd = none →
      let els := ((List.range m.av).filter fun i => now == m.t0 + 9 + i).flatMap fun i => (List.range h.cols).map fun n => (i, n)
      let tag := fun (i : Nat) => if m.tags[i]?.getD false then 10 else 1
      let val := fun (x : Nat × Nat) =>
        let e := ((m.rows.lookup x.1).getD [])[x.2]?.getD 0
        if tag x.1 = m.fa.1 then (e, 0) else convert (fmtOfBits (presetEntry (tag x.1))) m.operand.e e m.mode
      let at_ := fun (x : Nat × Nat) => m.operand.writePieces x.1 x.2
      let fl := els.foldl (fun f x => f ||| (val x).2) m.flags
      (m.bn = none → els ≠ [] → (s.matLandings c m).1 =
        m.landing (.store (els.flatMap fun x => scatter (at_ x) (val x).1)) :: if now = m.last ∧ fl ≠ 0 then [m.landing (.flags fl)] else []) ∧
      (∀ b, m.bn = some b → els ≠ [] → (s.matLandings c m).1 =
        m.landing (.checked m.fa.2 b (els.map fun x => { pieces := at_ x, bits := (val x).1 })) ::
          if now = m.last ∧ fl ≠ 0 then [m.landing (.flags fl)] else [])) ∧
    (m.kind = .mldb → (now ≠ m.t0 + 16 + (shapeOf m.ash).rows → (s.matLandings c m).1 = []) ∧
      (now = m.t0 + 16 + (shapeOf m.ash).rows → m.keep = 0 → (s.matLandings c m).1 = [m.landing (.wload m.wslot m.loaded)])) ∧
    (m.kind = .slotinv → (s.matLandings c m).1 = if now = m.t0 + 1 then [m.landing (.wclear m.wslot false)] else []) ∧
    (m.kind = .mma → ∀ i, (i, s.readRow c m.operand i) ∈ (s.readMat c m).rows ∨ m.av ≤ i ∨ now ≠ m.t0 + 2 * i / m.rate2)

/-- WEAVE_RELEASE: with all four participants of a cluster frozen on agreeing loads of a format that is not 16 bits wide, each
core takes one load of the leader's shape and valid count from the leader's scratchpad, in the leader's latched entry and class,
that starts on its present core cycle and counts pod ticks from 0, and its word completes; where they disagree each task's fault is
SHAPE_MISMATCH and no weight slot changes; with fewer than four nothing happens (R197). -/
def Obligations.WeaveLoads : Prop :=
  ∀ (s : State) (cl : Nat), cl < 16 →
    let xs := (List.range 4).filterMap fun i => s.weaver (4 * cl + i)
    (xs.length ≠ 4 → exec (.weaveRelease cl) s = .next s) ∧
    (∀ lead rest, xs = lead :: rest → xs.length = 4 →
      let y := s.weaveLoad lead
      let agree := xs.all fun x => (s.weaveLoad x).agrees y
      ∃ t, exec (.weaveRelease cl) s = .next t ∧ t.mem = s.mem ∧
        (agree = false → ∀ x, x ∈ xs → (t.core x.core).ws = (s.core x.core).ws ∧ (t.core x.core).mats = (s.core x.core).mats ∧
          (t.slot x.core x.slot).freeze = none ∧ ∃ f, (t.slot x.core x.slot).flt = some f ∧ f.code = .shapeMismatch) ∧
        (agree = true → ((s.core lead.core).fmt ((shapeOf y.shape).entryNo (s.core lead.core))).tw ≠ 16 →
          ∀ x, x ∈ xs → ∃ m, (t.core x.core).mats = (s.core x.core).mats ++ [m] ∧ m.kind = .mldb ∧ m.ash = y.shape ∧
            m.wslot = (s.weaveLoad x).w ∧ m.srcCore = lead.core ∧ m.wcls = some y.cls ∧ m.t0 = (s.core x.core).cyc ∧
            m.fa = ((shapeOf y.shape).entryNo (s.core lead.core),
              (s.core lead.core).entry ((shapeOf y.shape).entryNo (s.core lead.core))) ∧
            m.av = y.valid ∧ m.age = some 0 ∧
            (t.slot x.core x.slot).freeze = (s.slot x.core x.slot).behind.head?))

/-! ### Engine words (07, 08) -/

/-- A CP word whose checks pass forks one operation that captures its shapes, valid counts, latched entries, completion value,
rounding mode and class, with the next fork number and the word's stream number; the task goes on, and a copy into the accumulator
sets its tags at the fork; one whose checks fail raises the first fault of them (R42, R90, R93, R211 to R231). CPYM captures its
carried word too, and raises ILLEGAL_OPCODE where that is no MMA or MMAS and RESERVED_FIELD where its idle bits are not 0 (R221),
LNRUN captures the loop nest and clears LNSTAT.ERR (R224, R225), MCST captures its source bytes, its window's members and DBASE, to
land 20 ticks later, or 36 where a member is on another die (R227); LNSET and LNCLR change the slot's loop registers one cycle after
issue (R223). The checks themselves are copyChecks and mcstChecks of the model. -/
def Obligations.CopyForks : Prop :=
  ∀ (s : State) (shs shd : BitVec 5) (gc a b : BitVec 6) (lvl : BitVec 8) (cls : BitVec 4) (carried : Half), s.atSlot →
    let k := s.me
    let r := s.cur.regs
    let S := (shapeOf (s.sh shs)).copyOperand k r
    let D := (shapeOf (s.sh shd)).copyOperand k r
    let B := (shapeOf (r.readSh (shs.toNat + 1))).copyOperand k r
    let rop := (s.who.q.pfx.mods.extractLsb' 0 4).toNat
    let forks := fun (i : Instr) (kind : OpKind) (rule : PfxRule) (ln : List LnLevel) (fix : Op → Op) (f : Slot → Slot) =>
      s.admits i rule 0 → (∀ x, s.copyChecks kind rop S B D ln gc = some x → exec i s = .next (s.raise x)) ∧
      (s.copyChecks kind rop S B D ln gc = none →
      let o := fix (s.copyOp kind S B D ln gc cls)
      o.sh1 = s.sh shs ∧ o.sh2 = s.sh shd ∧ o.comp = s.g gc ∧ o.mode = s.mode ∧ o.cls = cls.toNat ∧ o.v1 = S.valid ∧
      o.v2 = D.valid ∧ o.f1 = (S.no, S.word) ∧ o.f2 = (D.no, D.word) ∧ o.hasComp = (gc != 0 && kind != .cinit) ∧
      o.kind = kind ∧ o.fork = k.forkNo ∧ o.seq = s.who.q.seq ∧ o.ln = ln ∧
      ∃ t, exec i s = .next t ∧ s.forks t o f fun k => { k with acctag := o.tags2 })
    let rounds : PfxRule := { rounds := true }
    forks (.cpy shs shd gc cls) .cpy rounds [] id id ∧
    forks (.cpyv shs shd gc cls) .cpyv { rounds := true, mods := fun m => m.toNat % 2 == 0 && decide (m.toNat < 32) } [] id id ∧
    ((engineOf carried ≠ 2 ∨ 2 ≤ fld carried.toNat 20 6) → exec (.cpym shs shd gc cls carried) s =
      .next (s.raise { code := .illegalOpcode })) ∧
    (engineOf carried = 2 → fld carried.toNat 20 6 < 2 → idleOf carried ≠ 0 → exec (.cpym shs shd gc cls carried) s =
      .next (s.raise { code := .reservedField })) ∧
    ((carriedMma carried).isSome → idleOf carried = 0 →
      forks (.cpym shs shd gc cls carried) .cpym rounds [] (fun o => { o with carried := s.captureCarried carried }) id) ∧
    forks (.lnrun shs shd gc cls) .lnrun rounds s.cur.ln.toList id (fun t => { t with lnErr := false }) ∧
    forks (.nfill shs shd gc cls) .nfill rounds [] id id ∧ forks (.ncopy shs shd gc cls) .ncopy rounds [] id id ∧
    forks (.ncmp shs shd gc cls) .ncmp { mods := fun m => decide (m.toNat < 4) } [] id id ∧
    forks (.nred shs shd gc cls) .nred { rounds := true, mods := fun m => decide (m.toNat < 6) } [] id id ∧
    forks (.cinit shs shd gc cls) .cinit {} [] (fun o => { o with tags2 := k.acctag }) id ∧
    (let M := (shapeOf (s.sh shd)).mcstOperand k r
     let w := mcstWindow M.sh.base
     let win := (s.ctx s.cur.ctx).mwindow w
     s.admits (.mcst shs shd gc cls) {} 0 →
      (∀ x, s.mcstChecks S M gc = some x → exec (.mcst shs shd gc cls) s = .next (s.raise x)) ∧
      (s.mcstChecks S M gc = none → ∃ t o, exec (.mcst shs shd gc cls) s = .next t ∧
      s.forks t o ∧ o.kind = .mcst ∧ o.sh1 = s.sh shs ∧ o.sh2 = s.sh shd ∧ o.comp = s.g gc ∧ o.x1 = win.1 ∧
      o.x2 = BitVec.ofNat 64 win.2.1 ∧ o.atTick = some (s.tick + mcstDelay s.who.core win.1) ∧
      ∀ x, x ∈ S.validBytes false → Memory.get o.taken x = Memory.get s.mem (localAddr s.who.core x))) ∧
    (s.admits (.lnset a b lvl) {} 0 → exec (.lnset a b lvl) s = .next (s.landed [s.landing 1 (.lnset lvl.toNat
      { count := (s.g b).setWidth 32, sstr := (s.g a).setWidth 32, dstr := (s.g a).extractLsb' 32 32 })])) ∧
    (s.admits .lnclr {} 0 → exec .lnclr s = .next (s.landed [s.landing 1 .lnclr]))

/-- Gathers fork on the record of 64 bytes in scratchpad that they read at issue as a load reads it: each byte as memory holds it or,
where an operation of the task that it has not joined has written the byte, as it was before (R134, R232, R233); an atomic on its
target, operands and return slot (R239, R240); a queue word on its queue, with a deadline of TDEAD (R243); ARRIVE on its object,
with SHAPE_RANGE where its second register is g0 (R252); FTW changes the core's own copy on the next core cycle and forks the write's propagation, with FORMAT_ILLEGAL for an entry
below 32 and RESERVED_FIELD for a reserved bit (R261); FLOWREQ forks a request of the flow controller, with SHAPE_RANGE for a
reserved bit (R268). Where the checks of a gather, an atomic or a queue word fail it raises the first fault of them. None of them
writes memory or a register of its task at its issue. -/
def Obligations.BankForks : Prop :=
  ∀ (s : State) (d a b : BitVec 6) (cls : BitVec 4) (wd : BitVec 2) (sx : BitVec 1) (imm : BitVec 8) (v : Word), s.atSlot →
    let k := s.me
    let r := s.cur.regs
    let forks := fun (i : Instr) (o : Op) => ∃ t, exec i s = .next t ∧ s.forks t o
    let gather := fun (i : Instr) (kind : OpKind) => s.admits i { rounds := true } 0 →
      let m := s.loadMem ((List.range 64).map ((s.g d).toNat + ·))
      let raw := BitVec.ofNat 512 (m.1.nat (localAddr s.who.core (s.g d).toNat) 64)
      let g := grecOf raw
      let D := (shapeOf (r.readSh g.dsh)).operand k r
      (∀ x, s.gatherChecks kind (s.g d).toNat g D = some x → exec i s = .next (s.raise x)) ∧
      m.2.mem = s.mem ∧ (∀ c n, m.2.slot c n = s.slot c n) ∧ (k.olds s.who.slot = [] → m = (s.mem, s)) ∧
      (∀ y, m.1.get y = s.mem.get y ∨ ∃ x ∈ k.olds s.who.slot, x.key = y ∧ x.byte = m.1.get y) ∧
      (s.gatherChecks kind (s.g d).toNat g D = none → ∃ t, exec i s = .next t ∧ m.2.forks t { s.newOp kind cls.toNat with
        comp := g.comp, hasComp := true, grec := raw, sh2 := r.readSh g.dsh, v2 := D.valid
        f1 := (g.tfmt, k.entry g.tfmt), f2 := (D.no, D.word), overlap := gatherOverlap kind g D })
    let atomic := fun (i : Instr) (kind : OpKind) (sext : Bool) (rule : PfxRule) => s.admits i rule 0 →
      let n := 2 ^ wd.toNat
      let ret := if kind = .aswap ∨ kind = .acas then r.readG (a.toNat + 1) else 0
      let check := s.bankChecks (s.g a).toNat n (if kind = .aswap ∨ kind = .acas then s.bufferChecks true ret.toNat n n else none)
      (∀ x, check = some x → exec i s = .next (s.raise x)) ∧ (check = none → forks i { s.newOp kind cls.toNat with
        addr := s.g a, x1 := s.g d, x2 := if kind = .acas then r.readG (d.toNat + 1) else 0, ret := ret, width := n, sext := sext })
    let queue := fun (i : Instr) (kind : OpKind) (pop : Bool) => s.admits i {} 0 →
      let check := s.bankChecks (s.g a).toNat 64 (if pop then s.bufferChecks true (s.g d).toNat 16 16 else none)
      (∀ x, check = some x → exec i s = .next (s.raise x)) ∧ (check = none → forks i { s.newOp kind cls.toNat with
        addr := s.g a, x1 := s.g d, deadline := some (s.tick + s.cur.tdead.toNat), hasComp := pop
        comp := (1#64 <<< 63) ||| ((s.g d + 8) &&& 0xFFFFFFFFFFFF) })
    gather (.gath d cls) .gath ∧ gather (.gbag d cls) .gbag ∧ gather (.gscat d cls) .gscat ∧ gather (.gsadd d cls) .gsadd ∧
    atomic (.aadd d a cls wd) .aadd false {} ∧ atomic (.aand d a cls wd) .aand false {} ∧
    atomic (.aor d a cls wd) .aor false {} ∧ atomic (.axor d a cls wd) .axor false {} ∧
    atomic (.amin d a cls wd sx) .amin (sx == 1) {} ∧ atomic (.amax d a cls wd sx) .amax (sx == 1) {} ∧
    atomic (.afadd d a cls wd) .afadd false { rounds := true } ∧ atomic (.aswap d a cls wd) .aswap false {} ∧
    atomic (.acas d a cls wd) .acas false {} ∧
    queue (.qpush d a cls) .qpush false ∧ queue (.qpop d a cls) .qpop true ∧
    (s.admits (.arrive d a cls) {} 0 → a = 0 → exec (.arrive d a cls) s = .next (s.raise { code := .shapeRange })) ∧
    (s.admits (.arrive d a cls) {} 0 → a ≠ 0 → s.objectChecks (s.g a) false 0 = none →
      forks (.arrive d a cls) { s.newOp .arrive cls.toNat with comp := s.g a, x1 := s.g d }) ∧
    (s.admits (.ftw d a imm) { ximm := true } 0 → s.immIs 8 false imm.toNat v →
      let e := (s.g a + v).toNat % 256
      (e < 32 → exec (.ftw d a imm) s = .next (s.raise { code := .formatIllegal })) ∧
      (32 ≤ e → (s.g d).extractLsb' 0 24 = 0 → ∃ t, exec (.ftw d a imm) s = .next t ∧
        s.forks t { s.newOp .ftw 0 with x1 := s.g d, width := e }
          (g := fun k => { k with formats := k.formats ++
            [(s.who.slot, { s.landing 0 (.ftab e (s.g d)) with cyc := k.cyc + 1 })] })) ∧
      (32 ≤ e → (s.g d).extractLsb' 0 24 ≠ 0 → exec (.ftw d a imm) s = .next (s.raise { code := .reservedField }))) ∧
    (s.admits (.flowreq d a b) {} 0 → (s.g b).extractLsb' 41 23 ≠ 0 →
      exec (.flowreq d a b) s = .next (s.raise { code := .shapeRange })) ∧
    (s.admits (.flowreq d a b) {} 0 → (s.g b).extractLsb' 41 23 = 0 → s.bufferChecks true (s.g d).toNat 16 16 = none →
      forks (.flowreq d a b) { s.newOp .flowreq 0 with
        addr := s.g d, x1 := s.g b, x2 := s.g a, resume := s.tick, hasComp := true
        comp := (1#64 <<< 63) ||| ((s.g d + 8) &&& 0xFFFFFFFFFFFF) })

/-- What an engine operation's step does. An operation that may not act leaves the state as it is, but for a multicast store. The next
chunk of a copy or near-memory operation whose checks pass writes its elements in element order and then its completion update, and the
operation goes on at the next chunk, or, with no bound trap, is over; the first failing check stops it with the fault at its address,
which waits with the task under its fork number and tick, and no byte of the chunk is written; a ticketed NRED does so by its own event
(R215 to R217, R230, R238, R343, R359). A step whose bank stands, or whose completion object's bank does, waits (R284, R395, R417; the
order of what waits is the model's choice, log 2 and 7). A carried word whose checks pass issues one MMA with the shapes that its CPYM
captured; one whose check fails stops the operation (R221). A multicast store lands its bytes in every member whose clock runs and that
made no store of its own on the tick, and in no other core's memory (R226 to R228). -/
def Obligations.ChunkSteps : Prop :=
  ∀ (s : State) (c e : Nat) (o : Op), c < 64 → (s.core c).opAt e = some o → o.slot < 5 →
    let stops := fun (i : Instr) (code : FaultCode) (addr : Nat) => ∃ t, exec i s = .next t ∧ t.mem = s.mem ∧ t.hostMem = s.hostMem ∧
      (t.slot c o.slot).waiting = (s.slot c o.slot).waiting ++ [{ code := code, addr := BitVec.ofNat 64 addr, idx := o.wpc
                                                                  word := o.word, async := true, entry := e, seq := o.seq
                                                                  fork := o.fork, tick := s.tick }] ∧
      ∃ p, (t.core c).opAt e = some p ∧ p.pst = (if code = .windowViolation then .frozen else .stopped)
    let waits := fun (i : Instr) => ∃ t, exec i s = .next t ∧ t = { s with banks := t.banks, cp := t.cp }
    let copies := o.kind = .cpy ∨ o.kind = .cpyv ∨ o.kind = .lnrun ∨ o.kind = .nfill ∨ o.kind = .ncopy ∨ o.kind = .ncmp ∨ o.kind = .nred
    let step := if o.isTicketed then Instr.ticketedUpdate c e else Instr.chunkComplete c e
    let bytes := (o.chunkElems o.resume).flatMap o.elemBytes
    (s.opReady c o = false → o.kind ≠ .mcst → exec (.chunkComplete c e) s = .next s ∧ exec (.carriedWordIssue c e) s = .next s ∧
      exec (.bankAtomic c e) s = .next s ∧ exec (.ticketedUpdate c e) s = .next s ∧ exec (.ftwPropagation c e) s = .next s) ∧
    (s.opReady c o = true → copies →
      (o.isTicketed = false → o.x1 = 1 → stops step .slotEmpty 0) ∧ (o.isTicketed = false → o.x1 = 2 → stops step .shapeMismatch 0) ∧
      (o.x1 ≠ 1 → o.x1 ≠ 2 →
        (∀ code a, s.opChecks c o bytes = .error (.fault code a) → stops step code a) ∧
        (∀ places, s.opChecks c o bytes = .error (.wait places) → waits step) ∧
        (∀ s1, s.opChecks c o bytes = .ok s1 →
          (∀ code a, s1.compReady c o [o.resume] = .error (.fault code a) → stops step code a) ∧
          (∀ places, s1.compReady c o [o.resume] = .error (.wait places) → waits step) ∧
          (s1.compReady c o [o.resume] = .ok () →
            let r := (o.chunkElems o.resume).foldl (fun (x : State × Op) y => x.1.copyElem c x.2 y) (s1, o)
            let done := r.1.compUpdate c r.2 o.resume (chunkBytes o.dataBits o.resume)
            ∃ t, exec step s = .next t ∧ t.mem = done.mem ∧ t.hostMem = done.hostMem ∧ t.sync = done.sync ∧
              (o.resume + 1 < chunkCount o.dataBits → ∃ p, (t.core c).opAt e = some p ∧ p.resume = o.resume + 1 ∧
                p.flags = r.2.flags ∧ p.bstat = r.2.bstat ∧ s.tick < p.delay) ∧
              (chunkCount o.dataBits ≤ o.resume + 1 → r.2.trap = none → (t.core c).opAt e = none))))) ∧
    (∀ cw sparse shc sha w na nb acc, o.carried = some cw → carriedMma cw.word = some (sparse, shc, sha, w, na, nb, acc) →
      let k := s.core c
      let A := shapeOf cw.ash
      let C := shapeOf cw.csh
      let q : QWord := { word := cw.word, idx := o.wpc + 1, seq := o.seq + 1, dcyc := 0 }
      let at_ := { s with who := { core := c, slot := o.slot, q := q, cyc := (s.slot c o.slot).tc } }
      let wps := Vector.ofFn fun (i : Fin 4) => if o.supp then 0 else (o.wps[i.val]?).getD 0
      let check := (at_.updCur fun t => { t with wp := wps }).mmaChecks sparse w acc C A cw.cv cw.av
      o.kind = .cpym → s.opReady c o = true → chunkCount o.dataBits ≤ o.resume → cw.lands = none → s.todo.contains c = true →
      k.mmaEnd ≤ k.cyc → (s.slot c o.slot).st = .active ∨ (s.slot c o.slot).st = .retiring → k.hslot.st ≠ .active →
      (∀ f, check = some f → stops (.carriedWordIssue c e) f.code f.addr.toNat) ∧
      (check = none → ∃ t m, exec (.carriedWordIssue c e) s = .next t ∧ t.mem = s.mem ∧ (t.core c).mats = k.mats ++ [m] ∧
        m.kind = .mma ∧ m.csh = cw.csh ∧ m.ash = cw.ash ∧ m.cv = cw.cv ∧ m.av = cw.av ∧ m.wslot = w ∧ m.b = k.wslot w ∧
        m.forOp = some e ∧ m.t0 = k.cyc ∧ m.idx = o.wpc + 1 ∧ m.nega = na ∧ m.negb = nb ∧ m.noacc = acc)) ∧
    (o.kind = .mcst → s.mcstReady c o = true → o.resume = 0 → compBitmap o.comp = false →
      (∀ m, m < 64 → o.x1.getLsbD m = true → (s.core m).stopped = false ∧ (s.core m).stored.1 ≠ s.tick) →
      let xs : List MByte := ((List.range o.rowLimit).flatMap fun i => (List.range o.dst.sh.cols).flatMap fun j =>
        scatter (o.dst.writePieces i j) (Memory.gather o.taken (o.src.readPieces i j))).map fun x =>
          { x with addr := x.addr - (0x400000 + o.addr.toNat * 0x1000) + o.x2.toNat }
      ∃ t, exec (.chunkComplete c e) s = .next t ∧ t.hostMem = s.hostMem ∧
        t.mem = ((List.range 64).filter fun m => o.x1.getLsbD m).foldl
          (fun mem m => mem.writeMasked (xs.map fun x => { x with addr := localAddr m x.addr })) s.mem)

/-- What a gather's step writes. An index that its entry gives is taken where it is below RCOUNT, and else by OOR: GATHER_RANGE at the
entry's address, no row, the nearest row, or DEFROW (Table 7.8). At a position with no row nothing is written but the completion updates
that are due. GATH writes row p of D from the table row, converted; under DEDUP a row read before is taken as it was (R235, R236).
GSCAT and GSADD write the table row from row p of D, GSADD the sum of both, one element after the other (R236, R238). GBAG writes row b of
D with the pool of its positions' rows: +0 encoded for none, the exact integers' sum, greatest and mean, and in float one rounding to F32
for each addition (R236). The first check that fails stops the operation with its fault and no byte is written (R237). -/
def Obligations.GatherSteps : Prop :=
  ∀ (s : State) (c e : Nat) (o : Op), c < 64 → (s.core c).opAt e = some o → o.slot < 5 → s.opReady c o = true → o.resume < o.v2 →
    let step := if o.isTicketed then Instr.ticketedUpdate c e else Instr.chunkComplete c e
    let g := grecOf o.grec
    let D := o.dst
    let T := fmtOfBits o.f1.2
    let cb := containerBits T.tw
    let p := o.resume
    let all := g.rows o.kind * rowBits o.kind g D
    let below := fun (q : Nat) => if o.v2 ≤ q then chunkCount all else q * rowBits o.kind g D / 4096
    let stops := fun (code : FaultCode) (addr : Nat) => ∃ t, exec step s = .next t ∧ t.mem = s.mem ∧ t.hostMem = s.hostMem ∧
      ∃ f, (t.slot c o.slot).waiting = (s.slot c o.slot).waiting ++ [f] ∧ f.code = code ∧ f.addr = BitVec.ofNat 64 addr ∧
        f.idx = o.wpc ∧ f.entry = e ∧ f.async = true
    let gives := fun (x : State × Op) => x.1.compReady c o ((List.range (below (p + 1) - below p)).map (below p + ·)) = .ok () →
      let done := x.1.compRange c x.2 all (below p) (below (p + 1))
      ∃ t, exec step s = .next t ∧ t.mem = done.mem ∧ t.hostMem = done.hostMem ∧ t.sync = done.sync ∧
        (p + 1 < o.v2 → ∃ y, (t.core c).opAt e = some y ∧ y.resume = p + 1 ∧ y.flags = x.2.flags) ∧
        (o.v2 ≤ p + 1 → x.2.trap = none → (t.core c).opAt e = none)
    let checks := fun (s1 : State) (bs : List OpByte) (go : State → Prop) =>
      (∀ code a, s1.opChecks c o bs = .error (.fault code a) → stops code a) ∧ ∀ s2, s1.opChecks c o bs = .ok s2 → go s2
    let row := fun (r : Nat) => rangeBytes g.tspc (g.rowAt r) g.rbytes
    let writes := fun (space : Nat) (at_ : Nat → Pieces) (val : State → Nat → (Nat × Flags) × State) (x : State × Op) =>
      (List.range D.sh.cols).foldl (fun (x : State × Op) j =>
        let y := val x.1 j
        y.2.writeElem c { x.2 with flags := x.2.flags ||| y.1.2 } space (at_ j) y.1.1) x
    (∀ (x : Int) (entry : Nat),
      (0 ≤ x → x < g.rcount → g.resolve x entry = .ok (some x.toNat)) ∧
      (x < 0 ∨ (g.rcount : Int) ≤ x →
        (g.oor = 0 → g.resolve x entry = .error (.fault .gatherRange entry)) ∧ (g.oor = 1 → g.resolve x entry = .ok none) ∧
        (g.oor = 2 → g.resolve x entry = .ok (some (if x < 0 then 0 else g.rcount - 1))) ∧
        (g.oor = 3 → g.resolve x entry = .ok (some g.defrow)))) ∧
    (o.kind = .gath ∨ ((o.kind = .gscat ∨ o.kind = .gsadd) ∧ (o.isTicketed = true → o.kind = .gsadd)) →
      (∀ code a, s.readIndex c o g p = .error (.fault code a) → stops code a) ∧
      (∀ s1, s.readIndex c o g p = .ok (s1, none) → gives (s1, o))) ∧
    (o.kind = .gath → ∀ s1 r, s.readIndex c o g p = .ok (s1, some r) →
      let put := fun (xs : List Nat) => writes D.sh.space (D.writePieces p) fun z j =>
        (moveBits (o.f1.1, T) (D.no, D.e) (xs[j]?.getD 0) o.mode, z)
      ((g.dedup && o.seen.contains r) = false → checks s1 (row r true false false) fun s2 => checks s2 (D.rowOps true p) fun s3 =>
        let xs := s3.readTable c o g cb D.sh.cols r
        gives (put xs.1 (xs.2, if g.dedup then keepRow o r xs.1 else o))) ∧
      ((g.dedup && o.seen.contains r) = true → checks s1 (D.rowOps true p) fun s3 => gives (put (keptRow o D.sh.cols r) (s3, o)))) ∧
    (o.kind = .gscat ∨ o.kind = .gsadd → ∀ s1 r, s.readIndex c o g p = .ok (s1, some r) →
      let add := o.kind == .gsadd
      ((g.dedup && o.seen.contains r) = true → gives (s1, o)) ∧
      ((g.dedup && o.seen.contains r) = false → checks s1 (row r add true add) fun s2 => checks s2 (D.rowOps false p) fun s3 =>
        let o1 := if g.dedup then { o with seen := r :: o.seen } else o
        (o.overlap = false → o.kind = .gscat → gives (writes g.tspc (tablePiece (g.rowAt r) cb) (fun z j =>
          (moveBits (D.no, D.e) (o.f1.1, T) ((z.spaceMem o D.sh.space).gather
            ((D.readPieces p j).map fun y => (y.1 + 8 * z.spaceBase c o D.sh.space, y.2))) o.mode, z)) (s3, o1))) ∧
        (o.overlap = false → o.kind = .gsadd → g.tspc = 2 → D.sh.space ≠ 4 →
          let old := fun (z : State) (j : Nat) => z.mem.gather (tablePiece (g.rowAt r) cb j)
          let src := fun (z : State) (j : Nat) => z.mem.gather
            ((D.readPieces p j).map fun y => (y.1 + 8 * z.spaceBase c o D.sh.space, y.2))
          let last := writes 2 (tablePiece (g.rowAt r) cb) (fun z j =>
            (encodeRes T o.mode (vAdd o.mode (T.decode (old z j)) (D.e.decode (src z j))), z)) (s3, o1)
          (s3.compReady c o ((List.range (below (p + 1) - below p)).map (below p + ·)) = .ok () → compBitmap o.comp = false →
            ∃ t, exec step s = .next t ∧ t.mem = last.1.mem ∧ t.hostMem = last.1.hostMem)))) ∧
    (o.kind = .gbag →
      (∀ code a, s.bagBounds c o g p = .error (.fault code a) → stops code a) ∧
      (∀ s1 lo hi, s.bagBounds c o g p = .ok (s1, lo, hi) →
        let found := s1.bagRows c o g cb D.sh.cols ((List.range (hi - lo)).map (lo + ·)) [] []
        (∀ code a, found = .error (.fault code a) → stops code a) ∧
        (∀ s2 rows, found = .ok (s2, rows) → checks s2 (D.rowOps true p) fun s3 =>
          gives (writes D.sh.space (D.writePieces p) (fun z j => (pool g.opn T D.e o.mode (rows.map fun xs => xs[j]?.getD 0), z)) (s3, o))))) ∧
    (∀ (xs : List Nat) (x : Nat),
      let f32 := fun (r : Res) => encodeRes fmtF32 o.mode r
      (pool g.opn T D.e o.mode [] = D.e.encode (Val.zero false) o.mode) ∧
      (T.kind ≠ .float → let is := (x :: xs).map fun y => (T.decode y).toInt
        (g.opn = 1 → pool g.opn T D.e o.mode (x :: xs) = D.e.encode (Val.ofInt (is.foldl (· + ·) 0)) o.mode) ∧
        (g.opn = 2 → pool g.opn T D.e o.mode (x :: xs) =
          D.e.encode (vDiv (Val.ofInt (is.foldl (· + ·) 0)) (Val.ofNat (xs.length + 1))).1 o.mode) ∧
        (g.opn = 3 → pool g.opn T D.e o.mode (x :: xs) = D.e.encode (Val.ofInt (is.foldl max (T.decode x).toInt)) o.mode)) ∧
      (T.kind = .float → ∃ acc : Nat → Val, acc 0 = fmtF32.decode (f32 (T.decode x, 0)).1 ∧
        (∀ k y, xs[k]? = some y → acc (k + 1) =
          if g.opn = 3 then (vMax (acc k) (T.decode y)).1 else fmtF32.decode (f32 (vAdd o.mode (acc k) (T.decode y))).1) ∧
        (pool g.opn T D.e o.mode (x :: xs)).1 = (D.e.encode (if g.opn = 2 then
          fmtF32.decode (f32 (vDiv (acc xs.length) (Val.ofNat (xs.length + 1)))).1 else acc xs.length) o.mode).1))

/-- Steps at a bank that may act, of operations that run on no bound trap, at bytes that no poison marks and a bank that neither a stopped
clock, a flit, its ALU nor an access that came before keeps (R284, R395, R417; their order is the model's choice, log 2 and 7, and the
order of a step's own checks, log 16). An atomic is one
read-modify-write: its target takes the value of Table 7.9, no other byte changes, and it is over; ASWAP and ACAS, whose return slot
lies apart from the target, put the old value there (R239, R241). CINIT clears its bits and no byte outside its bitmap changes; a
weight slot that is empty or unsuitable stops it (R231, R218). A queue step whose turn it is pushes or pops one entry and counts it,
or, with no room or no entry and past its deadline, stops with WAIT_DEADLINE; a descriptor with reserved bits or CAP = 0 stops it
with RESERVED_FIELD (R243). FTW takes the next number of its context and then reaches the copies of the other cores that stand in
its context (R261, R262). -/
def Obligations.BankSteps : Prop :=
  ∀ (s : State) (c e : Nat) (o : Op), c < 64 → (s.core c).opAt e = some o → o.slot < 5 → o.finished = false → o.pst = .run →
    let a := o.addr.toNat
    let w := 8 * o.width
    let clean := fun (n : Nat) => firstByte ((List.range n).map (a + ·)) s.poisoned = none
    let free := fun (x n : Nat) => s.bankStopped c x = false ∧ s.aluTaken x n = false ∧ s.behindOthers c o.fork [waitPlace x] = false
    let waits := fun (n : Nat) => s.opReady c o = true ∧ free a n
    let halts := fun (i : Instr) (code : FaultCode) (addr : Nat) => ∃ t f, exec i s = .next t ∧ t.mem = s.mem ∧ t.hostMem = s.hostMem ∧
      (t.slot c o.slot).waiting = (s.slot c o.slot).waiting ++ [f] ∧ f.code = code ∧ f.addr = BitVec.ofNat 64 addr ∧ f.entry = e
    let old := s.mem.nat a o.width
    let x := o.x1.toNat % 2 ^ w
    let key := fun (y : Nat) => if o.sext then signedOf w y else (y : Int)
    let keeps := fun (t : State) => t.hostMem = s.hostMem ∧ (t.core c).opAt e = none ∧
      ∀ y, y < a ∨ a + o.width ≤ y → Memory.get t.mem y = Memory.get s.mem y
    let leaves := fun (i : Instr) (v : Nat) => ∃ t, exec i s = .next t ∧ t.mem.nat a o.width = v ∧ keeps t
    (waits o.width → o.trap = none → clean o.width → 0 < o.width → o.width ≤ 8 →
      (o.kind = .aadd → leaves (.bankAtomic c e) ((old + x) % 2 ^ w)) ∧
      (o.kind = .aand → leaves (.bankAtomic c e) (old &&& x)) ∧ (o.kind = .aor → leaves (.bankAtomic c e) (old ||| x)) ∧
      (o.kind = .axor → leaves (.bankAtomic c e) (old ^^^ x)) ∧
      (o.kind = .amin → leaves (.bankAtomic c e) (if key x < key old then x else old)) ∧
      (o.kind = .amax → leaves (.bankAtomic c e) (if key old < key x then x else old)) ∧
      (o.kind = .afadd → o.width = 2 ∨ o.width = 4 → let f := fmtOfBits (presetEntry (if o.width = 2 then 3 else 1))
        leaves (.ticketedUpdate c e) ((encodeRes f o.mode (vAdd o.mode (f.decode old) (f.decode x))).1 % 2 ^ w)) ∧
      ((o.kind = .aswap ∨ o.kind = .acas) → (let r := localAddr c o.ret.toNat; r + o.width ≤ a ∨ a + o.width ≤ r) →
        ∃ t, exec (.bankAtomic c e) s = .next t ∧
          t.localNat c o.ret.toNat o.width = old ∧ (t.core c).opAt e = none ∧
          t.mem.nat a o.width = if o.kind = .aswap then x else if old = x then o.x2.toNat % 2 ^ w else old)) ∧
    (o.kind = .cinit → s.opReady c o = true → free (compPackage c o.comp) 1 →
      (o.x1 = 1 → halts (.bankAtomic c e) .slotEmpty 0) ∧ (o.x1 = 2 → halts (.bankAtomic c e) .shapeMismatch 0) ∧
      (o.x1 ≠ 1 → o.x1 ≠ 2 → (∀ n, n < chunkCount o.dataBits → (compPackage c o.comp + n / 8) / 64 * 64 ∉ s.poison) → ∃ t, exec (.bankAtomic c e) s = .next t ∧ (t.core c).opAt e = none ∧ t.hostMem = s.hostMem ∧
        (∀ n, n < chunkCount o.dataBits → (Memory.get t.mem (compPackage c o.comp + n / 8)).getLsbD (n % 8) = false) ∧
        ∀ y, y < compPackage c o.comp ∨ compPackage c o.comp + chunkCount o.dataBits / 8 < y →
          Memory.get t.mem y = Memory.get s.mem y)) ∧
    ((o.kind = .qpush ∨ o.kind = .qpop) → waits 8 → clean 64 →
      let f := fun (lo n : Nat) => s.mem.nat (a + lo) n
      let bad := f 12 4 ≠ 0 ∨ f 32 32 ≠ 0 ∨ f 8 4 = 0
      let n := if o.kind = .qpush then f 16 8 else f 24 8
      let slot := (f 0 8 + 8 * (n % f 8 4)) % 2 ^ 64
      let room := if o.kind = .qpush then f 16 8 < f 24 8 + f 8 4 else f 24 8 < f 16 8
      let late := ∃ d, o.deadline = some d ∧ d ≤ s.tick
      let stops := fun (code : FaultCode) (addr : Nat) => exec (.queueStep c e) s = .next (s.stopOp c o code addr)
      (bad → stops .reservedField 0) ∧ (¬bad → ¬room → late → stops .waitDeadline a) ∧
      (¬bad → ¬room → ¬late → exec (.queueStep c e) s = .next s) ∧
      (∀ s1, ¬bad → room → o.trap = none → (s.aluTake a 8).opChecks c o (rangeBytes 2 slot 8 (o.kind == .qpop) true true) = .ok s1 →
        slot + 8 ≤ a ∨ a + 64 ≤ slot → ∃ t, exec (.queueStep c e) s = .next t ∧ (t.core c).opAt e = none ∧
          (o.kind = .qpush → t.mem.nat slot 8 = o.x1.toNat ∧ t.mem.nat (a + 16) 8 = (f 16 8 + 1) % 2 ^ 64 ∧
            ∀ y, (y < slot ∨ slot + 8 ≤ y) → (y < a + 16 ∨ a + 24 ≤ y) → Memory.get t.mem y = Memory.get s.mem y) ∧
          (o.kind = .qpop → compBitmap o.comp = false → (let r := localAddr c o.x1.toNat; r + 8 ≤ a ∨ a + 64 ≤ r) →
            t.mem.nat (a + 24) 8 = (f 24 8 + 1) % 2 ^ 64 ∧ t.localNat c o.x1.toNat 8 = s.mem.nat slot 8))) ∧
    (o.kind = .ftw → s.cpRuns = true → s.opReady c o = true → ((s.core c).formats.any fun l => l.1 == o.slot && l.2.seq == o.seq) = false →
      32 ≤ o.width → o.width < 256 →
      (o.resume = 0 → o.ctx < 64 → ∃ t, exec (.ftwPropagation c e) s = .next t ∧ t.mem = s.mem ∧
        (t.ctx o.ctx).ftNo = (s.ctx o.ctx).ftNo + 1 ∧ (t.ctx o.ctx).ftab[o.width - 32]? = some o.x1 ∧
        ∃ p, (t.core c).opAt e = some p ∧ p.resume = 1 ∧ p.x2 = BitVec.ofNat 64 (t.ctx o.ctx).ftNo) ∧
      (o.resume ≠ 0 → o.trap = none → ∃ t, exec (.ftwPropagation c e) s = .next t ∧ t.mem = s.mem ∧ (t.core c).opAt e = none ∧
        ∀ d, d < 64 → d ≠ c → t.core d = if (s.core d).owner = some o.ctx then (s.core d).takeFtw o.width o.x2.toNat o.x1 else s.core d))

/-- ATS and PRI. A completion that permits the access enters the cache, as its most recent of 64 entries, and the operation goes
on; one that does not stops it with PAGE_FAULT where PRI is off or four answers did not help, and else parks it: it asks for the page
under a group index of its own where fewer requests of its attachment are outstanding than the host has allocated, 512 at most, and
waits to ask where they are as many. Where no other parked operation waits to ask, PRI Success returns the operation to XLATE with a
new translation request (after a function-level reset it stops with PAGE_FAULT), any other answer stops it with PAGE_FAULT, and
Response Failure stops the function's requests; an answer to a group that is not outstanding is discarded. An invalidation removes
every entry of the host that overlaps its range on the tick it arrives, and its completion answers it once (R347 to R350, R460). The
order of waiting requests, the index a request takes and the tick after the answer on which the operation goes on are the model's
choice (logs 7 and 24). -/
def Obligations.Translations : Prop :=
  ∀ (s : State),
    let groups := fun (t : State) (gs : List (Nat × Nat)) => t.cp.groups = gs ∧ t.cp.pages = gs.length
    (∀ (c e : Nat) (o : Op) (x : Translation), c < 64 → (s.core c).opAt e = some o → o.pst = .xlate →
      (o.needR || o.needW) = true →
      let cx := s.ctx o.ctx
      let page := o.xaddr.toNat / 4096
      (permits x o = true → ∃ t n, exec (.atsCompletion c e x) s = .next t ∧ t.mem = s.mem ∧ t.hostMem = (s.learnPages n).hostMem ∧
        (t.core c).tlb = (n :: (s.core c).tlb).take 64 ∧ n.pasid = cx.pasid ∧ n.size = x.size ∧ n.rd = x.rd ∧ n.wr = x.wr ∧
        n.ppn = x.ppn ∧ n.host = BitVec.ofNat 2 cx.host ∧ n.vpn = BitVec.ofNat 52 page ∧
        ∃ p, (t.core c).opAt e = some p ∧ p.pst = .run ∧ p.delay = s.tick + 1 ∧ p.resume = o.resume ∧
          p.needR = false ∧ p.needW = false ∧ (page, x.rd, x.wr) ∈ p.xl) ∧
      (permits x o = false →
        (s.cp.priOff[cx.host]?.getD false = true ∨ 4 ≤ o.tries →
          exec (.atsCompletion c e x) s = .next (s.stopOp c { o with faddr := o.xaddr } .pageFault o.xaddr.toNat)) ∧
        (s.cp.priOff[cx.host]?.getD false = false → o.tries < 4 →
          ∃ t p, exec (.atsCompletion c e x) s = .next t ∧ (t.core c).opAt e = some p ∧ p.pst = .parked ∧ p.faddr = o.xaddr ∧
            if s.pagesOut cx.host < min 512 (s.cp.priAlloc[cx.host]?.getD 0) then
              p.asked = true ∧ groups t (s.cp.groups ++ [(cx.host, p.group)]) ∧
              t.out = s.out ++ [.pri c e p.group cx.pasid o.xaddr o.needR o.needW]
            else p.asked = false ∧ t.cp.groups = s.cp.groups ∧ t.out = s.out))) ∧
    (∀ (c e : Nat) (o : Op) (x : PageAnswer), c < 64 → (s.core c).opAt e = some o → o.pst = .parked → o.asked = true →
      o.group = x.group → (s.ctx o.ctx).host = x.att → (x.att, x.group) ∈ s.cp.groups → (o.needR || o.needW) = true →
      (∀ d p, p ∈ (s.core d).ops → (p.pst = .parked → p.asked = true) ∧ (p.pst = .xlate → (p.needR || p.needW) = true)) → o.slot < 5 →
      let off := s.cp.atsOff[x.att]?.getD false
      ∃ t p, exec (.priResponse c e x) s = .next t ∧ groups t (s.cp.groups.erase (x.att, x.group)) ∧ t.mem = s.mem ∧
        (t.core c).opAt e = some p ∧
        (x.code = .success → off = false → p.pst = .xlate ∧ p.tries = o.tries + 1 ∧
          t.out = s.out ++ [.ats c e (s.ctx o.ctx).pasid (BitVec.ofNat 64 o.xaddr.toNat)]) ∧
        (x.code ≠ .success ∨ off = true → p.pst = .stopped ∧
          ∃ f, (t.slot c o.slot).waiting = (s.slot c o.slot).waiting ++ [f] ∧
            f.code = .pageFault ∧ f.addr = o.xaddr ∧ f.async = true) ∧
        (x.code = .responseFailure → t.cp.priOff = s.cp.priOff.setIfInBounds x.att true) ∧
        (x.code ≠ .responseFailure → t.cp.priOff = s.cp.priOff)) ∧
    (∀ (c e : Nat) (x : PageAnswer), (x.att, x.group) ∉ s.cp.groups → exec (.priResponse c e x) s = .next s) ∧
    (∀ (att : Nat) (pasid : BitVec 20) (base len : Nat), ∃ t, exec (.atsInvalidation att pasid base len) s = .next t ∧
      t.mem = s.mem ∧ t.cp.invals = s.cp.invals ++ [(att, pasid, base, len)] ∧
      ∀ c n, c < 64 → (n ∈ (t.core c).tlb ↔ n ∈ (s.core c).tlb ∧ ¬(n.host = BitVec.ofNat 2 att ∧ n.overlaps pasid base len = true))) ∧
    (∀ (att : Nat) (pasid : BitVec 20) (base len : Nat), (att, pasid, base, len) ∈ s.cp.invals →
      exec (.invalidationCompletion att pasid base len) s = .next
        ({ s with cp := { s.cp with invals := s.cp.invals.erase (att, pasid, base, len) } }.emit (.invalidated att)))

/-! ### The security block (08, 15) -/

/-- Manager words at level M: FUSERD reads a word of the fuses' shadow registers, 0 from index 12 on, landing four cycles after issue
(R274); the others, when their checks pass, freeze the task and join the block's one arrival order, and a failing check is raised
(R273). The block serves the head of its queue: gd receives the result on the task cycle after issue, KEYWIPE of one slot whether a
key was held and of 0x3FFF how many it has wiped, KEYLD its first applying status (R275), DBGUNLK draws a nonce and stores it or checks
a token, which consumes the nonce: one that passes opens the lock within the token's scope, advances the counter and extends
MEAS7 (R276), MEASURE extends MEASn (R277), and ATTEST stores its report (R278). That MEASURE of 0 or 1, the boot's registers,
extends nothing, and that the block takes its queue's head at one event of a tick, is the model's choice (log 6). -/
def Obligations.ManagerWords : Prop :=
  ∀ (s : State) (d a b : BitVec 6) (imm : BitVec 8) (imm14 : BitVec 14) (v : Word), s.atSlot →
    let c := s.who.core
    let asks := fun (i : Instr) => ∃ z, exec i s = .next { (s.updCur fun t => { t with freeze := some z }) with
        sec := { s.sec with queue := (s.sec.queue.filter (· != .word c s.who.slot)) ++ [.word c s.who.slot] } } ∧
      z.q = s.who.q ∧ z.hold = .secure ∧ z.deadline = none ∧ z.start = s.tick
    (s.admits (.fuserd d a imm) { ximm := true } 2 → s.immIs 8 false imm.toNat v →
      let i := (s.g a + v).toNat % 256
      exec (.fuserd d a imm) s = .next (s.landed [s.landing 4 (.g d.toNat (s.sec.shadow[i]?.getD 0))])) ∧
    (s.admits (.keywipe d imm14) {} 2 → asks (.keywipe d imm14)) ∧
    (s.admits (.keyld d a b) {} 2 → (s.g b).extractLsb' 7 57 = 0 → s.bufferChecks false (s.g a).toNat 40 8 = none →
      asks (.keyld d a b)) ∧
    (s.admits (.keyld d a b) {} 2 → (s.g b).extractLsb' 7 57 ≠ 0 → exec (.keyld d a b) s = .next (s.raise { code := .shapeRange })) ∧
    (∀ x, s.admits (.keyld d a b) {} 2 → (s.g b).extractLsb' 7 57 = 0 → s.bufferChecks false (s.g a).toNat 40 8 = some x →
      exec (.keyld d a b) s = .next (s.raise x)) ∧
    (s.admits (.dbgunlk d a b) {} 2 → 1 < (s.g b).toNat → exec (.dbgunlk d a b) s = .next (s.raise { code := .shapeRange })) ∧
    (s.admits (.dbgunlk d a b) {} 2 →
      (s.g b = 0 → s.bufferChecks true (s.g a).toNat 32 8 = none → asks (.dbgunlk d a b)) ∧
      (s.g b = 1 → s.bufferChecks false (s.g a).toNat 288 8 = none → asks (.dbgunlk d a b))) ∧
    (s.admits (.measure a b) {} 2 →
      (6 < (s.g b).toNat → exec (.measure a b) s = .next (s.raise { code := .shapeRange })) ∧
      ((s.g b).toNat ≤ 6 → s.bufferChecks false (s.g a).toNat 48 8 = none → asks (.measure a b))) ∧
    (s.admits (.attest a b) {} 2 → s.bufferChecks false (s.g a).toNat 32 8 = none →
      s.bufferChecks true (s.g b).toNat 560 8 = none → asks (.attest a b)) ∧
    (∀ n q z rest, n < 5 → s.sec.queue = .word c n :: rest → (s.slot c n).freeze = some z → z.hold = .secure → z.q = q →
      s.frozenActs c n = true → z.start < s.tick →
      let r := (s.slot c n).regs
      let A := (r.readG a.toNat).toNat
      let B := r.readG b.toNat
      let served := fun (result : Option Nat) (sec : Security) => ∃ t, exec .securityBlockReply s = .next t ∧
        t.sec = { sec with queue := rest } ∧ (t.slot c n).freeze = (s.slot c n).behind.head? ∧
        (t.slot c n).startTick = s.tick + 1 ∧ ∀ x, result = some x → ∃ l, (t.slot c n).landings = (s.slot c n).landings ++ [l] ∧
          l.eff = .g d.toNat (BitVec.ofNat 64 x) ∧ l.cyc = (s.slot c n).tc
      1 ≤ (s.slot c n).tc →
      (decode q.word 0 = some (.keywipe d imm14) → imm14.toNat < 64 →
        served (some (if (s.sec.key imm14.toNat).isSome then 1 else 0)) (s.sec.wipe imm14.toNat)) ∧
      (decode q.word 0 = some (.keywipe d 0x3FFF) → ∃ sec : Security, served (some s.sec.loaded) sec ∧
        (∀ k, k < 64 → sec.key k = none) ∧ sec.hreg = s.sec.hreg ∧ sec.meas = s.sec.meas ∧ sec.fuses = s.sec.fuses ∧
        sec.spdm = s.sec.spdm ∧ (∀ i, i < 16 → (sec.hwiped.getLsbD i = true ↔ s.sec.hwiped.getLsbD i = true ∨
          ∃ k x, k < 64 ∧ s.sec.key k = some x ∧ x.hbm = true ∧ s.sec.regionKeyed i k = true)) ∧
        (∀ st, st ∈ sec.insecure ↔ st ∈ s.sec.insecure ∨
          ∃ k x y, k < 64 ∧ s.sec.key k = some x ∧ x.stream = some y ∧ y.1 = st)) ∧
      (decode q.word 0 = some (.keyld d a b) →
        let blob := s.localBytes c A 40
        let k := B.toNat % 64
        let keys := s.sec.spdm.wrapKey.bind fun w => Config.aesUnwrap w blob
        (s.dbg.open_ = true → served (some 3) s.sec) ∧
        (s.dbg.open_ = false → s.sec.lifecycle ≠ 1 → served (some 1) s.sec) ∧
        (s.dbg.open_ = false → s.sec.lifecycle = 1 → (s.sec.key k).isSome → served (some 2) s.sec) ∧
        (s.dbg.open_ = false → s.sec.lifecycle = 1 → s.sec.key k = none →
          (keys = none → served (some 1) s.sec) ∧
          (∀ x, keys = some x → served (some 0) { s.sec with
            keys := s.sec.keys.setIfInBounds k (some { key := x, hbm := B.getLsbD 6 }) }))) ∧
      (decode q.word 0 = some (.dbgunlk d a b) →
        (B.getLsbD 0 = false →
          served (some 0) { s.sec with
            nonce := some (Config.nonce s.sec.draws), advanced := false, draws := s.sec.draws + 1 } ∧
          ∃ t, exec .securityBlockReply s = .next t ∧ t.mem = s.mem.writeMasked (bytesToMasked (localAddr c A)
            (bytesLE 32 (Config.nonce s.sec.draws).toNat))) ∧
        (∀ x, B.getLsbD 0 = true → s.sec.tokenFail (s.localBytes c A 288) true = some x →
          served (some x) { s.sec with nonce := none, advanced := false }) ∧
        (B.getLsbD 0 = true → s.sec.tokenFail (s.localBytes c A 288) true = none →
          let token := s.localBytes c A 288
          served (some 0) { s.sec with
            nonce := none, advanced := false
            fuses := s.sec.fuses.setIfInBounds 11 (BitVec.ofNat 64 (s.sec.counter + 1))
            meas := s.sec.meas.setIfInBounds 7
              (Config.sha384 (digestBytes (s.sec.measure 7) ++ digestBytes (Config.sha384 (token.take 96)))) } ∧
          ∃ t, exec .securityBlockReply s = .next t ∧ t.mem = s.mem ∧ t.dbg.open_ = true ∧
            t.dbg.pscope = BitVec.ofNat 4 (tokenField token 64 8))) ∧
      (decode q.word 0 = some (.measure a b) → B.toNat ≤ 6 →
        (2 ≤ B.toNat → served none { s.sec with
          meas := s.sec.meas.setIfInBounds B.toNat (Config.sha384 (digestBytes (s.sec.measure B.toNat) ++ s.localBytes c A 48)) }) ∧
        (B.toNat < 2 → served none s.sec)) ∧
      (decode q.word 0 = some (.attest a b) → served none { s.sec with draws := s.sec.draws + 1 } ∧
        ∃ t, exec .securityBlockReply s = .next t ∧ t.mem = s.mem.writeMasked (bytesToMasked (localAddr c B.toNat)
          (s.sec.report (s.localBytes c A 32)))))

/-- SPDM and IDE_KM requests: with nothing before it in the block's arrival order, a request whose steps have been made is
answered, GET_VERSION with 1.3 and GET_MEASUREMENTS with the digests as they stand; with something before it, it joins the order; one
outside the list gets UnsupportedRequest (R453). KEY_PROG over a secured session fills the lowest empty slot with use 0, bound to stream
and direction, unless the attachment has four selective streams already (R443), and K_SET_GO fails where no slot is
empty (R449). COLD_RESET gives the state after reset but for fuses, whose shadow registers it loads, memory and keys (R452, R459). The
order of SPDM's steps and the coding of its answers (log 6), what a cold reset leaves of memory and the reset values that no rule gives
(log 4), the events as records (log 25) and the stream numbers (log 24) are the model's choice. -/
def Obligations.SecurityRequests : Prop :=
  ∀ (s : State) (sl off len idx str dir code : Nat) (nonce : BitVec 256) (share : BitVec 768) (mac : BitVec 384) (key : BitVec 256),
    let answers := fun (i : Instr) (ok : Bool) (after : Spdm) =>
      (s.sec.queue ≠ [] → exec i s = .next { s with sec := { s.sec with queue := s.sec.queue ++ [.spdm i] } }) ∧
      (s.sec.queue = [] → (ok = false → exec i s = .next (s.emit (.spdm (spdmCode i) false []))) ∧
        (ok = true → ∃ bytes, exec i s = .next
          ({ s with sec := { s.sec with spdm := after, draws := s.sec.draws + 1 } }.emit (.spdm (spdmCode i) true bytes)) ∧
          (i = .getVersion → bytes = [0x13]) ∧
          ∀ n x, i = .getMeasurements n x → 1 ≤ n → n ≤ 8 → bytes = digestBytes (s.sec.measure (n - 1))))
    let p := s.sec.spdm
    let neg := p.negotiated
    answers .getVersion true { ({} : Spdm) with versioned := true, exchanges := p.exchanges } ∧
    answers .getCapabilities p.versioned { p with capable := true } ∧
    answers .negotiateAlgorithms p.capable { p with negotiated := true } ∧
    answers .getDigests neg p ∧ answers (.getCertificate sl off len) (neg && sl == 0) p ∧
    answers (.challenge sl nonce) (neg && sl == 0) p ∧
    answers (.getMeasurements idx nonce) (neg && (decide (idx ≤ 8) || idx == 255)) p ∧
    answers (.keyExchange sl share) (neg && sl == 0) { p with handshake := true, exchanges := p.exchanges + 1 } ∧
    answers (.finish mac) (p.handshake && Config.finishVerifies p.exchanges mac)
      { p with handshake := false, session := true, wrapKey := some (Config.sessionKey p.exchanges) } ∧
    answers .endSession p.session { p with session := false, wrapKey := none } ∧
    (s.sec.queue = [] → exec (.unsupportedRequest code) s = .next (s.emit (.spdm code false [7]))) ∧
    (s.sec.queue ≠ [] → exec (.unsupportedRequest code) s =
      .next { s with sec := { s.sec with queue := s.sec.queue ++ [.spdm (.unsupportedRequest code)] } }) ∧
    (∀ n, s.sec.firstEmpty = some n →
      (s.sec.key n = none ∧ ∀ m, m < n → s.sec.key m ≠ none) ∧
      (p.session = false → exec (.keyProg str dir key) s = .next (s.emit (.report 0x19 str))) ∧
      (s.sec.streamsFull str = true → exec (.keyProg str dir key) s = .next (s.emit (.report 0x19 str))) ∧
      (p.session = true → s.sec.streamsFull str = false → exec (.keyProg str dir key) s = .next { s with sec := { s.sec with
        keys := s.sec.keys.setIfInBounds n (some { key := key, hbm := false, stream := some (str, dir) }) } })) ∧
    (s.sec.firstEmpty = none → exec (.keyProg str dir key) s = .next s) ∧
    (s.sec.firstEmpty = none → exec (.kSetGo str dir) s = .next (s.emit (.report 0x1A str))) ∧
    (∀ n k, s.sec.firstEmpty ≠ none → p.session = true → n < 64 → s.sec.key n = some k → k.stream = some (str, dir) →
      ∃ t, exec (.kSetGo str dir) s = .next t ∧ (str, dir) ∈ t.sec.streams ∧ str ∉ t.sec.insecure ∧ t.sec.keys = s.sec.keys) ∧
    (let r := State.reset
     ∃ t, exec .coldReset s = .next t ∧ t.cores = r.cores ∧ t.ctxs = r.ctxs ∧ t.cp = { r.cp with twoLinks := s.cp.twoLinks } ∧ t.tick = 0 ∧ t.fab = r.fab ∧
      t.sync = [] ∧ t.poison = [] ∧ t.dbg = r.dbg ∧ t.cool = r.cool ∧ t.sec.fuses = s.sec.fuses ∧ t.sec.shadow = s.sec.fuses ∧ t.mem = s.mem ∧
      (∀ n, n < 8 → t.sec.measure n = 0) ∧ (s.sec.lifecycle = 2 → ∀ n, t.sec.key n = none) ∧
      (s.sec.lifecycle ≠ 2 → t.sec.keys = s.sec.keys))

/-! ### Link programs (12) -/

/-- L words at their decode. LAT, LSET and LADD write C or a register (R385); LLOOP pushes (N, P, B, next index) with C := B, skips
to after its LEND at N = 0, with four entries raises SHAPE_RANGE and with a negative prefixed period RESERVED_FIELD; LEND goes round
or pops, and with no entry raises RESERVED_FIELD (R386). A timed word whose checks pass waits for its execution tick, its cursor's
value, with its operands captured and INC done; before the last execution tick it raises ORDER, less than two ticks ahead LATE, and a
release send before the horizon RELEASE (R381, R387, R390 to R392, R397). A data word whose checks fail raises the first of their
faults (R387). LHALT takes no prefix, and inside a loop raises RESERVED_FIELD (R386, R392). Every fault shows the word's index. That
a word both out of order and late raises ORDER (log 27), that a word's own checks come before those of its tick, and what a word of no
carried port raises (log 19), are the model's choice. -/
def Obligations.LinkWords : Prop :=
  ∀ (s : State) (ad aa an : BitVec 6) (b : BitVec 1) (rel inc : BitVec 1) (port : BitVec 4) (fc : BitVec 3) (i8 : BitVec 8)
    (i14 : BitVec 14) (i20 : BitVec 20) (v : Word), s.who.link < 12 →
    let l := s.engine
    let at_ := s.who.q.idx.toNat
    let leaves := fun (i : Instr) (l' : Link) => exec i s = .next (s.setLink s.who.link { l' with latch := {} })
    let fails := fun (i : Instr) (code : FaultCode) (cause : Nat) => exec i s = .next (s.linkFault s.who.link code cause at_)
    let noMod := fun (m : BitVec 20) => m == 0
    let C := l.c.toNat
    let N := l.readA an.toNat
    let n := N.toNat
    let A := l.readA ad.toNat
    let timed := fun (i : Instr) (xmod : BitVec 20 → Bool) (resv release : Bool) (w : Timed) (next : Link) =>
      s.linkAdmits i false xmod resv → resv = false →
      (C < l.lastExec → fails i .linkFailure 9) ∧
      (l.lastExec ≤ C → C < s.tick + 2 → fails i .linkFailure 8) ∧
      (l.lastExec ≤ C → s.tick + 2 ≤ C → (release = true → C < l.lhor → fails i .linkFailure 15) ∧
        ((release = true → l.lhor ≤ C) → leaves i { next with timed := l.timed ++ [w], lastExec := C }))
    let refuses := fun (i : Instr) (xmod : BitVec 20 → Bool) (x : Option (FaultCode × Nat × Word)) => s.linkAdmits i false xmod false →
      ∀ c cause y, x = some (c, cause, y) → exec i s = .next (s.linkFault s.who.link c cause at_ y)
    let word := fun (act : LinkAct) (k : Nat) (x y : Word) => ({ act := act, wpc := at_, tick := C, n := k, ad := x, an := y } : Timed)
    let moved := if inc = 1 then l.writeA ad.toNat (A + BitVec.ofNat 64 (256 * n)) else l
    let bad := port.toNat == portOf s.who.link || !s.fab.carries port.toNat
    let extra := (s.who.q.pfx.mods).toNat
    (s.linkAdmits (.lat i20) true noMod false → s.immIs 20 false i20.toNat v → leaves (.lat i20) { l with c := l.b + v }) ∧
    (s.linkAdmits (.lset ad i14) true noMod false → s.immIs 14 true i14.toNat v → leaves (.lset ad i14) (l.writeA ad.toNat v)) ∧
    (s.linkAdmits (.ladd ad aa i8) true noMod false → s.immIs 8 true i8.toNat v →
      leaves (.ladd ad aa i8) (l.writeA ad.toNat (l.readA aa.toNat + v))) ∧
    (∀ k, s.immIs 14 false i14.toNat v → s.linkAdmits (.lloop ad i14) true noMod false →
      (s.who.q.pfx.ximm = [] ∨ 0 ≤ v.toInt) →
      matchingEnd ((List.range (l.len - 1 - l.pc)).map fun j => s.linkWordAt s.who.link (l.pc + j)) l.pc 0 = some k →
      (A = 0 → leaves (.lloop ad i14) { l with pc := k, decAt := s.tick + 2 }) ∧
      (A ≠ 0 → 4 ≤ l.stack.length → fails (.lloop ad i14) .shapeRange 0) ∧
      (A ≠ 0 → l.stack.length < 4 → leaves (.lloop ad i14) { l with
        stack := { n := A.toNat, p := v, b0 := l.b, start := l.pc, i := 0 } :: l.stack, c := l.b })) ∧
    (s.immIs 14 false i14.toNat v → s.linkAdmits (.lloop ad i14) true noMod false → s.who.q.pfx.ximm ≠ [] → v.toInt < 0 →
      fails (.lloop ad i14) .reservedField 0) ∧
    (s.linkAdmits .lend false noMod false →
      (l.stack = [] → fails .lend .reservedField 0) ∧
      (∀ e rest, l.stack = e :: rest →
        (e.i + 1 < e.n → let x := e.b0 + BitVec.ofNat 64 (e.i + 1) * e.p
          leaves .lend { l with b := x, c := x, pc := e.start, decAt := s.tick + 2, stack := { e with i := e.i + 1 } :: rest }) ∧
        (e.n ≤ e.i + 1 → leaves .lend { l with b := e.b0, stack := rest }))) ∧
    (s.linkChecks A (some n) (some [.read]) = none →
      timed (.lsend ad an rel inc) (fun m => m.extractLsb' 0 4 == 0) false (rel == 1) (word .send n A N)
        { moved with lhor := max l.lhor (C + (n - 1) + 25 + l.ldly + extra) }) ∧
    refuses (.lsend ad an rel inc) (fun m => m.extractLsb' 0 4 == 0) (s.linkChecks A (some n) (some [.read])) ∧
    refuses (.lrecv ad an inc) noMod (s.linkChecks A (some n) (some [.write])) ∧
    refuses (.lradd ad an inc fc) (fun m => m.extractLsb' 4 16 == 0 && decide ((m.extractLsb' 0 4).toNat ≤ 5))
      (s.linkChecks A (some n) (some [.alu])) ∧
    (b = 1 → refuses (.lsig ad an b) noMod (s.linkChecks A none (some [.read, .write]))) ∧
    (bad = false → refuses (.lfwd an port) noMod (s.linkChecks (l.readA 0) (some n) none) ∧
      refuses (.lrfwd ad an inc port) noMod (s.linkChecks A (some n) (some [.write]))) ∧
    (bad = true → s.linkAdmits (.lfwd an port) false noMod false → fails (.lfwd an port) .reservedField 0) ∧
    (bad = true → s.linkAdmits (.lrfwd ad an inc port) false noMod false → fails (.lrfwd ad an inc port) .reservedField 0) ∧
    (i20.toNat < 16 → s.linkAdmits (.lguard i20) false noMod false → fails (.lguard i20) .reservedField 0) ∧
    (s.linkChecks A (some n) (some [.write]) = none → timed (.lrecv ad an inc) noMod false false (word .recv n A N) moved) ∧
    (s.linkChecks (l.readA 0) (some n) none = none →
      timed (.lfwd an port) noMod bad false (word (.fwd port.toNat) n (l.readA 0) N) l) ∧
    (s.linkChecks A (some n) (some [.write]) = none →
      timed (.lrfwd ad an inc port) noMod bad false (word (.rfwd port.toNat) n A N) moved) ∧
    (s.linkChecks A (some n) (some [.alu]) = none →
      timed (.lradd ad an inc fc) (fun m => m.extractLsb' 4 16 == 0 && decide ((m.extractLsb' 0 4).toNat ≤ 5)) false false
        (word (.radd fc.toNat (roundingWith 0 s.who.q.pfx.override)) n A N) moved) ∧
    (b = 0 → timed (.lsig ad an b) noMod false true (word .sigSend 1 A N)
      { l with lhor := max l.lhor (C + 25 + l.ldly) }) ∧
    (b = 1 → s.linkChecks A none (some [.read, .write]) = none → timed (.lsig ad an b) noMod false false (word .sigLand 1 A N) l) ∧
    (16 ≤ i20.toNat → timed (.lguard i20) noMod false false (word .guard i20.toNat 0 0) l) ∧
    (s.linkAdmits (.lchk ad i14) true noMod false → s.immIs 14 false i14.toNat v → l.lastExec ≤ C → s.tick + 2 ≤ C →
      leaves (.lchk ad i14) { l with timed := l.timed ++ [word (.chk v.toNat) 1 A 0], lastExec := C }) ∧
    (s.linkAdmits (.lchk ad i14) true noMod false → s.immIs 14 false i14.toNat v →
      (C < l.lastExec → fails (.lchk ad i14) .linkFailure 9) ∧
      (l.lastExec ≤ C → C < s.tick + 2 → fails (.lchk ad i14) .linkFailure 8)) ∧
    (l.stack = [] → s.who.q.pfx.xmod = none → timed (.lhalt i20) noMod false false (word (.halt i20) 1 0 0) l) ∧
    (l.stack = [] → s.who.q.pfx.xmod ≠ none → s.linkAdmits (.lhalt i20) false noMod false → fails (.lhalt i20) .xprefix 0) ∧
    (l.stack ≠ [] → s.linkAdmits (.lhalt i20) false noMod false → fails (.lhalt i20) .reservedField 0)

/-- Prefixes and words of no assigned pattern. In a core stream a prefix for an engine of the core is latched for its target's
next word, beside those latched before: a third XIMM, a second XIDLE or XMOD raises XPREFIX, TGT 6 ENGINE_MISPLACED and TGT 7
ILLEGAL_OPCODE; in link program memory TGT must be 6 (R57 to R62, R384). An unassigned opcode raises ILLEGAL_OPCODE, a word of the
wrong stream ENGINE_MISPLACED, and any other pattern that no row assigns RESERVED_FIELD, but a prefix pattern of E = 7 what its TGT
raises (R68, R69). -/
def Obligations.PrefixesAndPatterns : Prop :=
  ∀ (s : State) (tgt : BitVec 3) (pay : BitVec 20) (w : Half),
    let faults := fun (i : Instr) (code : FaultCode) (u : Bool) => exec i s = .next (s.raise { code := code, unissued := u })
    let linkFails := fun (i : Instr) (code : FaultCode) => exec i s = .next (s.linkFault s.who.link code 0 s.who.q.idx.toNat)
    let each := fun (P : Instr → Prop) => P (.ximm tgt pay) ∧ P (.xidle tgt pay) ∧ P (.xmod tgt pay)
    (s.who.slot < 5 →
      (tgt = 6 → each fun i => faults i .engineMisplaced true) ∧ (tgt = 7 → each fun i => faults i .illegalOpcode true) ∧
      (tgt.toNat < 6 →
        let p := s.cur.latch[tgt.toNat]?.getD {}
        let latches := fun (i : Instr) (ok : Bool) (q : Pfx) =>
          (ok = true → exec i s = .next (s.updCur fun t => { t with latch := t.latch.setIfInBounds tgt.toNat q })) ∧
          (ok = false → faults i .xprefix true)
        latches (.ximm tgt pay) (decide (p.ximm.length < 2)) { p with ximm := p.ximm ++ [pay] } ∧
        latches (.xidle tgt pay) p.xidle.isNone { p with xidle := some pay } ∧
        latches (.xmod tgt pay) p.xmod.isNone { p with xmod := some pay }) ∧
      (engineOf w = 6 → faults (.unassignedPattern w) .engineMisplaced true) ∧
      (engineOf w < 6 → opCount (engineOf w) ≤ fld w.toNat 20 6 → faults (.unassignedPattern w) .illegalOpcode false) ∧
      (engineOf w < 6 → fld w.toNat 20 6 < opCount (engineOf w) → faults (.unassignedPattern w) .reservedField false) ∧
      (engineOf w = 7 → let t := fld w.toNat 23 3
        (t = 6 → faults (.unassignedPattern w) .engineMisplaced true) ∧ (t = 7 → faults (.unassignedPattern w) .illegalOpcode true) ∧
        (t < 6 → (3 ≤ fld w.toNat 20 3 → faults (.unassignedPattern w) .illegalOpcode true) ∧
          (fld w.toNat 20 3 < 3 → faults (.unassignedPattern w) .reservedField true)))) ∧
    (s.who.slot = 5 →
      let p := s.engine.latch
      let latches := fun (i : Instr) (ok : Bool) (q : Pfx) =>
        (ok = true → exec i s = .next (s.updLink s.who.link fun l => { l with latch := q })) ∧ (ok = false → linkFails i .xprefix)
      (tgt ≠ 6 → each fun i => linkFails i .engineMisplaced) ∧
      (tgt = 6 → latches (.ximm tgt pay) (decide (p.ximm.length < 2)) { p with ximm := p.ximm ++ [pay] } ∧
        latches (.xidle tgt pay) p.xidle.isNone { p with xidle := some pay } ∧
        latches (.xmod tgt pay) p.xmod.isNone { p with xmod := some pay }) ∧
      (engineOf w < 6 → linkFails (.unassignedPattern w) .engineMisplaced) ∧
      (engineOf w = 6 → 14 ≤ fld w.toNat 20 6 → linkFails (.unassignedPattern w) .illegalOpcode) ∧
      (engineOf w = 6 → fld w.toNat 20 6 < 14 → linkFails (.unassignedPattern w) .reservedField) ∧
      (engineOf w = 7 → (fld w.toNat 23 3 ≠ 6 → linkFails (.unassignedPattern w) .engineMisplaced) ∧
        (fld w.toNat 23 3 = 6 → (3 ≤ fld w.toNat 20 3 → linkFails (.unassignedPattern w) .illegalOpcode) ∧
          (fld w.toNat 20 3 < 3 → linkFails (.unassignedPattern w) .reservedField))))

/-! ### Debug and trace (14) -/

/-- The test port and the trace block. Each TAP instruction selects its register and shifts out what it captures: IDCODE
0x1A640B3D, BYPASS 0, DBGADDR's 50 bits, DBGSTAT's fields with ERR cleared; a DBGDATA access that the open port's scope does not
cover captures zero, writes nothing and sets ERR, a covered read captures 8 aligned bytes and a covered write stores them (R439,
R440; the covered accesses stated are those to memory). Stops are armed unless R436 refuses them, take effect on STICK, and RESUME
sets their end (R436 to R438); a buffer's EN clears its counters (R429) and its queue's head is placed, wrapped or refused (R430); an
ISSUE block empties the window's samples and the last disarms it (R433), the counters queue their record (R434), and a monitor starts
its next period afresh (R435). The direction bit of DBGADDR, what a refused or poisoned access captures, the tick on which a stop of scope
0 or 1 ends, and that a write of DSTOP during a stop does nothing but RESUME, are the model's choice (log 22). -/
def Obligations.DebugAndTrace : Prop :=
  ∀ (s : State) (din : Word) (src : Writer) (n : Nat),
    let d := s.dbg
    let out := fun (t : State) (v : Word) => t.out = s.out ++ [.tdo v]
    let selects := fun (i : Instr) (ir : Byte) (v : Word) (g : Debug → Debug) =>
      exec i s = .next ((s.updDbg fun d => { g d with ir := ir, dr := v }).emit (.tdo v))
    let a := (d.dbgaddr.extractLsb' 0 48).toNat
    let covered := portBit a = some 3 ∧ a % 8 = 0 ∧ d.dbgaddr.getLsbD 49 = false ∧ d.open_ = true ∧ d.pscope.getLsbD 3 = true
    let refused := fun (i : Instr) => selects i 0x11 0 fun d => { d with err := true }
    selects .idcode 0x02 0x1A640B3D id ∧ selects .bypass 0xFF 0 id ∧
    selects (.dbgaddr din) 0x10 d.dbgaddr (fun d => { d with dbgaddr := (din.setWidth 50).setWidth 64 }) ∧
    (∃ v : Word, selects .dbgstat 0x12 v (fun d => { d with err := false }) ∧ v.getLsbD 0 = d.open_ ∧ v.extractLsb' 1 4 = d.pscope ∧
      v.getLsbD 5 = d.err ∧ v.getLsbD 6 = d.stopped ∧ v.extractLsb' 7 57 = 0) ∧
    (∃ t v, exec (.extest din) s = .next t ∧ out t v ∧ t.dbg = { d with ir := 0x00, dr := v, bsr := din } ∧ t.mem = s.mem) ∧
    (∃ t v, exec (.samplePreload din) s = .next t ∧ out t v ∧ t.dbg = { d with ir := 0x01, dr := v, bsr := din } ∧ t.mem = s.mem) ∧
    (d.dbgaddr.getLsbD 48 = false →
      (covered → s.poisoned a = false → selects .dbgdataRead 0x11 (BitVec.ofNat 64 (s.mem.nat a 8)) id) ∧
      (d.open_ = false ∨ a % 8 ≠ 0 → refused .dbgdataRead)) ∧
    (d.dbgaddr.getLsbD 48 = true →
      (covered → (∀ i, i < 8 → s.regionWiped (a + i) = false) → ∃ t, exec (.dbgdataWrite din) s = .next t ∧ out t 0 ∧ t.mem.nat a 8 = din.toNat ∧
        ∀ y, y < a ∨ a + 8 ≤ y → Memory.get t.mem y = Memory.get s.mem y) ∧
      (d.open_ = false ∨ a % 8 ≠ 0 ∨ d.dbgaddr.getLsbD 49 = true → refused (.dbgdataWrite din))) ∧
    ((s.mayDebug src 0 = false → exec (.arm src) s = .next s ∧ exec (.resume src) s = .next s) ∧
     (s.mayDebug src 2 = false → exec (.iswinArm src) s = .next s ∧ exec (.bufferEnable src n) s = .next s)) ∧
    (s.mayDebug src 0 = true → d.stopped = false →
      (d.scope = 0 → d.stick.toNat ≥ s.tick + 1024 → exec (.arm src) s = .next (s.updDbg fun d => { d with armed := true })) ∧
      (d.scope = 1 → s.fab.chips ≤ 1 → d.stick.toNat ≥ s.tick + 1024 →
        exec (.arm src) s = .next (s.updDbg fun d => { d with armed := true })) ∧
      (d.scope = 2 → s.fab.root = true → d.stick.toNat ≥ s.tick + max 1024 s.fab.horizon →
        ∃ t, exec (.arm src) s = .next t ∧ t.dbg = { d with armed := true } ∧ t.mem = s.mem ∧ t.cores = s.cores) ∧
      (d.scope = 2 → d.stick.toNat < s.tick + max 1024 s.fab.horizon → exec (.arm src) s = .next s) ∧
      (d.stick.toNat < s.tick + 1024 ∨ d.scope = 3 ∨ (d.scope = 1 ∧ 1 < s.fab.chips) ∨ (d.scope = 2 ∧ s.fab.root = false) →
        exec (.arm src) s = .next s)) ∧
    (d.armed = true → d.stick.toNat ≤ s.tick → ∃ t, exec .debugStop s = .next t ∧ t.dbg.stopped = true ∧ t.dbg.armed = false ∧
      t.dbg.ref = 0 ∧ t.mem = s.mem ∧ (d.scope = 0 → ∀ c, c < 64 → (t.core c).debugStop = ((s.core c).debugStop || d.cmask.getLsbD c)) ∧
      (d.scope ≠ 0 → t.cores = s.cores ∧ t.gated = true)) ∧
    (s.mayDebug src 0 = true → d.stopped = true → d.scope ≠ 2 →
      exec (.resume src) s = .next (s.updDbg fun d => { d with resumeAt := some (s.refTick + 1) })) ∧
    exec .dbgctlClose s = .next (s.updDbg fun d => { d with open_ := false, pscope := 0 }) ∧
    (s.mayDebug src 2 = true → n < 8 → (d.buf n).en = false → ∃ t, exec (.bufferEnable src n) s = .next t ∧
      t.dbg.buf n = { d.buf n with en := true, wptr := 0, wraps := 0, ovf := 0, lost := 0, stop := false }) ∧
    (s.mayDebug src 2 = true → exec (.iswinArm src) s = .next
      (s.updDbg fun d => { d with isArm := decide (s.tick ≤ d.isStart.toNat), isSamples := [], isDone := 0 })) ∧
    (∀ r rest, n < 8 → (d.buf n).queue = r :: rest →
      let b := { d.buf n with queue := rest }
      let L := 8 * r.length
      let leaves := fun (t : State) (x : Buf) => exec (.recordWrite n) s = .next t ∧ t.dbg.buf n = x
      let stands := ∀ y, b.base.toNat ≤ y → y < b.base.toNat + b.size → (y < sharedEnd ∨ (hbmBase ≤ y ∧ y < hbmEnd)) ∧ s.regionWiped y = false
      (b.size < L ∨ b.stop = true → ∃ t, leaves t { b with ovf := b.ovf + 1 } ∧ t.mem = s.mem) ∧
      (L ≤ b.size → b.stop = false → b.wptr + L ≤ b.size → ∃ t, leaves t { b with wptr := (b.wptr + L) % b.size } ∧
        (stands → t.mem.bytes (b.base.toNat + b.wptr) L = r.flatMap fun w => bytesLE 8 w.toNat)) ∧
      (L ≤ b.size → b.stop = false → b.size < b.wptr + L → b.mode = true →
        ∃ t, leaves t { b with stop := true, ovf := b.ovf + 1 } ∧ t.mem = s.mem) ∧
      (L ≤ b.size → b.stop = false → b.size < b.wptr + L → b.mode = false →
        ∃ t, leaves t { b with wraps := b.wraps + 1, wptr := L } ∧
          (stands → t.mem.bytes b.base.toNat L = r.flatMap fun w => bytesLE 8 w.toNat))) ∧
    (32 ≤ d.isSamples.length → ∃ t, exec .issueBlock s = .next t ∧ t.dbg.isSamples = [] ∧ t.dbg.isDone = d.isDone + 1 ∧
      t.dbg.isArm = decide (d.isDone + 1 < d.isBlocks)) ∧
    (d.cton = true → s.tick % 2 ^ d.ctper = 0 → exec .counterSample s = .next
      (s.putRecord (d.sel 7) 3 s.tick ((List.finRange 8).map d.counter))) ∧
    (∀ m, n < 4 → d.mons[n]? = some m → m.w0.getLsbD 12 = true → s.tick % 2 ^ (m.w0.extractLsb' 13 5).toNat = 0 →
      ∃ t, exec (.monitorPeriod n) s = .next t ∧ t.dbg.mons[n]? = some { w0 := m.w0, w1 := m.w1 })

/-! ### Cooling and power (13) -/

/-- The cooling controller. Zone commands act in the states that allow them and change nothing in others (R412); a sample on its
tick stores flow and temperature and counts the energy used, and a second sample in a row that meets a trap condition traps the zone
on that tick (R408, R416); the phases of priming and evacuation follow one another with their durations, the clock stop at T + 16 and
its release after verification (R417, R418); held multicast landings leave their list once their core has run their ticks (R417). A
FLOWREQ whose start is too soon gets status 3 and one whose units lie outside the zone's limits status 4 (Table 13.5, R415); the
reply of whatever decision is written whole, 16 bytes with its bit set, with FAIL or in D-mode a denial stops the operation, and on a
clock-stopped core the reply waits with its decision made (R39, R268); grants start and end on their ticks. That a sample's two bad
readings stand for R416's, that a verified zone waits for room in the sum of RESV (R409, log 23), and the tick on which a
request is decided (log 7), are the model's choice. -/
def Obligations.CoolingEvents : Prop :=
  ∀ (s : State) (z : Nat), z < 80 →
    let y := s.zone z
    let becomes := fun (i : Instr) (x : Zone) => exec i s = .next (s.updZone z fun _ => x)
    let r := s.refTick
    let beyond := fun (n : Nat) => y.phase = n ∧ y.until_ ≤ r
    (y.state = 0 → s.cool.qtot ≠ 0 →
      becomes (.prime z) { y with state := 1, vpos := 15, phase := 6, until_ := r + 25000000, bad := false }) ∧
    (y.state ≠ 0 ∨ s.cool.qtot = 0 → exec (.prime z) s = .next s) ∧
    (y.state = 2 → s.demand z = 0 → becomes (.close z) { y with state := 0, vpos := 0, bad := false }) ∧
    (y.state ≠ 2 ∨ s.demand z ≠ 0 → exec (.close z) s = .next s) ∧
    (y.state = 5 → ∃ t, exec (.clearFailed z) s = .next t ∧
      t.zone z = { y with state := 0, att := 0, phase := 0, halted := false } ∧
      ∀ c, coreOf z = some c → (t.core c).coolStop = false) ∧
    (y.state ≠ 5 → exec (.clearFailed z) s = .next s) ∧
    (y.state = 2 → ∃ t, exec (.forceEvacuation z) s = .next t ∧
      t.zone z = { y with state := 3, cause := false, ttick := s.tick, phase := 1, until_ := r + 16, bad := false }) ∧
    (y.state ≠ 2 → exec (.forceEvacuation z) s = .next s) ∧
    (beyond 6 → becomes (.primeVerify z) { y with phase := 7, until_ := r + 12500001 }) ∧
    (beyond 7 → s.roomFor z = false → exec (.primeVerify z) s = .next s) ∧
    (beyond 5 → s.roomFor z = false → exec (.verifyEnd z) s = .next s) ∧
    (beyond 7 → s.roomFor z = true → ∃ t, exec (.primeVerify z) s = .next t ∧ (t.zone z).state = 2 ∧ (t.zone z).att = 0 ∧ (t.zone z).phase = 0) ∧
    (beyond 1 → ∀ c, coreOf z = some c → ∃ t, exec (.zoneClockStop z) s = .next t ∧ (t.core c).coolStop = true ∧
      t.zone z = { y with halted := true, state := 4, att := 1, vpos := 0, phase := 2, until_ := r + 6250000 }) ∧
    (beyond 8 → becomes (.zoneClockStop z) { y with state := 4, att := y.att + 1, vpos := 0, phase := 2, until_ := r + 6250000 }) ∧
    (beyond 2 → becomes (.purgeEnd z) { y with phase := 3, until_ := r + 25000000 }) ∧
    (beyond 3 → becomes (.pulsesEnd z) { y with phase := 4, vpos := 15, until_ := r + 25000000 }) ∧
    (beyond 4 → becomes (.rePrimeEnd z) { y with phase := 5, until_ := r + 12500001 }) ∧
    (beyond 5 → s.roomFor z = true → ∃ t, exec (.verifyEnd z) s = .next t ∧ (t.zone z).state = 2 ∧ (t.zone z).att = 0 ∧ (t.zone z).halted = false ∧
      ∀ c, coreOf z = some c → (t.core c).coolStop = false) ∧
    (∀ c, c < 64 → (s.core c).stopped = false → ∃ t, exec (.heldLanding c) s = .next t ∧
      (t.core c).held = (s.core c).held.filter fun x => decide ((s.core c).cyc < x.1)) ∧
    (∀ zones watts uncore,
      (s.sampleDue = false → exec (.coolingSample zones watts uncore) s = .next s) ∧
      (s.sampleDue = true → ∃ t, exec (.coolingSample zones watts uncore) s = .next t ∧
        t.cool.ecnt = s.cool.ecnt + BitVec.ofNat 64 (10 * ((watts.take 64).foldl (· + ·) 0 + (uncore.take 4).foldl (· + ·) 0)) ∧
        ∀ x, zones[z]? = some x → (t.zone z).flowm = x.flow % 2 ^ 16 ∧ (t.zone z).tmax = x.temp % 2 ^ 16 ∧
          ((y.state = 1 ∨ y.state = 2) → y.bad = true → (x.dry = true ∨ (x.flow < 16 * y.minf ∧ y.vpos = 15)) →
            (t.zone z).state = 3 ∧ (t.zone z).ttick = s.tick ∧ (t.zone z).cause = !x.dry))) ∧
    (∀ c e o, c < 64 → o.slot < 5 → (s.core c).opAt e = some o → o.kind = .flowreq → s.flowArrives o = true → s.opReady c o = true → o.trap = none →
      let u := (o.x1.extractLsb' 0 8).toNat
      let w := s.zone (zoneOf c)
      let D := s.flowDecision c o
      (o.x2.toNat < o.resume + 2 ^ 20 → D = (3, 0, none)) ∧
      (o.resume + 2 ^ 20 ≤ o.x2.toNat → u < w.minf ∨ w.maxf < u → D = (4, 0, none)) ∧
      ((s.core c).stopped = true → ∃ t p, exec (.flowreqDecision c e) s = .next t ∧ t.mem = s.mem ∧
        t.cool.grants = s.cool.grants ++ D.2.2.toList ∧ (t.core c).opAt e = some p ∧ p.seen = [D.1, D.2.1] ∧ p.pst = .run) ∧
      ((s.core c).stopped = false → ∃ t, exec (.flowreqDecision c e) s = .next t ∧
        t.cool.grants = s.cool.grants ++ D.2.2.toList ∧
        t.mem = (s.writeLocal c (bytesToMasked o.addr.toNat (bytesLE 16 (D.1 + 256 * D.2.1 + 2 ^ 64)))).mem ∧
        (D.1 < 2 ∨ (o.x1.getLsbD 40 = false ∧ o.dmode = false) → (t.core c).opAt e = none) ∧
        (2 ≤ D.1 → o.x1.getLsbD 40 = true ∨ o.dmode = true → ∃ p, (t.core c).opAt e = some p ∧ p.pst = .stopped))) ∧
    (∀ c e o, c < 64 → (s.core c).opAt e = some o → o.kind = .flowreq → s.flowArrives o = true → s.opReady c o = false →
      let D := s.flowDecision c o
      ∃ t p, exec (.flowreqDecision c e) s = .next t ∧ t.mem = s.mem ∧ t.cool.grants = s.cool.grants ++ D.2.2.toList ∧
        (t.core c).opAt e = some p ∧ p.seen = [D.1, D.2.1] ∧ p.pst = o.pst) ∧
    (∀ id, ∃ t, exec (.grantStart id) s = .next t ∧ t.cool.grants = s.cool.grants.map fun g =>
      if g.id = id ∧ g.start ≤ s.tick then { g with active := true } else g) ∧
    (∀ id, ∃ t, exec (.grantEnd id) s = .next t ∧
      ∀ g, g ∈ t.cool.grants ↔ g ∈ s.cool.grants ∧ ¬(g.id = id ∧ ∃ e, g.stop = some e ∧ e ≤ s.tick))

/-! ### Launches (10, 11) -/

/-- The path of a launch. TAIL moves unless it would overrun the ring (R309); a poll that finds an entry takes it, visible on that
tick, and HEAD moves on (R309); a record of another KIND, or a graph-start record out of form or within a graph, ends with
RESERVED_FIELD, one whose first node or completion record its windows do not grant with WINDOW_VIOLATION, and no record's steps touch
a core or memory (R313); a held launch that is denied ends with the denial's code, one that is not admitted yet waits, and one that
is admitted, on this tick or before, and whose cores and windows are free, is loaded on that tick, to issue from V + 640 where it is
no pod launch (R316 to R318), unless a call site of its code has no place, on which it ends with RESERVED_FIELD (R468); a queue's head that belongs to no co-resident group is bound into an EMPTY slot with its registers at
reset (R19, R320); the best candidate, where it holds no frozen word, becomes ACTIVE on a core with no ACTIVE slot (R325); a task with
nothing outstanding retires, its slot EMPTY with its registers as they stand (R26, R45); and a finished launch that records no trace
leaves its completion record (R323). Pre-emption empties the slots of a core that has given way, and a restore brings a saved slot
back (R327, R358). The ticks on which the CP acts (log 17), the poll's phase (log 27), the order of the launches it serves and the
record of a graph's start (log 18), and the host's write as an event (log 25), are the model's choice. -/
def Obligations.LaunchPath : Prop :=
  ∀ (s : State) (n : Nat),
    let x := s.hwq n
    (∀ att (tail : BitVec 16),
      let used := (tail.toNat + 2 ^ 16 - hwqHead x) % 2 ^ 16
      ((s.ctx (hwqCtx x)).host = att → hwqDb x = false ∨ used ≤ 2 ^ rget x 48 4 → ∃ t, exec (.doorbell att n tail) s = .next t ∧
        hwqTail (t.hwq n) = tail.toNat ∧ hwqHead (t.hwq n) = hwqHead x ∧ ∀ m, m ≠ n → t.hwq m = s.hwq m) ∧
      ((s.ctx (hwqCtx x)).host ≠ att ∨ (hwqDb x = true ∧ 2 ^ rget x 48 4 < used) → exec (.doorbell att n tail) s = .next s)) ∧
    (let package := rget x 52 1 == 1
     s.hwqOpen n = true → hwqDb x = false → s.tick % 256 = 0 → s.cpRead (hwqCtx x) package (hwqEntry x) 1 ≠ 0 →
      (package = false ∨ s.cpPoison (hwqEntry x) 256 = false) → ∃ t j, exec (.hwqPoll n) s = .next t ∧ t.job n = some j ∧ j.stage = .taken ∧ j.vis = s.tick ∧ j.ctx = hwqCtx x ∧
        j.record = BitVec.ofNat 2048 (s.cpRead (hwqCtx x) package (hwqEntry x) 256) ∧
        hwqHead (t.hwq n) = (hwqHead x + 1) % 2 ^ 16) ∧
    (∀ j, s.job n = some j → j.n = n → j.stage = .taken → s.cpRuns = true →
      let kind := rfield j.record 0 8
      ∃ t k, exec (.launchRecord n) s = .next t ∧ t.job n = some k ∧ t.cores = s.cores ∧ t.mem = s.mem ∧ t.hostMem = s.hostMem ∧
        (kind ≠ 1 → kind ≠ 2 → k.stage = .ended ∧ k.status = FaultCode.reservedField.toNat ∧ k.etick = s.tick) ∧
        (kind = 1 → k.stage = .held ∨ (k.stage = .ended ∧ k.admitted = false)) ∧
        (kind = 2 → j.graph = none → graphRecordOk j.record = true → s.graphWindow j = none → k = { j with stage := .held }) ∧
        (kind = 2 → j.graph = none → graphRecordOk j.record = true → s.graphWindow j ≠ none →
          k.stage = .ended ∧ k.status = FaultCode.windowViolation.toNat) ∧
        (kind = 2 → j.graph ≠ none ∨ graphRecordOk j.record = false → k.stage = .ended ∧ k.status = FaultCode.reservedField.toNat)) ∧
    (∀ j, s.job n = some j → j.n = n → j.stage = .held → j.saved = false → s.cpRuns = true → rfield j.record 0 8 = 1 →
      (j.admitted = false →
        (∀ c, s.admission j = .denied c → ∃ t k, exec (.launchLoad n) s = .next t ∧ t.cores = s.cores ∧ t.mem = s.mem ∧
          t.job n = some k ∧ k.stage = .ended ∧ k.status = c.toNat) ∧
        (s.admission j = .hold → j.form.pod = false → exec (.launchLoad n) s = .next s)) ∧
      (∀ mask, (∀ c, c < 64 → mask.getLsbD c = (j.mask.getLsbD c && !s.coreAbsent c)) →
       let l : Job := if j.admitted then { j with cores := s.usable j }
         else { j with admitted := true, limit := s.envelope j, mask := mask, cores := s.usable j }
       j.admitted = true ∨ s.admission j = .granted → corOk l l.cores = true → l.cores ≠ [] → (∀ c, c < 64 → j.cmask.testBit c = true → s.coreHeld c = false) →
        j.form.pod = false → s.windowsFree l = true → l.cores.all (s.coreFree l) = true →
        (∀ form, j.form.patched = some form → ∃ t, exec (.launchLoad n) s = .next t ∧
          t.job n = some { l with
            form := { form with links := [] }, watts := [], stage := .running, ran := true, startTick := j.vis + 640 } ∧
          ∀ c, c ∈ l.cores → (t.core c).owner = some j.ctx) ∧
        (j.form.patched = none → ∃ t k, exec (.launchLoad n) s = .next t ∧ t.cores = s.cores ∧ t.mem = s.mem ∧ t.job n = some k ∧
          k.stage = .ended ∧ k.status = FaultCode.reservedField.toNat))) ∧
    (∀ c e rest j i, c < 64 → (s.core c).lq = e :: rest → s.job e.1 = some j → j.cor = 0 → s.emptySlot c = some i →
      ∃ t, exec (.taskBind c) s = .next t ∧ t.slot c i = boundSlot j ((s.ctx j.ctx).cfg.getLsbD 23) e) ∧
    (∀ c i, c < 64 → (s.core c).hslot.st = .empty → (s.core c).busyRetiring = false → (s.core c).stopped = false →
      (∀ m, m < 4 → (s.slot c m).st ≠ .active) → s.bestSlot c = some i → (s.slot c i).freeze = none → i < 4 →
      exec (.slotActivate c) s = .next (s.setSlot c i { s.slot c i with
        st := .active, ready := false, startAt := max (s.slot c i).startAt ((s.core c).cyc + 1) })) ∧
    (∀ c i, c < 64 → i < 4 →
      (s.retireReady c i = false → exec (.taskRetire c i) s = .next s) ∧
      (s.retireReady c i = true → ∃ t, exec (.taskRetire c i) s = .next t ∧ t.mem = s.mem ∧
        (let x := s.slot c i
         let y := t.slot c i
         y.st = .empty ∧ y.launch = none ∧ y.queues = Slot.init.queues ∧ y.landings = [] ∧ y.regs = x.regs ∧ y.pc = x.pc ∧
          y.rmode = x.rmode ∧ y.fstat = x.fstat ∧ y.bstat = x.bstat ∧ y.tdead = x.tdead ∧ y.hcause = x.hcause ∧ y.haddr = x.haddr) ∧
        (∀ d m, d ≠ c ∨ m ≠ i → t.slot d m = s.slot d m) ∧
        ∀ l j, (s.slot c i).launch = some l → s.job l = some j → j.n = l → j.stage = .running →
          t.job l = some (j.retire (s.slot c i) s.tick))) ∧
    (∀ j, s.job n = some j → j.n = n → j.graph = none → s.cpRuns = true → s.launchDone j = true → j.trace = 0 → j.form.pod = false →
      let comp := BitVec.ofNat 64 (rfield j.record 960 64)
      comp.getLsbD 63 = true → (∀ i, i < 32 → s.regionWiped ((comp.extractLsb' 0 48).toNat + i) = false) →
        ∃ t, exec (.launchComplete n) s = .next t ∧ t.job n = none ∧
        t.mem.bytes (comp.extractLsb' 0 48).toNat 32 = { j with status := 0 }.recordBytes ∧ rget (t.hwq n) 128 8 = 0) ∧
    (∀ j, s.job n = some j → j.n = n →
      (j.preq = [] ∨ j.stage ≠ .running ∨ j.saved = true → exec (.frameWrite n) s = .next s) ∧
      (j.stage = .running → j.saved = false → j.preq ≠ [] →
        let s1 := j.preq.foldl (fun s c => (List.range 4).foldl (fun s i => s.takeRequest n c i) s) s
        ∃ t, exec (.frameWrite n) s = .next t ∧ ∀ c, c < 64 → c ∈ j.preq → s1.givenWay n c = true →
          (∀ i, i < 4 → (t.slot c i).launch ≠ some n) ∧ ∃ k, t.job n = some k ∧ c ∈ k.gone ∧ c ∉ k.preq)) ∧
    (∀ j, s.job n = some j → j.n = n →
      let saved := (s.ctx j.ctx).saved.filter fun y => y.launch == n
      (j.gone = [] ∨ j.rreq = false → exec (.restore n) s = .next s) ∧
      (j.gone ≠ [] → j.rreq = true → saved.all (s.coreFreeFor j) = true →
        (s.frameGood j saved = false → exec (.restore n) s = .next
          ((s.updJob n fun j => { j with rreq := false }).emit (.report 0x20 j.ctx))) ∧
        (∀ y i z, s.frameGood j saved = true → saved = [y] → y.slots = [(i, z)] → i < 4 → y.core < 64 →
          ∃ t, exec (.restore n) s = .next t ∧ (t.slot y.core i).regs = z.regs ∧ (t.slot y.core i).pc = z.pc ∧
            (t.slot y.core i).landings = z.landings ∧ (t.slot y.core i).st = z.st ∧
            ∃ k, t.job n = some k ∧ k.gone = [] ∧ k.back = [])))

/-- Graph nodes. A graph starts at CODE, its first node due on its entry's visibility tick (R330). A node whose tick has come and
whose checks pass acts: LAUNCH takes the record at ARG, visible on the node's start tick; COPY moves its bytes; COND chooses by PRED;
LOOP counts STATE; WAIT goes on once PRED reaches COUNT, as the node was read on its start tick, and ends with WAIT_DEADLINE past its
deadline; SIGNAL stores COUNT and raises the queue's vector where ARG asks for it; END ends the graph. The next node starts 96 ticks
after the node completes, and where a copy's last byte is visible after a latency, 96 ticks after that; a node that fails its checks
ends the graph with its code (R331, R332, R460). That a copy moves in pieces, one a tick, that poison ends a graph with POISON, that a
node's write waits at a bank which a flit or a clock stop holds (log 18), and that NEXT and ALT are checked where they are
reached (log 27), are the model's choice. -/
def Obligations.GraphNodes : Prop :=
  ∀ (s : State) (n : Nat) (j : Job), s.job n = some j → j.n = n →
    (j.stage = .held → j.graph = none → rfield j.record 0 8 = 2 → s.cpRuns = true →
      ∃ t k g, exec (.graphStart n) s = .next t ∧ t.job n = some k ∧ k.stage = .running ∧ k.graph = some g ∧
        g.node = rfield j.record 64 64 ∧ g.doing = .starting j.vis ∧ g.comp = BitVec.ofNat 64 (rfield j.record 960 64)) ∧
    (∀ g, j.graph = some g →
      let at_ := fun (t : State) (node : Nat) => t.job n = some { j with graph := some { g with node := node, doing := .starting (s.tick + 96) } }
      let next := s.nodeNext g
      let f := fun (lo : Nat) => s.mem.nat (g.node + lo) 8
      let k := s.nodeKind g
      let i := if k = 1 then Instr.nodeLaunch n else if k = 2 then .nodeCopy n else if k = 3 then .nodeCond n
        else if k = 4 then .nodeLoop n else if k = 5 then .nodeWait n else if k = 6 then .nodeSignal n else .nodeEnd n
      let stores := fun (a : Nat) => s.unitWaits a = false ∧ ∀ y, y < 8 → s.regionWiped (a + y) = false
      let copies := fun (i : Instr) (x : NodeCopy) =>
        let m := min 4096 (x.len - x.pos)
        (s.cpPoison (x.src + x.pos) m = true → ∃ t l, exec i s = .next t ∧ t.mem = s.mem ∧ t.job n = some l ∧ l.stage = .ended ∧
          l.status = FaultCode.poison.toNat) ∧
        (s.cpPoison (x.src + x.pos) m = false → (∀ y, y ≤ m → s.unitWaits (x.dst + x.pos + y) = false) →
          (∀ y, y < m → s.regionWiped (x.dst + x.pos + y) = false) →
          ∃ t, exec i s = .next t ∧ t.mem.bytes (x.dst + x.pos) m = s.mem.bytes (x.src + x.pos) m ∧
            (∀ y, y < x.dst + x.pos ∨ x.dst + x.pos + m ≤ y → Memory.get t.mem y = Memory.get s.mem y) ∧
            t.job n = some { j with graph := some (
              if x.pos + m < x.len then { g with doing := .copying { x with pos := x.pos + m } }
              else { g with node := x.next, doing := .starting (max s.tick x.until_ + 96) }) })
      (∀ x, g.doing = .copying x → s.cpRuns = true → j.stage = .running → j.saved = false → copies (.nodeCopy n) x) ∧
      (∀ c, s.nodeStarts j g = true → s.nodeFault j.ctx g = some c → 1 ≤ k → k ≤ 7 →
        ∃ t l, exec i s = .next t ∧ t.mem = s.mem ∧ t.job n = some l ∧ l.stage = .ended ∧ l.status = c.toNat) ∧
      (s.nodeStarts j g = true → s.nodeFault j.ctx g = none →
        (k = 1 → ∃ t, exec (.nodeLaunch n) s = .next t ∧ t.mem = s.mem ∧
          let r := BitVec.ofNat 2048 (s.mem.nat (s.nodeArg g) 256)
          t.job n = some { j with record := r, prio := rfield r 24 3, vis := s.tick, stage := .taken, graph := some { g with doing := .launching next } }) ∧
        (k = 2 → let d := s.nodeArg g
          let src := s.mem.nat d 8
          let dst := s.mem.nat (d + 8) 8
          let len := s.mem.nat (d + 16) 8
          ∃ dl, copies (.nodeCopy n) { src := src, dst := dst, len := len, next := next, until_ := s.tick + dl }) ∧
        (k = 3 → ∃ t, exec (.nodeCond n) s = .next t ∧ t.mem = s.mem ∧
          at_ t (if s.mem.nat (s.nodePred g) 8 ≠ 0 then next else s.nodeAlt g)) ∧
        (k = 4 → stores (g.node + 40) → ∃ t, exec (.nodeLoop n) s = .next t ∧
          (f 40 < s.nodeCount g → t.mem.nat (g.node + 40) 8 = f 40 + 1 ∧ at_ t next) ∧
          (s.nodeCount g ≤ f 40 → t.mem.nat (g.node + 40) 8 = 0 ∧ at_ t (s.nodeAlt g))) ∧
        (k = 4 → s.unitWaits (g.node + 40) = true → exec (.nodeLoop n) s = .next s) ∧
        (k = 6 → s.unitWaits (s.nodePred g) = true → exec (.nodeSignal n) s = .next s) ∧
        (k = 5 → ∃ t, exec (.nodeWait n) s = .next t ∧ t.mem = s.mem ∧
          (s.nodeCount g ≤ s.mem.nat (s.nodePred g) 8 → at_ t next) ∧
          (s.mem.nat (s.nodePred g) 8 < s.nodeCount g →
            t.job n = some { j with graph := some { g with
              doing := .waiting s.tick (s.nodePred g) (s.nodeCount g) (s.nodeArg g) next } })) ∧
        (k = 6 → stores (s.nodePred g) → ∃ t, exec (.nodeSignal n) s = .next t ∧ t.mem.nat (s.nodePred g) 8 = s.nodeCount g ∧ at_ t next ∧
          (s.nodeArg g % 2 = 0 → t.out = s.out) ∧
          (s.nodeArg g % 2 = 1 → t.out = s.out ++ [.msix (s.ctx (hwqCtx (s.hwq n))).host (rget (s.hwq n) 112 11)])) ∧
        (k = 7 → ∃ t l, exec (.nodeEnd n) s = .next t ∧ t.mem = s.mem ∧ t.job n = some l ∧ l.stage = .ended ∧ l.status = 0 ∧
          l.etick = s.tick)) ∧
      (∀ start pred count arg nx, g.doing = .waiting start pred count arg nx → s.cpRuns = true → j.stage = .running → j.saved = false →
        (start + arg < s.tick → ∃ t l, exec (.nodeWait n) s = .next t ∧ t.mem = s.mem ∧ t.job n = some l ∧ l.stage = .ended ∧
          l.status = FaultCode.waitDeadline.toNat) ∧
        (s.tick ≤ start + arg → s.cpPoison pred 8 = true → ∃ t l, exec (.nodeWait n) s = .next t ∧ t.job n = some l ∧
          l.stage = .ended ∧ l.status = FaultCode.poison.toNat) ∧
        (s.tick ≤ start + arg → s.cpPoison pred 8 = false → count ≤ s.mem.nat pred 8 → ∃ t, exec (.nodeWait n) s = .next t ∧ at_ t nx) ∧
        (s.tick ≤ start + arg → s.cpPoison pred 8 = false → s.mem.nat pred 8 < count →
          ∃ t, exec (.nodeWait n) s = .next t ∧ t.job n = some j ∧ t.mem = s.mem) ∧
        (start + arg ≤ s.tick → ∃ t l, exec (.waitNodeExpiry n) s = .next t ∧ t.job n = some l ∧ l.stage = .ended ∧
          l.status = FaultCode.waitDeadline.toNat) ∧
        (s.tick < start + arg → exec (.waitNodeExpiry n) s = .next s)))

/-! ### Hosts, management commands and reliability (15) -/

/-- Management commands. A command is the code in byte 0 of the entry at HEAD of its attachment's enabled queue, and without one nothing
happens. Every command ends with its STATUS at its own attachment: PRIVILEGE where it may not come from there, RESERVED_FIELD where
what it asks for is not allowed, 0 where it has its effect (R447). WRITE_CTXCFG sets a context or a window and frees a
lease; ACQUIRE_LEASE takes the lowest free register and RELEASE_LEASE frees a lease (R303, R304); command 4 asks for a pre-emption
or a restore on the core it names, or on every core of the launch (R326); READ_VIOLATION_LOG answers the entry (R360);
ADVANCE_LIFECYCLE leaves the new state of the fuses (R448); the TDISP commands move a context through its states, and a
violation of a locked one enters ERROR and aborts its launches (R447). That a command's values come with its event and that its answer
stands from byte 2 on (log 24), and what a restore asked for during a pre-emption does (log 17), are the model's choice. -/
def Obligations.ManagementCommands : Prop :=
  ∀ (s : State) (att n k : Nat) (v : BitVec 256) (w : BitVec 128), att < 4 →
    let ends := fun (i : Instr) (code : Nat) (t : State) (status : Nat) =>
      s.commanded att code = true → exec i s = .next (t.mgmtDone att code status)
    let idle := fun (i : Instr) (code : Nat) => s.commanded att code = false → exec i s = .next s
    let refused := fun (i : Instr) (code : Nat) => ends i code s FaultCode.reservedField.toNat
    let barred := fun (i : Instr) (code : Nat) => ends i code s FaultCode.privilege.toNat
    let manager := s.managerAtt
    let busy := s.ctxRuns k || (s.ctx k).locked
    let l := s.lease n
    (∀ (t : State) (code status : Nat), let x := t.cp.mgmt[att]?.getD 0
      hwqEn x = true → status < 2 ^ 8 → let y := (t.mgmtDone att code status).cp.mgmt[att]?.getD 0
        rget y 128 8 = status ∧ hwqHead y = (hwqHead x + 1) % 2 ^ 16) ∧
    (∀ code, s.commanded att code = true → let x := s.cp.mgmt[att]?.getD 0
      hwqEn x = true ∧ hwqHead x ≠ hwqTail x ∧
        (rget x 52 1 = 1 → s.mem.nat (rget x 0 48 + 64 * (hwqHead x % 2 ^ rget x 48 4)) 1 = code % 256)) ∧
    (∀ target token what ctx, idle (.writeCtxcfg att target v) 1 ∧ (∀ base limit, idle (.acquireLease att base limit) 2) ∧
      idle (.releaseLease att n) 3 ∧ idle (.preEmptOrRestore att n what) 4 ∧ idle (.readViolationLog att k n) 5 ∧
      idle (.advanceLifecycle att token) 6 ∧ idle (.tdispLock att ctx) 7 ∧ idle (.tdispStart att ctx) 7 ∧ idle (.tdispStop att ctx) 7) ∧
    (∀ target, att ≠ manager → barred (.writeCtxcfg att target v) 1) ∧
    (att = manager → k < 64 →
      (busy = true → refused (.writeCtxcfg att (.ctxcfg k) v) 1 ∧ ∀ m, refused (.writeCtxcfg att (.win k m) v) 1) ∧
      (busy = false → (v.getLsbD 23 = true → ∀ i, i < 64 → i ≠ k → (s.ctx i).cfg.getLsbD 23 = false) →
        (s.ctx k).frameOk (rget v 192 48) = true →
        ∃ t, ends (.writeCtxcfg att (.ctxcfg k) v) 1 t 0 ∧ (t.ctx k).tdisp = (s.ctx k).tdisp ∧
          (t.ctx k).cfg &&& ctxcfgMask = v &&& ctxcfgMask ∧ (∀ i, i ≠ k → t.ctx i = s.ctx i) ∧ t.mem = s.mem) ∧
      (busy = false → (s.ctx k).frameOk (rget v 192 48) = false → refused (.writeCtxcfg att (.ctxcfg k) v) 1) ∧
      (∀ m, m < 16 → busy = false → windowRecordOk w = true → ∃ t, ends (.writeCtxcfg att (.win k m) (w.setWidth 256)) 1 t 0 ∧
        (t.ctx k).win[m]? = some w ∧ ∀ i, i ≠ k → t.ctx i = s.ctx i) ∧
      (∀ m, windowRecordOk w = false → refused (.writeCtxcfg att (.win k m) (w.setWidth 256)) 1) ∧
      (n < 64 → leaseState w = 0 → ∃ t, ends (.writeCtxcfg att (.lease n) (w.setWidth 256)) 1 t 0 ∧ leaseState (t.lease n) = 0 ∧
        ∀ m, m ≠ n → t.lease m = s.lease m)) ∧
    (∀ base limit : Word, base.toNat < 2 ^ 48 → limit.toNat < 2 ^ 48 →
      (n < 64 → leaseState l = 0 → (∀ m, m < n → leaseState (s.lease m) ≠ 0) →
        (s.leaseOk n att base.toNat limit.toNat = true → ∃ t, ends (.acquireLease att base limit) 2 t 0 ∧
          leaseState (t.lease n) = 1 ∧ leaseHost (t.lease n) = att ∧ leaseBase (t.lease n) = base.toNat ∧
          leaseLimit (t.lease n) = limit.toNat ∧ ∀ m, m ≠ n → t.lease m = s.lease m) ∧
        (s.leaseOk n att base.toNat limit.toNat = false → refused (.acquireLease att base limit) 2)) ∧
      ((∀ m, m < 64 → leaseState (s.lease m) ≠ 0) → refused (.acquireLease att base limit) 2)) ∧
    (leaseHost l ≠ att → barred (.releaseLease att n) 3) ∧
    (n < 64 → leaseHost l = att → (leaseState l ≠ 1 → refused (.releaseLease att n) 3) ∧
      (leaseState l = 1 → ∃ t, ends (.releaseLease att n) 3 t 0 ∧ leaseState (t.lease n) = 0 ∧ ∀ m, m ≠ n → t.lease m = s.lease m)) ∧
    (∀ what : Preemption, (s.job n = none → refused (.preEmptOrRestore att n what) 4) ∧
      ∀ j, s.job n = some j → j.n = n →
        let i := Instr.preEmptOrRestore att n what
        let may := att = manager ∨ ((s.ctx j.ctx).host = att ∧ j.dmode = false)
        let here := fun (c : Nat) => what.core == none || what.core == some c
        let cores := j.cores.filter fun c => j.holds c && here c
        (¬may → barred i 4) ∧
        (may → what.back = false → cores ≠ [] → (s.ctx j.ctx).cframe ≠ 0 →
          ends i 4 (s.updJob n fun j => { j with preq := j.preq.filter (!cores.contains ·) ++ cores, rreq := false }) 0) ∧
        (may → what.back = false → cores = [] ∨ (s.ctx j.ctx).cframe = 0 → refused i 4) ∧
        (may → what.back = true → (∃ c, c ∈ j.gone ++ j.preq ∧ here c = true) →
          ends i 4 (s.updJob n fun j => { j with preq := j.preq.filter (!here ·), rreq := true }) 0) ∧
        (may → what.back = true → (∀ c, c ∈ j.gone ++ j.preq → here c = false) → refused i 4)) ∧
    (att ≠ manager → barred (.readViolationLog att k n) 5) ∧
    (att = manager → k < 64 → n < 16 → s.commanded att 5 = true → exec (.readViolationLog att k n) s =
      .next (s.mgmtDone att 5 0 (bytesLE 32 (((s.ctx k).vlog[n]?).getD 0).toNat))) ∧
    (att = manager → 64 ≤ k ∨ 16 ≤ n → refused (.readViolationLog att k n) 5) ∧
    (∀ token, (att ≠ manager → barred (.advanceLifecycle att token) 6) ∧
      (att = manager →
        (∀ x y, s.sec.advance token = (.ok x, y) → ends (.advanceLifecycle att token) 6 { s with sec := x } 0) ∧
        (∀ m y, s.sec.advance token = (.error m, y) → s.commanded att 6 = true → exec (.advanceLifecycle att token) s =
          .next ({ s with sec := y }.mgmtDone att 6 FaultCode.reservedField.toNat (if m = 0 then [] else bytesLE 1 m))))) ∧
    (k < 64 → let x := s.ctx k
      let into := fun (i : Instr) (st : Nat) => ∃ t, ends i 7 t 0 ∧ (t.ctx k).tdisp = st ∧ ∀ m, m ≠ k → t.ctx m = s.ctx m
      (x.host ≠ att → barred (.tdispLock att k) 7 ∧ barred (.tdispStart att k) 7 ∧ barred (.tdispStop att k) 7) ∧
      (x.host = att → (x.tdisp = 0 → into (.tdispLock att k) 1) ∧ (x.tdisp ≠ 0 → refused (.tdispLock att k) 7) ∧
        (x.tdisp = 1 → into (.tdispStart att k) 2) ∧ (x.tdisp ≠ 1 → refused (.tdispStart att k) 7) ∧ into (.tdispStop att k) 0) ∧
      (x.locked = false → exec (.tdispError k) s = .next s) ∧
      (x.locked = true → ∃ t, exec (.tdispError k) s = .next t ∧ (t.ctx k).tdisp = 3 ∧ t.mem = s.mem ∧
        ∀ j, s.job j.n = some j → j.ctx = k → j.stage ≠ .ended →
          ∃ y, t.job j.n = some y ∧ y.stage = .ended ∧ y.status = FaultCode.windowViolation.toNat)) ∧
    (∀ code, refused (.otherCommandCode att code) code)

/-- What a host and the environment do to the package. A write at level M of PLIM sets it within its range, one of ZCMD is the command
it names, one of LFLAGS clears the flags written as ones, and ZCMD reads zero (R7, R424, R412); a host's write to a queue of another
attachment's context changes nothing, and one to its PRI control or its page-request allocation sets that (R444, R349); one that the port's scope does not cover
changes nothing (R440). A CXL.mem read returns the line
its windows grant, or poison, and a write changes the masked bytes and no other (R302, R445). An attachment that goes takes its
leases to poison-pending and, on a reset, its translations (R305). A soft error aborts every launch with state on the core and the
array is zeroed (R454); an uncorrectable line is marked, and retired where it had an error before and was rewritten, and so is one a patrol
scrub finds (R455, R456); an error in a trace queue loses a record (R454). A lockstep mismatch halts
the CP, a second within 2^32 ticks is fatal, and a restart whose image has MEAS0's digest does what the halted CP owed and goes on
with every entry (R457 to R459). The addresses of a host's registers (log 11), the log that an access of a host's enters and the events
as records (logs 24 and 25) are the model's choice. -/
def Obligations.HostAndErrors : Prop :=
  ∀ (s : State) (att addr n : Nat) (v : Word), att < 4 →
    let line := addr / 64 * 64
    let same := fun (i : Instr) => exec i s = .next s
    (addr % 8 ≠ 0 → same (.registerWrite .mlevel addr v) ∧ same (.registerWrite (.host att) addr v) ∧
      same (.registerWrite .port addr v)) ∧
    (let p := (v.extractLsb' 0 11).toNat
     (1200 ≤ p ∧ p ≤ 1800 → exec (.registerWrite .mlevel 0xF000110000 v) s = .next { s with cool := { s.cool with plim := p } }) ∧
     (p < 1200 ∨ 1800 < p → same (.registerWrite .mlevel 0xF000110000 v))) ∧
    (let z := (v.extractLsb' 0 7).toNat
     let cmd := (v.extractLsb' 8 3).toNat
     let runs := fun (i : Instr) => exec (.registerWrite .mlevel 0xF000101008 v) s = exec i s
     (cmd = 1 → runs (.prime z)) ∧ (cmd = 2 → runs (.close z)) ∧ (cmd = 3 → runs (.clearFailed z)) ∧
     (cmd = 4 → runs (.forceEvacuation z)) ∧ (cmd = 0 ∨ 5 ≤ cmd → same (.registerWrite .mlevel 0xF000101008 v)) ∧
     s.readRegister .mlevel 0xF000101008 = 0) ∧
    (n < 12 → exec (.registerWrite .mlevel (0xF000020018 + n * 0x10000) v) s =
      .next (s.updLink n fun l => { l with lflags := l.lflags &&& ~~~(v.extractLsb' 0 5) })) ∧
    (addr < 0x10000 → addr % 8 = 0 → (s.ctx (hwqCtx (s.hwq (addr / 32)))).host ≠ att → same (.registerWrite (.host att) addr v)) ∧
    (∃ t, exec (.registerWrite (.host att) 0x20000 v) s = .next t ∧ t.cp.priOff[att]? = some (!v.getLsbD 0)) ∧
    (∃ t, exec (.registerWrite (.host att) 0x20008 v) s = .next t ∧ t.cp.priAlloc[att]? = some (v.toNat % 2 ^ 32) ∧ t.mem = s.mem) ∧
    (∃ t, exec (.registerWrite (.host att) 0x20010 v) s = .next t ∧ t.cp.atsOff[att]? = some (!v.getLsbD 0) ∧ t.mem = s.mem) ∧
    (s.mayDebug .port 3 = false → (portBit addr).getD 3 = 3 → same (.registerWrite .port addr v)) ∧
    (inHdm line = true → s.attGrants att line 1 = true → exec (.cxlMemRead att addr) s =
      .next (s.emit (.cxl att (if s.linePoison att line then none else some (s.mem.bytes line 64))))) ∧
    (inHdm line = false ∨ s.attGrants att line 1 = false →
      ∃ t, exec (.cxlMemRead att addr) s = .next t ∧ t.mem = s.mem ∧ t.out = s.out ++ [.cxl att none]) ∧
    (∀ data mask,
      (inHdm line = true → s.attGrants att line 2 = true → s.regionWiped line = false →
        ∃ t, exec (.cxlMemWrite att addr data mask) s = .next t ∧ t.hostMem = s.hostMem ∧
          (∀ i, i < 64 → Memory.get t.mem (line + i) =
            if mask.getLsbD i then (data[i]?).getD 0 else Memory.get s.mem (line + i)) ∧
          ∀ a, a < line ∨ line + 64 ≤ a → Memory.get t.mem a = Memory.get s.mem a) ∧
      (inHdm line = false ∨ s.attGrants att line 2 = false →
        ∃ t, exec (.cxlMemWrite att addr data mask) s = .next t ∧ t.mem = s.mem)) ∧
    (∀ i, i = Instr.hostLinkDown att ∨ i = .functionLevelReset att → ∃ t, exec i s = .next t ∧ t.mem = s.mem ∧
      (∀ m, leaseHost (s.lease m) = att → leaseState (s.lease m) = 1 → leaseState (t.lease m) = 2 ∧
        leaseBase (t.lease m) = leaseBase (s.lease m) ∧ leaseLimit (t.lease m) = leaseLimit (s.lease m)) ∧
      (∀ m, leaseHost (s.lease m) ≠ att ∨ leaseState (s.lease m) ≠ 1 → t.lease m = s.lease m) ∧
      (i = .functionLevelReset att → t.cp.priOff[att]? = some true ∧ t.cp.atsOff[att]? = some true ∧
        (∀ g, (att, g) ∉ t.cp.groups) ∧
        (∀ c e o, c < 64 → (s.core c).opAt e = some o → (s.ctx o.ctx).host = att → o.pst = .parked →
          ∃ p, (t.core c).opAt e = some p ∧ p.pst = .stopped) ∧
        ∀ c, c < 64 → ∀ e, e ∈ (t.core c).tlb → e.host.toNat ≠ att)) ∧
    (∀ c x, c < 64 → ∃ t, exec (.softError c x) s = .next t ∧
      (∀ j, s.job j.n = some j → j.holds c = true → j.stage ≠ .ended →
        ∃ y, t.job j.n = some y ∧ y.stage = .ended ∧ y.status = FaultCode.softError.toNat) ∧
      (x = .scratchpad → s.cpRuns = true → ∀ a, Memory.get t.mem a =
        if localAddr c 0 ≤ a ∧ a < localAddr c scratchSize then 0 else Memory.get s.mem a)) ∧
    (inHdm line = false → same (.uncorrectableError addr .memory)) ∧
    (inHdm line = true → ∃ t, exec (.uncorrectableError addr .memory) s = .next t ∧ line ∈ t.poison ∧ t.mem = s.mem ∧
      line ∈ t.cp.erred ∧ (line ∈ s.cp.erred → line ∉ s.poison → line ∈ t.cp.retired) ∧
      (line ∉ s.cp.erred → t.cp.retired = s.cp.retired)) ∧
    (∀ b, addr < 8 → s.dbg.buf addr = b → ∃ t, exec (.uncorrectableError addr .traceQueue) s = .next t ∧ t.mem = s.mem ∧
      (b.queue ≠ [] → t.dbg.buf addr = { b with queue := b.queue.tail, lost := b.lost + 1 }) ∧ (b.queue = [] → t = s)) ∧
    (∀ found, let pending := (s.sync.any fun u => u.addr / 64 * 64 == line) || s.linkHolds line
      (found = .uncorrectable → pending = false →
        exec (.patrolScrub addr found) s = exec (.uncorrectableError addr .memory) s) ∧
      (found ≠ .uncorrectable ∨ pending = true → same (.patrolScrub addr found))) ∧
    (s.cp.halted = true → same .lockstepMismatch) ∧
    (s.cp.halted = false →
      (∀ p, s.cp.mmPrev = some p → s.tick ≤ p + 2 ^ 32 →
        ∃ t, exec .lockstepMismatch s = .next t ∧ t.cp.fatal = true ∧ t.cp.halted = true) ∧
      ((∀ p, s.cp.mmPrev = some p → p + 2 ^ 32 < s.tick) →
        ∃ t, exec .lockstepMismatch s = .next t ∧ t.cp = { s.cp with halted := true, mmTick := some s.tick } ∧ t.cores = s.cores ∧
          t.mem = s.mem)) ∧
    (s.cp.halted = false ∨ s.cp.fatal = true → same .cpRestart) ∧
    (s.cp.halted = true → s.cp.fatal = false → (∀ m, s.cp.mmTick = some m → m < s.tick) →
      let good := Config.sha384 (digestBytes 0 ++ digestBytes (Config.firmwareReread s.free)) = s.sec.measure 0
      (good → ∃ u : State, exec .cpRestart s = .next u.payOwed ∧ u.mem = s.mem ∧ u.cores = s.cores ∧ u.cp = { s.cp with
          halted := false, mmPrev := s.cp.mmTick, jobs := s.cp.jobs.map fun j => j.restarted s.tick } ∧
        (s.cp.owedLog = [] → s.cp.owedZero = [] → u.payOwed = u)) ∧
      (¬good → ∃ t, exec .cpRestart s = .next t ∧ t.mem = s.mem ∧ t.cp.fatal = true ∧ t.cp.halted = true))

/-! ### The fabric (12) -/

/-- The events of the fabric. Training sets D to the larger of the two ends' or fails, and changes no engine whose program runs
(R372). A good flit is one no beat of which fails; it acts by its KIND. A time-base flit keeps the stamp, all it does on an untrained
link; on the parent port of a chip that is not the root it sets the phase error, above half a tick raising TIME, or, as the first since
training, the chip's tick (R371, R373). With either, and with a guard flit, the clocks' wander moves the buffer's fill, BUFFER at its
limits, on a parent port the phase, TIME above half a tick, and a guard leads both back (R374, R376). A DATA or SIGNAL flit lands in
the LRECV or LSIG word that takes it, 14 ticks later, or with no word raises UNCLAIMED, and on a stopped engine or after a NOTICE does
nothing (R388, R389). A NOTICE is taken once (R402); a management message acts, and from another port than the parent's only a ready
notice does (R380). A flit with two failing beats raises FLIT (R368). A gap above 2^20 ticks raises GUARD and an idle engine sends its
own guards (R375); a program starts at O − 64 with its registers zero and is ended by its deadline (R381, R382); a link that loses its
lock raises SIGNAL, and is down (R398). Every fault shows the word that executes, or the next to decode. Two failing
beats of one flit on one of the four die-to-die links abort the pod (R370). On tick S the chips stop and select the checkpoint, the
detour set and the origin, or abort; on tick R the checkpoint's node starts (R402 to R404). The tick of automatic guards, the forms in
which training and wander reach the chip, LINK of a fault without one, how notices after a stop are dropped (log 19), the detour's
parent and the place of the node that resumes (log 21), are the model's choice. -/
def Obligations.FabricEvents : Prop :=
  ∀ (s : State) (port : Nat), port < 12 →
    let n := linkOf port
    let l := s.fab.link n
    let r := s.tick
    let same := fun (i : Instr) => exec i s = .next s
    let becomes := fun (i : Instr) (l' : Link) => exec i s = .next (s.setLink n l')
    let fails := fun (i : Instr) (code : FaultCode) (cause : Nat) => exec i s = .next (s.linkFault n code cause (l.atWord r))
    let failsAs := fun (i : Instr) (l' : Link) (cause : Nat) =>
      exec i s = .next ((s.setLink n l').linkFault n .linkFailure cause (l.atWord r))
    let below := s.fab.root = false ∧ s.fab.parent = port
    (∀ x far, let D := max ((rhoOf x + 63) / 64 + 2) far
      (l.run = true → same (.linkTraining port x far)) ∧
      (l.run = false → 3 ≤ D → D ≤ 4095 → becomes (.linkTraining port x far)
        { l with ldly := D, up := true, deg := false, degRails := [], fails := [], fill := 8, phase := 0, guard := r
                 rho := rhoOf x, locked := false }) ∧
      (l.run = false → D < 3 ∨ 4095 < D → becomes (.linkTraining port x far) { l with up := false, ldly := 0 })) ∧
    (∀ f i w bs, (w = (0 : Int) ∧ (i = Instr.dataFlit port f ∨ i = .signalFlit port f ∨ i = .idleFlit port f ∨ i = .noticeFlit port f)) ∨
        i = .timebaseFlit port f.beats f.parity w ∨ i = .guardFlit port { flit := f, wander := w } → flitFailing f = [] → flitRebuilt f = some bs →
      let kind := flitKind bs
      let data := flitPayload bs
      (kind = 0 ∨ kind = 6 → same i) ∧
      (kind = 1 ∨ kind = 2 → (l.frozen = true ∨ s.quiet = true → same i) ∧
        (l.frozen = false → s.quiet = false → (l.timed.filter (·.takes r) = [] → fails i .linkFailure 11) ∧
          ∀ y rest, l.timed.filter (·.takes r) = y :: rest → (flitSeq bs + 11 + l.ldly) % 2 ^ 28 = r % 2 ^ 28 →
            let lands := fun (k : LandKind) => ∃ t, exec i s = .next t ∧ t.mem = s.mem ∧ (t.fab.link n).lands = l.lands ++ [{
              tick := r + 14, addr := (y.ad.extractLsb' 0 48).toNat + 256 * (r - y.tick), wpc := y.wpc, kind := k }]
            (y.act = .recv → kind = 1 → lands (.data data)) ∧
            (y.act = .sigLand → kind = 2 → lands (.signal (signedOf 64 (leNat (data.take 8))))))) ∧
      (kind = 3 →
        let stamp := leNat (data.take 8)
        let x := l.phase + w
        let fill := (l.fill : Int) + x.tdiv 64
        let err : Int := ((r : Int) - stamp - l.ldly) * 64 + x
        let kept : Link := { l with stamp := BitVec.ofNat 64 stamp, stampAt := r, taken := false }
        (l.up = false → becomes i { l with stamp := BitVec.ofNat 64 stamp, stampAt := r }) ∧
        (l.up = true → ¬below →
          (fill ≤ 0 ∨ 16 ≤ fill → failsAs i { kept with phase := x - 64 * x.tdiv 64, fill := if fill ≤ 0 then 0 else 16 } 3) ∧
          (0 < fill → fill < 16 → becomes i { kept with phase := x - 64 * x.tdiv 64, fill := fill.toNat })) ∧
        (below → l.up = true → l.locked = true → 0 < l.fill → l.fill < 16 →
          (err.natAbs ≤ 32 → becomes i { kept with phase := err }) ∧ (32 < err.natAbs → failsAs i { kept with phase := err } 5)) ∧
        (below → l.up = true → l.locked = false → ∃ t, exec i s = .next t ∧ t.tick = stamp + l.ldly ∧
          (t.fab.link n).locked = true ∧ (t.fab.link n).phase = 0 ∧ t.cores = s.cores ∧ t.mem = s.mem)) ∧
      (kind = 4 → (l.up = false → same i) ∧
        (l.up = true → let x := l.phase + w
          (¬below → let fill := (l.fill : Int) + x.tdiv 64
            (fill ≤ 0 ∨ 16 ≤ fill → failsAs i { l with phase := x - 64 * x.tdiv 64, fill := if fill ≤ 0 then 0 else 16 } 3) ∧
            (0 < fill → fill < 16 → ∃ t, exec i s = .next t ∧ (t.fab.link n).phase = x - 64 * x.tdiv 64 ∧
              ((t.fab.link n).fill : Int) = if l.taken then fill else if 8 < fill then fill - 1 else if fill < 8 then fill + 1 else 8)) ∧
          (below → 0 < l.fill → l.fill < 16 → (32 < x.natAbs → failsAs i { l with phase := x } 5) ∧
            (x.natAbs ≤ 32 → ∃ t, exec i s = .next t ∧
              (t.fab.link n).phase = if l.taken then x else if x < 0 then x + 1 else if 0 < x then x - 1 else 0)))) ∧
      (kind = 5 → let x := noticeOf data
        let late := 0 < s.fab.lastS ∧ x.f ≤ s.fab.lastS ∧ (x.abort = false ∨ s.fab.lastF < x.f)
        (s.fab.seen.contains (x.f, x.link, x.abort) = true → same i) ∧
        (s.fab.seen.contains (x.f, x.link, x.abort) = false → ∃ t, exec i s = .next t ∧ t.mem = s.mem ∧ t.cores = s.cores ∧
          t.fab.seen = (x.f, x.link, x.abort) :: s.fab.seen ∧
          (late → t.fab.notices = s.fab.notices) ∧ (¬late → t.fab.notices = s.fab.notices ++ [{ notice := x, start := r }]) ∧
          (x.s < r → (t.fab.link n).cause = 5)))) ∧
    (∀ f i w, i = Instr.dataFlit port f ∨ i = .signalFlit port f ∨ i = .idleFlit port f ∨ i = .noticeFlit port f ∨
        i = .timebaseFlit port f.beats f.parity w ∨ i = .guardFlit port { flit := f, wander := w } ∨ i = .mgmtFlit port f → 2 ≤ (flitFailing f).length →
      ∃ t, exec i s = .next t ∧ t.mem = s.mem ∧ (t.fab.link n).tookAt = r + 1 ∧ (t.fab.link n).cause = 1) ∧
    (∀ f bs m, flitFailing f = [] → flitRebuilt f = some bs → flitKind bs = 6 → mgmtOf (flitPayload bs) = some m →
      exec (.mgmtFlit port f) s = .next (s.mgmtArrives port m) ∧ (∀ c, m = .ready c → s.mgmtArrives port m = s.podReady c) ∧
      ((∀ c, m ≠ .ready c) → ¬below → s.mgmtArrives port m = s)) ∧
    (l.up = false → same (.lossOfLaneLock port) ∧ ∀ fill, same (.bufferLimit { port := port, fill := fill })) ∧
    (l.up = true → (∀ fill, let i := Instr.bufferLimit { port := port, fill := fill }
        (fill = 0 ∨ 16 ≤ fill → failsAs i { l with fill := min 16 fill } 3) ∧
        (0 < fill → fill < 16 → ¬below ∨ l.phase.natAbs ≤ 32 → becomes i { l with fill := fill }) ∧
        (0 < fill → fill < 16 → below → 32 < l.phase.natAbs → failsAs i { l with fill := fill } 5)) ∧
      exec (.lossOfLaneLock port) s = .next ((s.linkFault n .linkFailure 4 (l.atWord r)).updLink n fun l =>
        { l with up := false, ldly := 0 })) ∧
    (l.gapOver r = true → fails (.guardGap port) .linkFailure 14) ∧ (l.gapOver r = false → same (.guardGap port)) ∧
    (l.guardDue r = false → same (.automaticGuard port)) ∧
    (l.guardDue r = true →
      let flits := (List.range 15).map fun j => (r + 12 + j, 4, List.replicate 256 (0 : Byte))
      becomes (.automaticGuard port) { l with guard := r, sends := l.sends ++ (r + 11, 3, l.timebase (r + 11)) :: flits }) ∧
    (l.startDue r = false → same (.programStart port)) ∧
    (l.startDue r = true → becomes (.programStart port) { l with
      started := true, run := true, a := Vector.replicate 8 0, b := BitVec.ofNat 64 l.origin, c := BitVec.ofNat 64 l.origin
      stack := [], latch := {}, lhor := 0, timed := [], lastExec := 0, pc := 0, decAt := r }) ∧
    (l.run = true → l.deadline ≤ r → fails (.programDeadline port) .waitDeadline 0) ∧
    (l.run = false ∨ r < l.deadline → same (.programDeadline port)) ∧
    (∀ pair f, (4 ≤ pair → same (.dieToDieBeat pair f)) ∧
     (pair < 4 → flitFailing f = [] → (flitRebuilt f).isSome → ∃ t, exec (.dieToDieBeat pair f) s = .next t ∧ t.cores = s.cores ∧
       t.mem = s.mem ∧ t.fab.notices = s.fab.notices)) ∧
    (∀ pair f, pair < 4 → 2 ≤ (flitFailing f).length → s.quiet = false → s.fab.seen.contains (r, 0xFFFF, true) = false →
      s.fab.lastS < r → ∃ t, exec (.dieToDieBeat pair f) s = .next t ∧
      t.fab.notices = s.fab.notices ++ [{ start := r + 2, notice := {
        f := r, s := r + s.fab.horizon, link := 0xFFFF, abort := true, code := FaultCode.linkFailure.toNat, cause := 6 } }]) ∧
    (s.noticeDue = none → same .spliceStop) ∧
    (∀ x, s.noticeDue = some x →
      (x.abort = true → exec .spliceStop s = .next (s.abortPod x (faultOfCode x.code))) ∧
      (x.abort = false → s.spliced = none →
        exec .spliceStop s = .next { s with fab := { s.fab with notices := [], lastS := x.s, lastF := x.f } }) ∧
      (∀ j, x.abort = false → s.spliced = some j → s.fab.checkpoint x.f = none ∨ s.detour x.link = none →
        exec .spliceStop s = .next (s.abortPod x .linkFailure)) ∧
      (∀ m j node into, x.abort = false → s.fab.podJob = some m → s.job m = some j → j.n = m →
        s.fab.checkpoint x.f = some node → s.detour x.link = some into →
        ∃ t y, exec .spliceStop s = .next t ∧ t.fab.splice = some (x.s + s.fab.pod 64 32, node) ∧ t.fab.lastS = x.s ∧ t.fab.lastF = x.f ∧ t.fab.notices = [] ∧
          t.job m = some y ∧ y.saved = true ∧ rget t.fab.podcfg 96 8 = into % 2 ^ 8)) ∧
    (s.fab.splice = none → same .spliceResume) ∧
    (∀ R node, s.fab.splice = some (R, node) →
      (r < R ∨ (∃ j, s.spliced = some j ∧ s.rollable j = false) → same .spliceResume) ∧
      (R ≤ r → (∀ j, s.spliced = some j → s.rollable j = true) → ∃ t, exec .spliceResume s = .next t ∧ t.fab.splice = none ∧
        t.fab.cont = s.spliced.map (fun j => (R, j.n)) ∧ t.mem = s.mem ∧
        ∀ m j, s.fab.podJob = some m → s.job m = some j → j.n = m →
          ∃ y g, t.job m = some y ∧ y.stage = .running ∧ y.graph = some g ∧ g.node = node ∧ g.doing = .starting R))
end

