-- ==== Sys2Proof/Laws/Memory.lean ====
section
/-!
SUPPORT. The canonical form of memory: every operation keeps it, and what reading after writing gives.
-/
namespace Sys2Proof.Machine

theorem Memory.wfFrom_nil (lo : Nat) : Memory.wfFrom lo [] = true := rfl

theorem Memory.wfFrom_cons (lo k : Nat) (b : Byte) (t : Memory) :
    Memory.wfFrom lo ((k, b) :: t) = true ↔ lo ≤ k ∧ b ≠ 0 ∧ Memory.wfFrom (k + 1) t = true := by
  simp [Memory.wfFrom, and_assoc]

/-- A lower bound may be lowered. -/
theorem Memory.wfFrom_mono {lo lo' : Nat} (h : lo' ≤ lo) {m : Memory} (hm : m.wfFrom lo = true) :
    m.wfFrom lo' = true := by
  cases m with
  | nil => rfl
  | cons c t =>
    obtain ⟨h1, h2, h3⟩ := (wfFrom_cons ..).1 hm
    exact (wfFrom_cons ..).2 ⟨Nat.le_trans h h1, h2, h3⟩

/-- Leaving cells out keeps the form. -/
theorem Memory.wfFrom_filter (p : Host.Cell → Bool) {lo : Nat} {m : Memory} (hm : m.wfFrom lo = true) :
    Memory.wfFrom lo (List.filter p m) = true := by
  induction m generalizing lo with
  | nil => rfl
  | cons c t ih =>
    obtain ⟨h1, h2, h3⟩ := (wfFrom_cons ..).1 hm
    by_cases hp : p c
    · rw [List.filter_cons_of_pos hp]
      exact (wfFrom_cons ..).2 ⟨h1, h2, ih h3⟩
    · rw [List.filter_cons_of_neg hp]
      exact ih (wfFrom_mono (by omega) h3)

theorem Memory.wf_filter (p : Host.Cell → Bool) {m : Memory} (hm : m.wf = true) :
    Memory.wf (List.filter p m) = true := wfFrom_filter p hm

theorem Memory.wfFrom_drop (a : Nat) {lo : Nat} {m : Memory} (hm : m.wfFrom lo = true) :
    (m.drop a).wfFrom lo = true := by
  induction m generalizing lo with
  | nil => rfl
  | cons c t ih =>
    obtain ⟨h1, h2, h3⟩ := (wfFrom_cons ..).1 hm
    unfold Memory.drop
    split
    · exact ih (wfFrom_mono (by omega) h3)
    · exact (wfFrom_cons ..).2 ⟨h1, h2, ih h3⟩

/-- A memory without an address keeps its form when a byte is put there. -/
theorem Memory.wfFrom_insert (a : Nat) (v : Byte) (hv : v ≠ 0) {lo : Nat} (hlo : lo ≤ a) {m : Memory}
    (hm : (m.drop a).wfFrom lo = true) : ((m.drop a).insert a v).wfFrom lo = true := by
  induction m generalizing lo with
  | nil => exact (wfFrom_cons ..).2 ⟨hlo, hv, rfl⟩
  | cons c t ih =>
    unfold Memory.drop at hm ⊢
    split at hm
    · next h => rw [if_pos h]; exact ih hlo hm
    · next h =>
      rw [if_neg h]
      obtain ⟨h1, h2, h3⟩ := (wfFrom_cons ..).1 hm
      unfold Memory.insert
      split
      · next hlt => exact (wfFrom_cons ..).2 ⟨hlo, hv, (wfFrom_cons ..).2 ⟨by omega, h2, h3⟩⟩
      · next hge => exact (wfFrom_cons ..).2 ⟨h1, h2, ih (by omega) h3⟩

/-- WRITING A BYTE KEEPS THE CANONICAL FORM. -/
theorem Memory.wf_set {m : Memory} (hm : m.wf = true) (a : Nat) (v : Byte) : (m.set a v).wf = true := by
  unfold Memory.set
  split
  · exact wfFrom_drop a hm
  · next hv => exact wfFrom_insert a v hv (Nat.zero_le a) (wfFrom_drop a hm)

theorem Memory.wf_write {m : Memory} (hm : m.wf = true) (a : Nat) (bs : List Byte) : (m.write a bs).wf = true := by
  induction bs generalizing m a with
  | nil => exact hm
  | cons b t ih => exact ih (wf_set hm a b) (a + 1)

theorem Memory.wf_setMasked {m : Memory} (hm : m.wf = true) (x : MByte) : (m.setMasked x).wf = true :=
  wf_set hm ..

theorem Memory.wf_writeMasked {m : Memory} (hm : m.wf = true) (xs : List MByte) : (m.writeMasked xs).wf = true := by
  unfold Memory.writeMasked
  induction xs generalizing m with
  | nil => exact hm
  | cons x t ih => exact ih (wf_setMasked hm x)

/-! ### Reading after writing -/

theorem Memory.get_drop (m : Memory) (a x : Nat) : (m.drop a).get x = if x = a then 0 else m.get x := by
  induction m with
  | nil => simp [Memory.drop, Memory.get]
  | cons c t ih =>
    unfold Memory.drop
    split
    · next h =>
      rw [ih]
      split
      · rfl
      · next hx => simp [Memory.get, h, Ne.symm hx]
    · next h =>
      simp only [Memory.get, ih]
      by_cases hc : c.1 = x
      · have hx : ¬ x = a := fun e => h (hc.trans e)
        simp [hc, hx]
      · simp [hc]

theorem Memory.get_insert (m : Memory) (a x : Nat) (v : Byte) (h : ∀ b, (a, b) ∉ m) :
    (m.insert a v).get x = if x = a then v else m.get x := by
  induction m with
  | nil => simp [Memory.insert, Memory.get, eq_comm]
  | cons c t ih =>
    have hc : c.1 ≠ a := fun e => h c.2 (by simp [← e])
    have ht : ∀ b, (a, b) ∉ t := fun b hb => h b (List.mem_cons_of_mem _ hb)
    unfold Memory.insert
    split
    · simp only [Memory.get]
      by_cases hx : x = a
      · simp [hx]
      · simp [hx, Ne.symm hx]
    · simp only [Memory.get, ih ht]
      by_cases hx : c.1 = x
      · have : ¬ x = a := fun e => hc (hx.trans e)
        simp [hx, this]
      · simp [hx]

theorem Memory.not_mem_drop (m : Memory) (a : Nat) (b : Byte) : (a, b) ∉ m.drop a := by
  induction m with
  | nil => simp [Memory.drop]
  | cons c t ih =>
    unfold Memory.drop
    split
    · exact ih
    · next h =>
      intro hm
      rcases List.mem_cons.1 hm with e | e
      · exact h (congrArg Prod.fst e).symm
      · exact ih e

/-- A byte read is the last one written there, and every other address reads as before. -/
theorem Memory.get_set (m : Memory) (a x : Nat) (v : Byte) : (m.set a v).get x = if x = a then v else m.get x := by
  unfold Memory.set
  split
  · next hv => rw [get_drop]; simp [hv]
  · rw [get_insert _ _ _ _ (not_mem_drop m a), get_drop]
    split <;> rfl

/-- Bytes written upward change no address outside them. -/
theorem Memory.get_write_of_not_mem (m : Memory) (a x : Nat) (bs : List Byte) (h : x < a ∨ a + bs.length ≤ x) :
    (m.write a bs).get x = m.get x := by
  induction bs generalizing m a with
  | nil => rfl
  | cons b t ih =>
    rw [List.length_cons] at h
    unfold Memory.write
    rw [ih _ _ (by omega), get_set, if_neg (by omega)]

/-- Masked bytes change no address they do not name. -/
theorem Memory.get_writeMasked_of_not_mem (m : Memory) (x : Nat) (xs : List MByte) (h : ∀ y ∈ xs, y.addr ≠ x) :
    (m.writeMasked xs).get x = m.get x := by
  unfold Memory.writeMasked
  induction xs generalizing m with
  | nil => rfl
  | cons y t ih =>
    rw [List.foldl_cons, ih _ fun z hz => h z (List.mem_cons_of_mem _ hz)]
    unfold Memory.setMasked
    rw [get_set, if_neg (Ne.symm (h y (List.mem_cons_self ..)))]

end Sys2Proof.Machine
end

