-- ==== Sys2Proof/Laws/State.lean ====
section
/-!
SUPPORT. What each update of State leaves of every other field, and reading a core, slot, context, link engine or zone
after writing one.
-/
namespace Sys2Proof.Machine

variable (s : State)


/-! ### setCore -/

@[simp] theorem State.setCore_tick (c : Nat) (k : Core) : (s.setCore c k).tick = s.tick := rfl
@[simp] theorem State.setCore_phase (c : Nat) (k : Core) : (s.setCore c k).phase = s.phase := rfl
@[simp] theorem State.setCore_turn (c : Nat) (k : Core) : (s.setCore c k).turn = s.turn := rfl
@[simp] theorem State.setCore_inbox (c : Nat) (k : Core) : (s.setCore c k).inbox = s.inbox := rfl
@[simp] theorem State.setCore_todo (c : Nat) (k : Core) : (s.setCore c k).todo = s.todo := rfl
@[simp] theorem State.setCore_script (c : Nat) (k : Core) : (s.setCore c k).script = s.script := rfl
@[simp] theorem State.setCore_who (c : Nat) (k : Core) : (s.setCore c k).who = s.who := rfl
@[simp] theorem State.setCore_free (c : Nat) (k : Core) : (s.setCore c k).free = s.free := rfl
@[simp] theorem State.setCore_lat (c : Nat) (k : Core) : (s.setCore c k).lat = s.lat := rfl
@[simp] theorem State.setCore_out (c : Nat) (k : Core) : (s.setCore c k).out = s.out := rfl
@[simp] theorem State.setCore_mem (c : Nat) (k : Core) : (s.setCore c k).mem = s.mem := rfl
@[simp] theorem State.setCore_hostMem (c : Nat) (k : Core) : (s.setCore c k).hostMem = s.hostMem := rfl
@[simp] theorem State.setCore_poison (c : Nat) (k : Core) : (s.setCore c k).poison = s.poison := rfl
@[simp] theorem State.setCore_hostPoison (c : Nat) (k : Core) : (s.setCore c k).hostPoison = s.hostPoison := rfl
@[simp] theorem State.setCore_ctxs (c : Nat) (k : Core) : (s.setCore c k).ctxs = s.ctxs := rfl
@[simp] theorem State.setCore_cp (c : Nat) (k : Core) : (s.setCore c k).cp = s.cp := rfl
@[simp] theorem State.setCore_sync (c : Nat) (k : Core) : (s.setCore c k).sync = s.sync := rfl
@[simp] theorem State.setCore_banks (c : Nat) (k : Core) : (s.setCore c k).banks = s.banks := rfl
@[simp] theorem State.setCore_hosts (c : Nat) (k : Core) : (s.setCore c k).hosts = s.hosts := rfl
@[simp] theorem State.setCore_cool (c : Nat) (k : Core) : (s.setCore c k).cool = s.cool := rfl
@[simp] theorem State.setCore_dbg (c : Nat) (k : Core) : (s.setCore c k).dbg = s.dbg := rfl
@[simp] theorem State.setCore_sec (c : Nat) (k : Core) : (s.setCore c k).sec = s.sec := rfl
@[simp] theorem State.setCore_fab (c : Nat) (k : Core) : (s.setCore c k).fab = s.fab := rfl

/-! ### updCore -/

@[simp] theorem State.updCore_tick (c : Nat) (f : Core → Core) : (s.updCore c f).tick = s.tick := rfl
@[simp] theorem State.updCore_phase (c : Nat) (f : Core → Core) : (s.updCore c f).phase = s.phase := rfl
@[simp] theorem State.updCore_turn (c : Nat) (f : Core → Core) : (s.updCore c f).turn = s.turn := rfl
@[simp] theorem State.updCore_inbox (c : Nat) (f : Core → Core) : (s.updCore c f).inbox = s.inbox := rfl
@[simp] theorem State.updCore_todo (c : Nat) (f : Core → Core) : (s.updCore c f).todo = s.todo := rfl
@[simp] theorem State.updCore_script (c : Nat) (f : Core → Core) : (s.updCore c f).script = s.script := rfl
@[simp] theorem State.updCore_who (c : Nat) (f : Core → Core) : (s.updCore c f).who = s.who := rfl
@[simp] theorem State.updCore_free (c : Nat) (f : Core → Core) : (s.updCore c f).free = s.free := rfl
@[simp] theorem State.updCore_lat (c : Nat) (f : Core → Core) : (s.updCore c f).lat = s.lat := rfl
@[simp] theorem State.updCore_out (c : Nat) (f : Core → Core) : (s.updCore c f).out = s.out := rfl
@[simp] theorem State.updCore_mem (c : Nat) (f : Core → Core) : (s.updCore c f).mem = s.mem := rfl
@[simp] theorem State.updCore_hostMem (c : Nat) (f : Core → Core) : (s.updCore c f).hostMem = s.hostMem := rfl
@[simp] theorem State.updCore_poison (c : Nat) (f : Core → Core) : (s.updCore c f).poison = s.poison := rfl
@[simp] theorem State.updCore_hostPoison (c : Nat) (f : Core → Core) : (s.updCore c f).hostPoison = s.hostPoison := rfl
@[simp] theorem State.updCore_ctxs (c : Nat) (f : Core → Core) : (s.updCore c f).ctxs = s.ctxs := rfl
@[simp] theorem State.updCore_cp (c : Nat) (f : Core → Core) : (s.updCore c f).cp = s.cp := rfl
@[simp] theorem State.updCore_sync (c : Nat) (f : Core → Core) : (s.updCore c f).sync = s.sync := rfl
@[simp] theorem State.updCore_banks (c : Nat) (f : Core → Core) : (s.updCore c f).banks = s.banks := rfl
@[simp] theorem State.updCore_hosts (c : Nat) (f : Core → Core) : (s.updCore c f).hosts = s.hosts := rfl
@[simp] theorem State.updCore_cool (c : Nat) (f : Core → Core) : (s.updCore c f).cool = s.cool := rfl
@[simp] theorem State.updCore_dbg (c : Nat) (f : Core → Core) : (s.updCore c f).dbg = s.dbg := rfl
@[simp] theorem State.updCore_sec (c : Nat) (f : Core → Core) : (s.updCore c f).sec = s.sec := rfl
@[simp] theorem State.updCore_fab (c : Nat) (f : Core → Core) : (s.updCore c f).fab = s.fab := rfl

/-! ### setSlot -/

@[simp] theorem State.setSlot_tick (c n : Nat) (x : Slot) : (s.setSlot c n x).tick = s.tick := rfl
@[simp] theorem State.setSlot_phase (c n : Nat) (x : Slot) : (s.setSlot c n x).phase = s.phase := rfl
@[simp] theorem State.setSlot_turn (c n : Nat) (x : Slot) : (s.setSlot c n x).turn = s.turn := rfl
@[simp] theorem State.setSlot_inbox (c n : Nat) (x : Slot) : (s.setSlot c n x).inbox = s.inbox := rfl
@[simp] theorem State.setSlot_todo (c n : Nat) (x : Slot) : (s.setSlot c n x).todo = s.todo := rfl
@[simp] theorem State.setSlot_script (c n : Nat) (x : Slot) : (s.setSlot c n x).script = s.script := rfl
@[simp] theorem State.setSlot_who (c n : Nat) (x : Slot) : (s.setSlot c n x).who = s.who := rfl
@[simp] theorem State.setSlot_free (c n : Nat) (x : Slot) : (s.setSlot c n x).free = s.free := rfl
@[simp] theorem State.setSlot_lat (c n : Nat) (x : Slot) : (s.setSlot c n x).lat = s.lat := rfl
@[simp] theorem State.setSlot_out (c n : Nat) (x : Slot) : (s.setSlot c n x).out = s.out := rfl
@[simp] theorem State.setSlot_mem (c n : Nat) (x : Slot) : (s.setSlot c n x).mem = s.mem := rfl
@[simp] theorem State.setSlot_hostMem (c n : Nat) (x : Slot) : (s.setSlot c n x).hostMem = s.hostMem := rfl
@[simp] theorem State.setSlot_poison (c n : Nat) (x : Slot) : (s.setSlot c n x).poison = s.poison := rfl
@[simp] theorem State.setSlot_hostPoison (c n : Nat) (x : Slot) : (s.setSlot c n x).hostPoison = s.hostPoison := rfl
@[simp] theorem State.setSlot_ctxs (c n : Nat) (x : Slot) : (s.setSlot c n x).ctxs = s.ctxs := rfl
@[simp] theorem State.setSlot_cp (c n : Nat) (x : Slot) : (s.setSlot c n x).cp = s.cp := rfl
@[simp] theorem State.setSlot_sync (c n : Nat) (x : Slot) : (s.setSlot c n x).sync = s.sync := rfl
@[simp] theorem State.setSlot_banks (c n : Nat) (x : Slot) : (s.setSlot c n x).banks = s.banks := rfl
@[simp] theorem State.setSlot_hosts (c n : Nat) (x : Slot) : (s.setSlot c n x).hosts = s.hosts := rfl
@[simp] theorem State.setSlot_cool (c n : Nat) (x : Slot) : (s.setSlot c n x).cool = s.cool := rfl
@[simp] theorem State.setSlot_dbg (c n : Nat) (x : Slot) : (s.setSlot c n x).dbg = s.dbg := rfl
@[simp] theorem State.setSlot_sec (c n : Nat) (x : Slot) : (s.setSlot c n x).sec = s.sec := rfl
@[simp] theorem State.setSlot_fab (c n : Nat) (x : Slot) : (s.setSlot c n x).fab = s.fab := rfl

/-! ### updSlot -/

@[simp] theorem State.updSlot_tick (c n : Nat) (f : Slot → Slot) : (s.updSlot c n f).tick = s.tick := rfl
@[simp] theorem State.updSlot_phase (c n : Nat) (f : Slot → Slot) : (s.updSlot c n f).phase = s.phase := rfl
@[simp] theorem State.updSlot_turn (c n : Nat) (f : Slot → Slot) : (s.updSlot c n f).turn = s.turn := rfl
@[simp] theorem State.updSlot_inbox (c n : Nat) (f : Slot → Slot) : (s.updSlot c n f).inbox = s.inbox := rfl
@[simp] theorem State.updSlot_todo (c n : Nat) (f : Slot → Slot) : (s.updSlot c n f).todo = s.todo := rfl
@[simp] theorem State.updSlot_script (c n : Nat) (f : Slot → Slot) : (s.updSlot c n f).script = s.script := rfl
@[simp] theorem State.updSlot_who (c n : Nat) (f : Slot → Slot) : (s.updSlot c n f).who = s.who := rfl
@[simp] theorem State.updSlot_free (c n : Nat) (f : Slot → Slot) : (s.updSlot c n f).free = s.free := rfl
@[simp] theorem State.updSlot_lat (c n : Nat) (f : Slot → Slot) : (s.updSlot c n f).lat = s.lat := rfl
@[simp] theorem State.updSlot_out (c n : Nat) (f : Slot → Slot) : (s.updSlot c n f).out = s.out := rfl
@[simp] theorem State.updSlot_mem (c n : Nat) (f : Slot → Slot) : (s.updSlot c n f).mem = s.mem := rfl
@[simp] theorem State.updSlot_hostMem (c n : Nat) (f : Slot → Slot) : (s.updSlot c n f).hostMem = s.hostMem := rfl
@[simp] theorem State.updSlot_poison (c n : Nat) (f : Slot → Slot) : (s.updSlot c n f).poison = s.poison := rfl
@[simp] theorem State.updSlot_hostPoison (c n : Nat) (f : Slot → Slot) : (s.updSlot c n f).hostPoison = s.hostPoison := rfl
@[simp] theorem State.updSlot_ctxs (c n : Nat) (f : Slot → Slot) : (s.updSlot c n f).ctxs = s.ctxs := rfl
@[simp] theorem State.updSlot_cp (c n : Nat) (f : Slot → Slot) : (s.updSlot c n f).cp = s.cp := rfl
@[simp] theorem State.updSlot_sync (c n : Nat) (f : Slot → Slot) : (s.updSlot c n f).sync = s.sync := rfl
@[simp] theorem State.updSlot_banks (c n : Nat) (f : Slot → Slot) : (s.updSlot c n f).banks = s.banks := rfl
@[simp] theorem State.updSlot_hosts (c n : Nat) (f : Slot → Slot) : (s.updSlot c n f).hosts = s.hosts := rfl
@[simp] theorem State.updSlot_cool (c n : Nat) (f : Slot → Slot) : (s.updSlot c n f).cool = s.cool := rfl
@[simp] theorem State.updSlot_dbg (c n : Nat) (f : Slot → Slot) : (s.updSlot c n f).dbg = s.dbg := rfl
@[simp] theorem State.updSlot_sec (c n : Nat) (f : Slot → Slot) : (s.updSlot c n f).sec = s.sec := rfl
@[simp] theorem State.updSlot_fab (c n : Nat) (f : Slot → Slot) : (s.updSlot c n f).fab = s.fab := rfl

/-! ### updCur -/

@[simp] theorem State.updCur_tick (f : Slot → Slot) : (s.updCur f).tick = s.tick := rfl
@[simp] theorem State.updCur_phase (f : Slot → Slot) : (s.updCur f).phase = s.phase := rfl
@[simp] theorem State.updCur_turn (f : Slot → Slot) : (s.updCur f).turn = s.turn := rfl
@[simp] theorem State.updCur_inbox (f : Slot → Slot) : (s.updCur f).inbox = s.inbox := rfl
@[simp] theorem State.updCur_todo (f : Slot → Slot) : (s.updCur f).todo = s.todo := rfl
@[simp] theorem State.updCur_script (f : Slot → Slot) : (s.updCur f).script = s.script := rfl
@[simp] theorem State.updCur_who (f : Slot → Slot) : (s.updCur f).who = s.who := rfl
@[simp] theorem State.updCur_free (f : Slot → Slot) : (s.updCur f).free = s.free := rfl
@[simp] theorem State.updCur_lat (f : Slot → Slot) : (s.updCur f).lat = s.lat := rfl
@[simp] theorem State.updCur_out (f : Slot → Slot) : (s.updCur f).out = s.out := rfl
@[simp] theorem State.updCur_mem (f : Slot → Slot) : (s.updCur f).mem = s.mem := rfl
@[simp] theorem State.updCur_hostMem (f : Slot → Slot) : (s.updCur f).hostMem = s.hostMem := rfl
@[simp] theorem State.updCur_poison (f : Slot → Slot) : (s.updCur f).poison = s.poison := rfl
@[simp] theorem State.updCur_hostPoison (f : Slot → Slot) : (s.updCur f).hostPoison = s.hostPoison := rfl
@[simp] theorem State.updCur_ctxs (f : Slot → Slot) : (s.updCur f).ctxs = s.ctxs := rfl
@[simp] theorem State.updCur_cp (f : Slot → Slot) : (s.updCur f).cp = s.cp := rfl
@[simp] theorem State.updCur_sync (f : Slot → Slot) : (s.updCur f).sync = s.sync := rfl
@[simp] theorem State.updCur_banks (f : Slot → Slot) : (s.updCur f).banks = s.banks := rfl
@[simp] theorem State.updCur_hosts (f : Slot → Slot) : (s.updCur f).hosts = s.hosts := rfl
@[simp] theorem State.updCur_cool (f : Slot → Slot) : (s.updCur f).cool = s.cool := rfl
@[simp] theorem State.updCur_dbg (f : Slot → Slot) : (s.updCur f).dbg = s.dbg := rfl
@[simp] theorem State.updCur_sec (f : Slot → Slot) : (s.updCur f).sec = s.sec := rfl
@[simp] theorem State.updCur_fab (f : Slot → Slot) : (s.updCur f).fab = s.fab := rfl

/-! ### updMe -/

@[simp] theorem State.updMe_tick (f : Core → Core) : (s.updMe f).tick = s.tick := rfl
@[simp] theorem State.updMe_phase (f : Core → Core) : (s.updMe f).phase = s.phase := rfl
@[simp] theorem State.updMe_turn (f : Core → Core) : (s.updMe f).turn = s.turn := rfl
@[simp] theorem State.updMe_inbox (f : Core → Core) : (s.updMe f).inbox = s.inbox := rfl
@[simp] theorem State.updMe_todo (f : Core → Core) : (s.updMe f).todo = s.todo := rfl
@[simp] theorem State.updMe_script (f : Core → Core) : (s.updMe f).script = s.script := rfl
@[simp] theorem State.updMe_who (f : Core → Core) : (s.updMe f).who = s.who := rfl
@[simp] theorem State.updMe_free (f : Core → Core) : (s.updMe f).free = s.free := rfl
@[simp] theorem State.updMe_lat (f : Core → Core) : (s.updMe f).lat = s.lat := rfl
@[simp] theorem State.updMe_out (f : Core → Core) : (s.updMe f).out = s.out := rfl
@[simp] theorem State.updMe_mem (f : Core → Core) : (s.updMe f).mem = s.mem := rfl
@[simp] theorem State.updMe_hostMem (f : Core → Core) : (s.updMe f).hostMem = s.hostMem := rfl
@[simp] theorem State.updMe_poison (f : Core → Core) : (s.updMe f).poison = s.poison := rfl
@[simp] theorem State.updMe_hostPoison (f : Core → Core) : (s.updMe f).hostPoison = s.hostPoison := rfl
@[simp] theorem State.updMe_ctxs (f : Core → Core) : (s.updMe f).ctxs = s.ctxs := rfl
@[simp] theorem State.updMe_cp (f : Core → Core) : (s.updMe f).cp = s.cp := rfl
@[simp] theorem State.updMe_sync (f : Core → Core) : (s.updMe f).sync = s.sync := rfl
@[simp] theorem State.updMe_banks (f : Core → Core) : (s.updMe f).banks = s.banks := rfl
@[simp] theorem State.updMe_hosts (f : Core → Core) : (s.updMe f).hosts = s.hosts := rfl
@[simp] theorem State.updMe_cool (f : Core → Core) : (s.updMe f).cool = s.cool := rfl
@[simp] theorem State.updMe_dbg (f : Core → Core) : (s.updMe f).dbg = s.dbg := rfl
@[simp] theorem State.updMe_sec (f : Core → Core) : (s.updMe f).sec = s.sec := rfl
@[simp] theorem State.updMe_fab (f : Core → Core) : (s.updMe f).fab = s.fab := rfl

/-! ### land -/

@[simp] theorem State.land_tick (L : Nat) (e : Effect) (cls : Option Nat) : (s.land L e cls).tick = s.tick := rfl
@[simp] theorem State.land_phase (L : Nat) (e : Effect) (cls : Option Nat) : (s.land L e cls).phase = s.phase := rfl
@[simp] theorem State.land_turn (L : Nat) (e : Effect) (cls : Option Nat) : (s.land L e cls).turn = s.turn := rfl
@[simp] theorem State.land_inbox (L : Nat) (e : Effect) (cls : Option Nat) : (s.land L e cls).inbox = s.inbox := rfl
@[simp] theorem State.land_todo (L : Nat) (e : Effect) (cls : Option Nat) : (s.land L e cls).todo = s.todo := rfl
@[simp] theorem State.land_script (L : Nat) (e : Effect) (cls : Option Nat) : (s.land L e cls).script = s.script := rfl
@[simp] theorem State.land_who (L : Nat) (e : Effect) (cls : Option Nat) : (s.land L e cls).who = s.who := rfl
@[simp] theorem State.land_free (L : Nat) (e : Effect) (cls : Option Nat) : (s.land L e cls).free = s.free := rfl
@[simp] theorem State.land_lat (L : Nat) (e : Effect) (cls : Option Nat) : (s.land L e cls).lat = s.lat := rfl
@[simp] theorem State.land_out (L : Nat) (e : Effect) (cls : Option Nat) : (s.land L e cls).out = s.out := rfl
@[simp] theorem State.land_mem (L : Nat) (e : Effect) (cls : Option Nat) : (s.land L e cls).mem = s.mem := rfl
@[simp] theorem State.land_hostMem (L : Nat) (e : Effect) (cls : Option Nat) : (s.land L e cls).hostMem = s.hostMem := rfl
@[simp] theorem State.land_poison (L : Nat) (e : Effect) (cls : Option Nat) : (s.land L e cls).poison = s.poison := rfl
@[simp] theorem State.land_hostPoison (L : Nat) (e : Effect) (cls : Option Nat) : (s.land L e cls).hostPoison = s.hostPoison := rfl
@[simp] theorem State.land_ctxs (L : Nat) (e : Effect) (cls : Option Nat) : (s.land L e cls).ctxs = s.ctxs := rfl
@[simp] theorem State.land_cp (L : Nat) (e : Effect) (cls : Option Nat) : (s.land L e cls).cp = s.cp := rfl
@[simp] theorem State.land_sync (L : Nat) (e : Effect) (cls : Option Nat) : (s.land L e cls).sync = s.sync := rfl
@[simp] theorem State.land_banks (L : Nat) (e : Effect) (cls : Option Nat) : (s.land L e cls).banks = s.banks := rfl
@[simp] theorem State.land_hosts (L : Nat) (e : Effect) (cls : Option Nat) : (s.land L e cls).hosts = s.hosts := rfl
@[simp] theorem State.land_cool (L : Nat) (e : Effect) (cls : Option Nat) : (s.land L e cls).cool = s.cool := rfl
@[simp] theorem State.land_dbg (L : Nat) (e : Effect) (cls : Option Nat) : (s.land L e cls).dbg = s.dbg := rfl
@[simp] theorem State.land_sec (L : Nat) (e : Effect) (cls : Option Nat) : (s.land L e cls).sec = s.sec := rfl
@[simp] theorem State.land_fab (L : Nat) (e : Effect) (cls : Option Nat) : (s.land L e cls).fab = s.fab := rfl

/-! ### raise -/

@[simp] theorem State.raise_tick (f : Raised) : (s.raise f).tick = s.tick := rfl
@[simp] theorem State.raise_phase (f : Raised) : (s.raise f).phase = s.phase := rfl
@[simp] theorem State.raise_turn (f : Raised) : (s.raise f).turn = s.turn := rfl
@[simp] theorem State.raise_inbox (f : Raised) : (s.raise f).inbox = s.inbox := rfl
@[simp] theorem State.raise_todo (f : Raised) : (s.raise f).todo = s.todo := rfl
@[simp] theorem State.raise_script (f : Raised) : (s.raise f).script = s.script := rfl
@[simp] theorem State.raise_who (f : Raised) : (s.raise f).who = s.who := rfl
@[simp] theorem State.raise_free (f : Raised) : (s.raise f).free = s.free := rfl
@[simp] theorem State.raise_lat (f : Raised) : (s.raise f).lat = s.lat := rfl
@[simp] theorem State.raise_out (f : Raised) : (s.raise f).out = s.out := rfl
@[simp] theorem State.raise_mem (f : Raised) : (s.raise f).mem = s.mem := rfl
@[simp] theorem State.raise_hostMem (f : Raised) : (s.raise f).hostMem = s.hostMem := rfl
@[simp] theorem State.raise_poison (f : Raised) : (s.raise f).poison = s.poison := rfl
@[simp] theorem State.raise_hostPoison (f : Raised) : (s.raise f).hostPoison = s.hostPoison := rfl
@[simp] theorem State.raise_ctxs (f : Raised) : (s.raise f).ctxs = s.ctxs := rfl
@[simp] theorem State.raise_cp (f : Raised) : (s.raise f).cp = s.cp := rfl
@[simp] theorem State.raise_sync (f : Raised) : (s.raise f).sync = s.sync := rfl
@[simp] theorem State.raise_banks (f : Raised) : (s.raise f).banks = s.banks := rfl
@[simp] theorem State.raise_hosts (f : Raised) : (s.raise f).hosts = s.hosts := rfl
@[simp] theorem State.raise_cool (f : Raised) : (s.raise f).cool = s.cool := rfl
@[simp] theorem State.raise_dbg (f : Raised) : (s.raise f).dbg = s.dbg := rfl
@[simp] theorem State.raise_sec (f : Raised) : (s.raise f).sec = s.sec := rfl
@[simp] theorem State.raise_fab (f : Raised) : (s.raise f).fab = s.fab := rfl

/-! ### updCtx -/

@[simp] theorem State.updCtx_tick (k : Nat) (f : Ctx → Ctx) : (s.updCtx k f).tick = s.tick := rfl
@[simp] theorem State.updCtx_phase (k : Nat) (f : Ctx → Ctx) : (s.updCtx k f).phase = s.phase := rfl
@[simp] theorem State.updCtx_turn (k : Nat) (f : Ctx → Ctx) : (s.updCtx k f).turn = s.turn := rfl
@[simp] theorem State.updCtx_inbox (k : Nat) (f : Ctx → Ctx) : (s.updCtx k f).inbox = s.inbox := rfl
@[simp] theorem State.updCtx_todo (k : Nat) (f : Ctx → Ctx) : (s.updCtx k f).todo = s.todo := rfl
@[simp] theorem State.updCtx_script (k : Nat) (f : Ctx → Ctx) : (s.updCtx k f).script = s.script := rfl
@[simp] theorem State.updCtx_who (k : Nat) (f : Ctx → Ctx) : (s.updCtx k f).who = s.who := rfl
@[simp] theorem State.updCtx_free (k : Nat) (f : Ctx → Ctx) : (s.updCtx k f).free = s.free := rfl
@[simp] theorem State.updCtx_lat (k : Nat) (f : Ctx → Ctx) : (s.updCtx k f).lat = s.lat := rfl
@[simp] theorem State.updCtx_out (k : Nat) (f : Ctx → Ctx) : (s.updCtx k f).out = s.out := rfl
@[simp] theorem State.updCtx_mem (k : Nat) (f : Ctx → Ctx) : (s.updCtx k f).mem = s.mem := rfl
@[simp] theorem State.updCtx_hostMem (k : Nat) (f : Ctx → Ctx) : (s.updCtx k f).hostMem = s.hostMem := rfl
@[simp] theorem State.updCtx_poison (k : Nat) (f : Ctx → Ctx) : (s.updCtx k f).poison = s.poison := rfl
@[simp] theorem State.updCtx_hostPoison (k : Nat) (f : Ctx → Ctx) : (s.updCtx k f).hostPoison = s.hostPoison := rfl
@[simp] theorem State.updCtx_cores (k : Nat) (f : Ctx → Ctx) : (s.updCtx k f).cores = s.cores := rfl
@[simp] theorem State.updCtx_cp (k : Nat) (f : Ctx → Ctx) : (s.updCtx k f).cp = s.cp := rfl
@[simp] theorem State.updCtx_sync (k : Nat) (f : Ctx → Ctx) : (s.updCtx k f).sync = s.sync := rfl
@[simp] theorem State.updCtx_banks (k : Nat) (f : Ctx → Ctx) : (s.updCtx k f).banks = s.banks := rfl
@[simp] theorem State.updCtx_hosts (k : Nat) (f : Ctx → Ctx) : (s.updCtx k f).hosts = s.hosts := rfl
@[simp] theorem State.updCtx_cool (k : Nat) (f : Ctx → Ctx) : (s.updCtx k f).cool = s.cool := rfl
@[simp] theorem State.updCtx_dbg (k : Nat) (f : Ctx → Ctx) : (s.updCtx k f).dbg = s.dbg := rfl
@[simp] theorem State.updCtx_sec (k : Nat) (f : Ctx → Ctx) : (s.updCtx k f).sec = s.sec := rfl
@[simp] theorem State.updCtx_fab (k : Nat) (f : Ctx → Ctx) : (s.updCtx k f).fab = s.fab := rfl

/-! ### updJob -/

@[simp] theorem State.updJob_tick (n : Nat) (f : Job → Job) : (s.updJob n f).tick = s.tick := rfl
@[simp] theorem State.updJob_phase (n : Nat) (f : Job → Job) : (s.updJob n f).phase = s.phase := rfl
@[simp] theorem State.updJob_turn (n : Nat) (f : Job → Job) : (s.updJob n f).turn = s.turn := rfl
@[simp] theorem State.updJob_inbox (n : Nat) (f : Job → Job) : (s.updJob n f).inbox = s.inbox := rfl
@[simp] theorem State.updJob_todo (n : Nat) (f : Job → Job) : (s.updJob n f).todo = s.todo := rfl
@[simp] theorem State.updJob_script (n : Nat) (f : Job → Job) : (s.updJob n f).script = s.script := rfl
@[simp] theorem State.updJob_who (n : Nat) (f : Job → Job) : (s.updJob n f).who = s.who := rfl
@[simp] theorem State.updJob_free (n : Nat) (f : Job → Job) : (s.updJob n f).free = s.free := rfl
@[simp] theorem State.updJob_lat (n : Nat) (f : Job → Job) : (s.updJob n f).lat = s.lat := rfl
@[simp] theorem State.updJob_out (n : Nat) (f : Job → Job) : (s.updJob n f).out = s.out := rfl
@[simp] theorem State.updJob_mem (n : Nat) (f : Job → Job) : (s.updJob n f).mem = s.mem := rfl
@[simp] theorem State.updJob_hostMem (n : Nat) (f : Job → Job) : (s.updJob n f).hostMem = s.hostMem := rfl
@[simp] theorem State.updJob_poison (n : Nat) (f : Job → Job) : (s.updJob n f).poison = s.poison := rfl
@[simp] theorem State.updJob_hostPoison (n : Nat) (f : Job → Job) : (s.updJob n f).hostPoison = s.hostPoison := rfl
@[simp] theorem State.updJob_cores (n : Nat) (f : Job → Job) : (s.updJob n f).cores = s.cores := rfl
@[simp] theorem State.updJob_ctxs (n : Nat) (f : Job → Job) : (s.updJob n f).ctxs = s.ctxs := rfl
@[simp] theorem State.updJob_sync (n : Nat) (f : Job → Job) : (s.updJob n f).sync = s.sync := rfl
@[simp] theorem State.updJob_banks (n : Nat) (f : Job → Job) : (s.updJob n f).banks = s.banks := rfl
@[simp] theorem State.updJob_hosts (n : Nat) (f : Job → Job) : (s.updJob n f).hosts = s.hosts := rfl
@[simp] theorem State.updJob_cool (n : Nat) (f : Job → Job) : (s.updJob n f).cool = s.cool := rfl
@[simp] theorem State.updJob_dbg (n : Nat) (f : Job → Job) : (s.updJob n f).dbg = s.dbg := rfl
@[simp] theorem State.updJob_sec (n : Nat) (f : Job → Job) : (s.updJob n f).sec = s.sec := rfl
@[simp] theorem State.updJob_fab (n : Nat) (f : Job → Job) : (s.updJob n f).fab = s.fab := rfl

/-! ### emit -/

@[simp] theorem State.emit_tick (o : Out) : (s.emit o).tick = s.tick := rfl
@[simp] theorem State.emit_phase (o : Out) : (s.emit o).phase = s.phase := rfl
@[simp] theorem State.emit_turn (o : Out) : (s.emit o).turn = s.turn := rfl
@[simp] theorem State.emit_inbox (o : Out) : (s.emit o).inbox = s.inbox := rfl
@[simp] theorem State.emit_todo (o : Out) : (s.emit o).todo = s.todo := rfl
@[simp] theorem State.emit_script (o : Out) : (s.emit o).script = s.script := rfl
@[simp] theorem State.emit_who (o : Out) : (s.emit o).who = s.who := rfl
@[simp] theorem State.emit_free (o : Out) : (s.emit o).free = s.free := rfl
@[simp] theorem State.emit_lat (o : Out) : (s.emit o).lat = s.lat := rfl
@[simp] theorem State.emit_mem (o : Out) : (s.emit o).mem = s.mem := rfl
@[simp] theorem State.emit_hostMem (o : Out) : (s.emit o).hostMem = s.hostMem := rfl
@[simp] theorem State.emit_poison (o : Out) : (s.emit o).poison = s.poison := rfl
@[simp] theorem State.emit_hostPoison (o : Out) : (s.emit o).hostPoison = s.hostPoison := rfl
@[simp] theorem State.emit_cores (o : Out) : (s.emit o).cores = s.cores := rfl
@[simp] theorem State.emit_ctxs (o : Out) : (s.emit o).ctxs = s.ctxs := rfl
@[simp] theorem State.emit_cp (o : Out) : (s.emit o).cp = s.cp := rfl
@[simp] theorem State.emit_sync (o : Out) : (s.emit o).sync = s.sync := rfl
@[simp] theorem State.emit_banks (o : Out) : (s.emit o).banks = s.banks := rfl
@[simp] theorem State.emit_hosts (o : Out) : (s.emit o).hosts = s.hosts := rfl
@[simp] theorem State.emit_cool (o : Out) : (s.emit o).cool = s.cool := rfl
@[simp] theorem State.emit_dbg (o : Out) : (s.emit o).dbg = s.dbg := rfl
@[simp] theorem State.emit_sec (o : Out) : (s.emit o).sec = s.sec := rfl
@[simp] theorem State.emit_fab (o : Out) : (s.emit o).fab = s.fab := rfl

/-! ### setLink -/

@[simp] theorem State.setLink_tick (n : Nat) (l : Link) : (s.setLink n l).tick = s.tick := rfl
@[simp] theorem State.setLink_phase (n : Nat) (l : Link) : (s.setLink n l).phase = s.phase := rfl
@[simp] theorem State.setLink_turn (n : Nat) (l : Link) : (s.setLink n l).turn = s.turn := rfl
@[simp] theorem State.setLink_inbox (n : Nat) (l : Link) : (s.setLink n l).inbox = s.inbox := rfl
@[simp] theorem State.setLink_todo (n : Nat) (l : Link) : (s.setLink n l).todo = s.todo := rfl
@[simp] theorem State.setLink_script (n : Nat) (l : Link) : (s.setLink n l).script = s.script := rfl
@[simp] theorem State.setLink_who (n : Nat) (l : Link) : (s.setLink n l).who = s.who := rfl
@[simp] theorem State.setLink_free (n : Nat) (l : Link) : (s.setLink n l).free = s.free := rfl
@[simp] theorem State.setLink_lat (n : Nat) (l : Link) : (s.setLink n l).lat = s.lat := rfl
@[simp] theorem State.setLink_out (n : Nat) (l : Link) : (s.setLink n l).out = s.out := rfl
@[simp] theorem State.setLink_mem (n : Nat) (l : Link) : (s.setLink n l).mem = s.mem := rfl
@[simp] theorem State.setLink_hostMem (n : Nat) (l : Link) : (s.setLink n l).hostMem = s.hostMem := rfl
@[simp] theorem State.setLink_poison (n : Nat) (l : Link) : (s.setLink n l).poison = s.poison := rfl
@[simp] theorem State.setLink_hostPoison (n : Nat) (l : Link) : (s.setLink n l).hostPoison = s.hostPoison := rfl
@[simp] theorem State.setLink_cores (n : Nat) (l : Link) : (s.setLink n l).cores = s.cores := rfl
@[simp] theorem State.setLink_ctxs (n : Nat) (l : Link) : (s.setLink n l).ctxs = s.ctxs := rfl
@[simp] theorem State.setLink_cp (n : Nat) (l : Link) : (s.setLink n l).cp = s.cp := rfl
@[simp] theorem State.setLink_sync (n : Nat) (l : Link) : (s.setLink n l).sync = s.sync := rfl
@[simp] theorem State.setLink_banks (n : Nat) (l : Link) : (s.setLink n l).banks = s.banks := rfl
@[simp] theorem State.setLink_hosts (n : Nat) (l : Link) : (s.setLink n l).hosts = s.hosts := rfl
@[simp] theorem State.setLink_cool (n : Nat) (l : Link) : (s.setLink n l).cool = s.cool := rfl
@[simp] theorem State.setLink_dbg (n : Nat) (l : Link) : (s.setLink n l).dbg = s.dbg := rfl
@[simp] theorem State.setLink_sec (n : Nat) (l : Link) : (s.setLink n l).sec = s.sec := rfl

/-! ### updLink -/

@[simp] theorem State.updLink_tick (n : Nat) (f : Link → Link) : (s.updLink n f).tick = s.tick := rfl
@[simp] theorem State.updLink_phase (n : Nat) (f : Link → Link) : (s.updLink n f).phase = s.phase := rfl
@[simp] theorem State.updLink_turn (n : Nat) (f : Link → Link) : (s.updLink n f).turn = s.turn := rfl
@[simp] theorem State.updLink_inbox (n : Nat) (f : Link → Link) : (s.updLink n f).inbox = s.inbox := rfl
@[simp] theorem State.updLink_todo (n : Nat) (f : Link → Link) : (s.updLink n f).todo = s.todo := rfl
@[simp] theorem State.updLink_script (n : Nat) (f : Link → Link) : (s.updLink n f).script = s.script := rfl
@[simp] theorem State.updLink_who (n : Nat) (f : Link → Link) : (s.updLink n f).who = s.who := rfl
@[simp] theorem State.updLink_free (n : Nat) (f : Link → Link) : (s.updLink n f).free = s.free := rfl
@[simp] theorem State.updLink_lat (n : Nat) (f : Link → Link) : (s.updLink n f).lat = s.lat := rfl
@[simp] theorem State.updLink_out (n : Nat) (f : Link → Link) : (s.updLink n f).out = s.out := rfl
@[simp] theorem State.updLink_mem (n : Nat) (f : Link → Link) : (s.updLink n f).mem = s.mem := rfl
@[simp] theorem State.updLink_hostMem (n : Nat) (f : Link → Link) : (s.updLink n f).hostMem = s.hostMem := rfl
@[simp] theorem State.updLink_poison (n : Nat) (f : Link → Link) : (s.updLink n f).poison = s.poison := rfl
@[simp] theorem State.updLink_hostPoison (n : Nat) (f : Link → Link) : (s.updLink n f).hostPoison = s.hostPoison := rfl
@[simp] theorem State.updLink_cores (n : Nat) (f : Link → Link) : (s.updLink n f).cores = s.cores := rfl
@[simp] theorem State.updLink_ctxs (n : Nat) (f : Link → Link) : (s.updLink n f).ctxs = s.ctxs := rfl
@[simp] theorem State.updLink_cp (n : Nat) (f : Link → Link) : (s.updLink n f).cp = s.cp := rfl
@[simp] theorem State.updLink_sync (n : Nat) (f : Link → Link) : (s.updLink n f).sync = s.sync := rfl
@[simp] theorem State.updLink_banks (n : Nat) (f : Link → Link) : (s.updLink n f).banks = s.banks := rfl
@[simp] theorem State.updLink_hosts (n : Nat) (f : Link → Link) : (s.updLink n f).hosts = s.hosts := rfl
@[simp] theorem State.updLink_cool (n : Nat) (f : Link → Link) : (s.updLink n f).cool = s.cool := rfl
@[simp] theorem State.updLink_dbg (n : Nat) (f : Link → Link) : (s.updLink n f).dbg = s.dbg := rfl
@[simp] theorem State.updLink_sec (n : Nat) (f : Link → Link) : (s.updLink n f).sec = s.sec := rfl

/-! ### updZone -/

@[simp] theorem State.updZone_tick (z : Nat) (f : Zone → Zone) : (s.updZone z f).tick = s.tick := rfl
@[simp] theorem State.updZone_phase (z : Nat) (f : Zone → Zone) : (s.updZone z f).phase = s.phase := rfl
@[simp] theorem State.updZone_turn (z : Nat) (f : Zone → Zone) : (s.updZone z f).turn = s.turn := rfl
@[simp] theorem State.updZone_inbox (z : Nat) (f : Zone → Zone) : (s.updZone z f).inbox = s.inbox := rfl
@[simp] theorem State.updZone_todo (z : Nat) (f : Zone → Zone) : (s.updZone z f).todo = s.todo := rfl
@[simp] theorem State.updZone_script (z : Nat) (f : Zone → Zone) : (s.updZone z f).script = s.script := rfl
@[simp] theorem State.updZone_who (z : Nat) (f : Zone → Zone) : (s.updZone z f).who = s.who := rfl
@[simp] theorem State.updZone_free (z : Nat) (f : Zone → Zone) : (s.updZone z f).free = s.free := rfl
@[simp] theorem State.updZone_lat (z : Nat) (f : Zone → Zone) : (s.updZone z f).lat = s.lat := rfl
@[simp] theorem State.updZone_out (z : Nat) (f : Zone → Zone) : (s.updZone z f).out = s.out := rfl
@[simp] theorem State.updZone_mem (z : Nat) (f : Zone → Zone) : (s.updZone z f).mem = s.mem := rfl
@[simp] theorem State.updZone_hostMem (z : Nat) (f : Zone → Zone) : (s.updZone z f).hostMem = s.hostMem := rfl
@[simp] theorem State.updZone_poison (z : Nat) (f : Zone → Zone) : (s.updZone z f).poison = s.poison := rfl
@[simp] theorem State.updZone_hostPoison (z : Nat) (f : Zone → Zone) : (s.updZone z f).hostPoison = s.hostPoison := rfl
@[simp] theorem State.updZone_cores (z : Nat) (f : Zone → Zone) : (s.updZone z f).cores = s.cores := rfl
@[simp] theorem State.updZone_ctxs (z : Nat) (f : Zone → Zone) : (s.updZone z f).ctxs = s.ctxs := rfl
@[simp] theorem State.updZone_cp (z : Nat) (f : Zone → Zone) : (s.updZone z f).cp = s.cp := rfl
@[simp] theorem State.updZone_sync (z : Nat) (f : Zone → Zone) : (s.updZone z f).sync = s.sync := rfl
@[simp] theorem State.updZone_banks (z : Nat) (f : Zone → Zone) : (s.updZone z f).banks = s.banks := rfl
@[simp] theorem State.updZone_hosts (z : Nat) (f : Zone → Zone) : (s.updZone z f).hosts = s.hosts := rfl
@[simp] theorem State.updZone_dbg (z : Nat) (f : Zone → Zone) : (s.updZone z f).dbg = s.dbg := rfl
@[simp] theorem State.updZone_sec (z : Nat) (f : Zone → Zone) : (s.updZone z f).sec = s.sec := rfl
@[simp] theorem State.updZone_fab (z : Nat) (f : Zone → Zone) : (s.updZone z f).fab = s.fab := rfl

/-! ### updDbg -/

@[simp] theorem State.updDbg_tick (f : Debug → Debug) : (s.updDbg f).tick = s.tick := rfl
@[simp] theorem State.updDbg_phase (f : Debug → Debug) : (s.updDbg f).phase = s.phase := rfl
@[simp] theorem State.updDbg_turn (f : Debug → Debug) : (s.updDbg f).turn = s.turn := rfl
@[simp] theorem State.updDbg_inbox (f : Debug → Debug) : (s.updDbg f).inbox = s.inbox := rfl
@[simp] theorem State.updDbg_todo (f : Debug → Debug) : (s.updDbg f).todo = s.todo := rfl
@[simp] theorem State.updDbg_script (f : Debug → Debug) : (s.updDbg f).script = s.script := rfl
@[simp] theorem State.updDbg_who (f : Debug → Debug) : (s.updDbg f).who = s.who := rfl
@[simp] theorem State.updDbg_free (f : Debug → Debug) : (s.updDbg f).free = s.free := rfl
@[simp] theorem State.updDbg_lat (f : Debug → Debug) : (s.updDbg f).lat = s.lat := rfl
@[simp] theorem State.updDbg_out (f : Debug → Debug) : (s.updDbg f).out = s.out := rfl
@[simp] theorem State.updDbg_mem (f : Debug → Debug) : (s.updDbg f).mem = s.mem := rfl
@[simp] theorem State.updDbg_hostMem (f : Debug → Debug) : (s.updDbg f).hostMem = s.hostMem := rfl
@[simp] theorem State.updDbg_poison (f : Debug → Debug) : (s.updDbg f).poison = s.poison := rfl
@[simp] theorem State.updDbg_hostPoison (f : Debug → Debug) : (s.updDbg f).hostPoison = s.hostPoison := rfl
@[simp] theorem State.updDbg_cores (f : Debug → Debug) : (s.updDbg f).cores = s.cores := rfl
@[simp] theorem State.updDbg_ctxs (f : Debug → Debug) : (s.updDbg f).ctxs = s.ctxs := rfl
@[simp] theorem State.updDbg_cp (f : Debug → Debug) : (s.updDbg f).cp = s.cp := rfl
@[simp] theorem State.updDbg_sync (f : Debug → Debug) : (s.updDbg f).sync = s.sync := rfl
@[simp] theorem State.updDbg_banks (f : Debug → Debug) : (s.updDbg f).banks = s.banks := rfl
@[simp] theorem State.updDbg_hosts (f : Debug → Debug) : (s.updDbg f).hosts = s.hosts := rfl
@[simp] theorem State.updDbg_cool (f : Debug → Debug) : (s.updDbg f).cool = s.cool := rfl
@[simp] theorem State.updDbg_sec (f : Debug → Debug) : (s.updDbg f).sec = s.sec := rfl
@[simp] theorem State.updDbg_fab (f : Debug → Debug) : (s.updDbg f).fab = s.fab := rfl

/-! ### Reading after writing -/

@[simp] theorem State.core_setCore_same (c : Nat) (k : Core) (hc : c < 64) : (s.setCore c k).core c = k := by
  simp [State.core, State.setCore, hc]

@[simp] theorem State.core_setCore_ne (c d : Nat) (k : Core) (h : c ≠ d) : (s.setCore c k).core d = s.core d := by
  simp [State.core, State.setCore, Vector.getElem?_setIfInBounds_ne h]

@[simp] theorem State.core_updCore_same (c : Nat) (f : Core → Core) (hc : c < 64) :
    (s.updCore c f).core c = f (s.core c) := s.core_setCore_same c _ hc

@[simp] theorem State.core_updCore_ne (c d : Nat) (f : Core → Core) (h : c ≠ d) : (s.updCore c f).core d = s.core d :=
  s.core_setCore_ne c d _ h

@[simp] theorem Core.slot_setSlot_same (k : Core) (n : Nat) (x : Slot) (hn : n < 5) : (k.setSlot n x).slot n = x := by
  unfold Core.slot Core.setSlot
  split
  · rfl
  · simp [show n < 4 by omega]

@[simp] theorem Core.slot_setSlot_ne (k : Core) (n m : Nat) (x : Slot) (h : n ≠ m) :
    (k.setSlot n x).slot m = k.slot m := by
  unfold Core.slot Core.setSlot
  by_cases hn : n = 4
  · simp [hn, show ¬ m = 4 by omega]
  · by_cases hm : m = 4
    · simp [hn, hm]
    · simp [hn, hm, Vector.getElem?_setIfInBounds_ne h]

@[simp] theorem State.slot_setSlot_same (c n : Nat) (x : Slot) (hc : c < 64) (hn : n < 5) :
    (s.setSlot c n x).slot c n = x := by
  simp [State.slot, State.setSlot, hc, hn]

@[simp] theorem State.slot_setSlot_ne (c n d m : Nat) (x : Slot) (h : c ≠ d ∨ n ≠ m) :
    (s.setSlot c n x).slot d m = s.slot d m := by
  unfold State.slot State.setSlot
  by_cases hd : c = d
  · subst hd
    have hn : n ≠ m := h.resolve_left (· rfl)
    by_cases hc : c < 64
    · simp [hc, hn]
    · simp [State.core, State.setCore, Vector.setIfInBounds_eq_of_size_le (by omega : 64 ≤ c)]
  · simp [hd]

@[simp] theorem State.slot_updSlot_same (c n : Nat) (f : Slot → Slot) (hc : c < 64) (hn : n < 5) :
    (s.updSlot c n f).slot c n = f (s.slot c n) := s.slot_setSlot_same c n _ hc hn

@[simp] theorem State.slot_updSlot_ne (c n d m : Nat) (f : Slot → Slot) (h : c ≠ d ∨ n ≠ m) :
    (s.updSlot c n f).slot d m = s.slot d m := s.slot_setSlot_ne c n d m _ h

/-! ### Writing twice -/

@[simp] theorem Core.setSlot_setSlot (k : Core) (n : Nat) (x y : Slot) : (k.setSlot n x).setSlot n y = k.setSlot n y := by
  unfold Core.setSlot
  split <;> simp

@[simp] theorem State.setCore_setCore (c : Nat) (j k : Core) : (s.setCore c j).setCore c k = s.setCore c k := by
  simp [State.setCore]

@[simp] theorem State.setSlot_setSlot (c n : Nat) (x y : Slot) : (s.setSlot c n x).setSlot c n y = s.setSlot c n y := by
  unfold State.setSlot
  by_cases hc : c < 64
  · simp [hc]
  · simp [State.setCore, Vector.setIfInBounds_eq_of_size_le (by omega : 64 ≤ c)]

/-! ### Writing back what was read -/

@[simp] theorem Core.setSlot_slot (k : Core) (n : Nat) : k.setSlot n (k.slot n) = k := by
  unfold Core.setSlot Core.slot
  split
  · rfl
  · rename_i h
    congr
    ext i hi : 1
    by_cases hn : n = i
    · subst hn; simp [hi]
    · simp [hn]

@[simp] theorem State.setCore_core (c : Nat) : s.setCore c (s.core c) = s := by
  unfold State.setCore State.core
  congr
  ext i hi : 1
  by_cases hn : c = i
  · subst hn; simp [hi]
  · simp [hn]

@[simp] theorem State.setSlot_slot (c n : Nat) : s.setSlot c n (s.slot c n) = s := by
  simp [State.setSlot, State.slot]

@[simp] theorem State.updSlot_updSlot (c n : Nat) (f g : Slot → Slot) (hc : c < 64) (hn : n < 5) :
    (s.updSlot c n f).updSlot c n g = s.updSlot c n fun t => g (f t) := by
  unfold State.updSlot
  simp [hc, hn]

@[simp] theorem State.ctx_updCtx_same (k : Nat) (f : Ctx → Ctx) (hk : k < 64) : (s.updCtx k f).ctx k = f (s.ctx k) := by
  simp [State.ctx, State.updCtx, hk]

@[simp] theorem State.link_setLink_same (n : Nat) (l : Link) (hn : n < 12) : (s.setLink n l).fab.link n = l := by
  simp [State.setLink, Fabric.link, hn]

@[simp] theorem State.zone_updZone_same (z : Nat) (f : Zone → Zone) (hz : z < 80) :
    (s.updZone z f).zone z = f (s.zone z) := by
  simp [State.zone, State.updZone, hz]

end Sys2Proof.Machine
end

