-- ==== Sys2Proof/Laws/Ops.lean ====
section
/-!
SUPPORT. What each shared operation can do, said once: the decode checks, a word's outcomes, raising and landing,
writing memory, taking an exception and returning from it.
-/
namespace Sys2Proof.Machine

/-! ### Decode checks and the outcomes of a word -/

/-- A well-formed word without prefixes has no decode fault. -/
theorem decodeFault_plain {i : Instr} {rule : PfxRule} {q : QWord} (hi : i.wf = true) (hq : q.pfx = {})
    (hm : rule.mods 0#16 = true) : decodeFault i rule true q = none := by
  simp [decodeFault, hi, hq, Pfx.override, Pfx.mods, hm]

/-- An ill-formed word raises RESERVED_FIELD whatever its prefixes. -/
theorem decodeFault_illFormed {i : Instr} (hi : i.wf = false) (rule : PfxRule) (ok : Bool) (q : QWord) :
    decodeFault i rule ok q = some .reservedField := by
  simp [decodeFault, hi]

/-- A word admitted to its meaning does what its body says. -/
theorem coreWord_ok {i : Instr} {rule : PfxRule} {lvl : Nat} {s t : State} (h : s.admits i rule lvl) :
    coreWord i rule lvl s (.ok t) = .next t.finish := by
  simp [coreWord, h.1, Nat.not_lt.2 h.2]

theorem coreWord_error {i : Instr} {rule : PfxRule} {lvl : Nat} {s : State} {f : Raised} (h : s.admits i rule lvl) :
    coreWord i rule lvl s (.error f) = .next (s.raise f) := by
  simp [coreWord, h.1, Nat.not_lt.2 h.2]

/-- A word of a core stream raises a fault or does its effect: one of the two, and never stops the machine. -/
theorem coreWord_cases (i : Instr) (rule : PfxRule) (lvl : Nat) (s : State) (body : Verdict) (ok : Bool) :
    (∃ f, coreWord i rule lvl s body ok = .next (s.raise f)) ∨
      (∃ t, body = .ok t ∧ coreWord i rule lvl s body ok = .next t.finish) := by
  unfold coreWord
  split
  · exact .inl ⟨_, rfl⟩
  · split
    · exact .inl ⟨_, rfl⟩
    · cases body with
      | error f => exact .inl ⟨f, rfl⟩
      | ok t => exact .inr ⟨t, rfl, rfl⟩

theorem coreWord_goesOn (i : Instr) (rule : PfxRule) (lvl : Nat) (s : State) (body : Verdict) (ok : Bool) :
    goesOn (coreWord i rule lvl s body ok) := by
  rcases coreWord_cases i rule lvl s body ok with ⟨_, h⟩ | ⟨_, _, h⟩ <;> exact ⟨_, h⟩

/-- An L word starts a fault or does its effect, and never stops the machine. -/
theorem linkWord_cases (i : Instr) (x : Bool) (xm : BitVec 20 → Bool) (ok r : Bool) (s : State) (body : LinkVerdict) :
    (∃ c cause at_ a, linkWord i x xm ok r s body = .next (s.linkFault s.who.link c cause at_ a)) ∨
      (∃ t, body = .ok t ∧
        linkWord i x xm ok r s body = .next (t.updLink s.who.link fun l => { l with latch := {} })) := by
  unfold linkWord
  split
  · exact .inl ⟨_, _, _, _, rfl⟩
  · split
    · exact .inl ⟨_, _, _, _, rfl⟩
    · exact .inr ⟨_, rfl, rfl⟩

theorem linkWord_goesOn (i : Instr) (x : Bool) (xm : BitVec 20 → Bool) (ok r : Bool) (s : State) (body : LinkVerdict) :
    goesOn (linkWord i x xm ok r s body) := by
  rcases linkWord_cases i x xm ok r s body with ⟨_, _, _, _, h⟩ | ⟨_, _, h⟩ <;> exact ⟨_, h⟩

/-! ### Checks -/

theorem checked_none (t : State) : checked none t = .ok t := rfl
theorem checked_some (f : Raised) (t : State) : checked (some f) t = .error f := rfl

theorem firstFault_nil : firstFault [] = none := rfl
theorem firstFault_cons_none (xs : List (Option Raised)) : firstFault (none :: xs) = firstFault xs := rfl
theorem firstFault_cons_some (f : Raised) (xs : List (Option Raised)) : firstFault (some f :: xs) = some f := rfl

/-- Checks pass exactly when each of them does. -/
theorem firstFault_eq_none (xs : List (Option Raised)) : firstFault xs = none ↔ ∀ x ∈ xs, x = none := by
  induction xs with
  | nil => simp [firstFault]
  | cons x t ih => cases x <;> simp [firstFault, ih]

theorem faultIf_eq_none (b : Bool) (c : FaultCode) (a : Word) : faultIf b c a = none ↔ b = false := by
  cases b <;> simp [faultIf]

/-! ### Landing a result, and finishing -/

/-- A landing joins those of the word's slot, and nothing else changes. -/
theorem State.cur_land (s : State) (h : s.atSlot) (L : Nat) (e : Effect) (cls : Option Nat) :
    (s.land L e cls).cur = { s.cur with landings := s.cur.landings ++
      [{ cyc := s.who.cyc + L, iss := s.who.cyc, seq := s.who.q.seq, idx := s.who.q.idx, word := s.who.q.word
         cls := cls, pfx := s.who.q.pfx, eff := e }] } := by
  show (s.updSlot s.who.core s.who.slot _).slot s.who.core s.who.slot = _
  rw [State.slot_updSlot_same _ _ _ _ h.1 h.2]
  rfl

theorem State.slot_land_other (s : State) (L : Nat) (e : Effect) (cls : Option Nat) (c n : Nat)
    (h : s.who.core ≠ c ∨ s.who.slot ≠ n) : (s.land L e cls).slot c n = s.slot c n :=
  s.slot_updSlot_ne _ _ _ _ _ h

/-- A word that completes after an update of its slot clears the suppress-once flag where it was set for that word. -/
theorem State.finish_updCur (s : State) (h : s.atSlot) (f : Slot → Slot) (h1 : (f s.cur).freeze = s.cur.freeze)
    (h2 : (f s.cur).supp = s.cur.supp) (h3 : (f s.cur).hpc = s.cur.hpc) :
    (s.updCur f).finish = s.setSlot s.who.core s.who.slot { f s.cur with supp := s.suppNext } := by
  have hc : (s.updCur f).cur = f s.cur := s.slot_updSlot_same _ _ _ h.1 h.2
  unfold State.finish State.suppNext
  rw [hc, h1, h2, h3]
  show (if (s.cur.freeze.isNone && s.cur.supp && s.who.q.idx == s.cur.hpc) = true then _ else _) = _
  split
  · rename_i g
    refine (State.updSlot_updSlot s _ _ _ _ h.1 h.2).trans ?_
    simp only [Bool.and_eq_true] at g
    rw [g.1.1, g.1.2, g.2]
    rfl
  · rename_i g
    have : s.cur.supp = (s.cur.supp && !(s.cur.freeze.isNone && s.who.q.idx == s.cur.hpc)) := by
      revert g
      cases s.cur.supp <;> cases s.cur.freeze.isNone <;> cases (s.who.q.idx == s.cur.hpc) <;> simp
    rw [← this, ← h2]
    rfl

/-- A word that completes with results on their way leaves them in its slot, and changes nothing else. -/
theorem State.finish_landings (s : State) (h : s.atSlot) (xs : List Landing) :
    (s.updCur fun t => { t with landings := t.landings ++ xs }).finish = s.landed xs :=
  s.finish_updCur h _ rfl rfl rfl

theorem State.finish_land (s : State) (h : s.atSlot) (L : Nat) (e : Effect) (cls : Option Nat) :
    (s.land L e cls).finish = s.landed [s.landing L e cls] := s.finish_landings h _

/-- Two results of one word. -/
theorem State.land_land (s : State) (h : s.atSlot) (L M : Nat) (e f : Effect) (c d : Option Nat) :
    (s.land L e c).land M f d
      = s.updCur fun t => { t with landings := t.landings ++ [s.landing L e c, s.landing M f d] } := by
  refine (State.updSlot_updSlot s s.who.core s.who.slot (fun t => { t with landings := t.landings ++ [s.landing L e c] })
    (fun t => { t with landings := t.landings ++ [s.landing M f d] }) h.1 h.2).trans ?_
  simp [State.updCur, State.updSlot]

/-- Finishing a word changes nothing outside the cores. -/
theorem State.finish_outside (s : State) : s.finish = { s with cores := s.finish.cores } := by
  unfold State.finish
  split <;> rfl

@[simp] theorem State.finish_mem (s : State) : s.finish.mem = s.mem := by rw [State.finish_outside]
@[simp] theorem State.finish_hostMem (s : State) : s.finish.hostMem = s.hostMem := by rw [State.finish_outside]
@[simp] theorem State.finish_tick (s : State) : s.finish.tick = s.tick := by rw [State.finish_outside]
@[simp] theorem State.finish_who (s : State) : s.finish.who = s.who := by rw [State.finish_outside]

/-- A finished word leaves its slot as it is, but for the suppress-once flag. -/
theorem State.cur_finish (s : State) (h : s.atSlot) : s.finish.cur = s.cur ∨ s.finish.cur = { s.cur with supp := false } := by
  unfold State.finish
  split
  · exact .inr (s.slot_updSlot_same _ _ _ h.1 h.2)
  · exact .inl rfl

theorem State.slot_finish_other (s : State) (c n : Nat) (h : s.who.core ≠ c ∨ s.who.slot ≠ n) :
    s.finish.slot c n = s.slot c n := by
  unfold State.finish
  split
  · exact s.slot_updSlot_ne _ _ _ _ _ h
  · rfl

/-- Where no flag is to be cleared, finishing changes nothing. -/
theorem State.finish_of_supp (s : State) (h : s.cur.supp = false) : s.finish = s := by
  unfold State.finish
  simp [h]

/-! ### Raising a fault -/

/-- The word goes back to the head of its queue for the next task cycle; the fault first in order stands. -/
theorem State.cur_raise (s : State) (h : s.atSlot) (f : Raised) :
    (s.raise f).cur = (s.cur.putBack s.who.q (s.who.cyc + 1)).takeFault (s.faultOf f) (s.tick, s.me.cyc) :=
  s.slot_updSlot_same _ _ _ h.1 h.2

theorem State.slot_raise_other (s : State) (f : Raised) (c n : Nat) (h : s.who.core ≠ c ∨ s.who.slot ≠ n) :
    (s.raise f).slot c n = s.slot c n :=
  s.slot_updSlot_ne _ _ _ _ _ h

/-! ### Loads before a join -/

/-- Writing a list of old values leaves each byte at one of them or as it was. -/
theorem Memory.get_olds (xs : List Old) (m : Memory) (y : Nat) :
    (xs.foldl (fun m x => m.set x.key x.byte) m).get y = m.get y ∨
      ∃ x ∈ xs, x.key = y ∧ x.byte = (xs.foldl (fun m x => m.set x.key x.byte) m).get y := by
  induction xs generalizing m with
  | nil => exact .inl rfl
  | cons x t ih =>
    rcases ih (m.set x.key x.byte) with h | ⟨z, hz, h⟩
    · rw [List.foldl_cons, h, Memory.get_set]
      split
      · next e => exact .inr ⟨x, List.mem_cons_self .., e.symm, rfl⟩
      · exact .inl rfl
    · exact .inr ⟨z, List.mem_cons_of_mem _ hz, h⟩

theorem State.raceOld_spec (s : State) (d : Bool) (l : Option Nat) (c q k : Nat) :
    (s.raceOld d l c q k).2 = { s with free := (s.raceOld d l c q k).2.free } := by
  cases d <;> rfl

/-- One write on a load's way: of the state at most the free counter changes, and each byte stands or takes an old value. -/
theorem LoadPick.step_spec (p : LoadPick) (olds : List Old) (keys : List Nat) (n : Nat) :
    (p.step olds keys n).st = { p.st with free := (p.step olds keys n).st.free } ∧
    ∀ y, (p.step olds keys n).mem.get y = p.mem.get y ∨
      ∃ x ∈ olds, x.key = y ∧ x.byte = (p.step olds keys n).mem.get y := by
  unfold LoadPick.step
  extract_lets mine take
  split
  · exact ⟨rfl, fun _ => .inl rfl⟩
  · split
    · exact ⟨rfl, fun _ => .inl rfl⟩
    · extract_lets r
      split
      · exact ⟨State.raceOld_spec .., fun y => (Memory.get_olds mine p.mem y).imp_right fun ⟨x, hx, h⟩ =>
          ⟨x, (List.mem_filter.1 hx).1, h⟩⟩
      · exact ⟨State.raceOld_spec .., fun _ => .inl rfl⟩

theorem LoadPick.fold_spec (olds : List Old) (keys : List Nat) (ns : List Nat) (p : LoadPick) :
    let r := ns.foldl (fun p n => p.step olds keys n) p
    r.st = { p.st with free := r.st.free } ∧
    ∀ y, r.mem.get y = p.mem.get y ∨ ∃ x ∈ olds, x.key = y ∧ x.byte = r.mem.get y := by
  induction ns generalizing p with
  | nil => exact ⟨rfl, fun _ => .inl rfl⟩
  | cons n t ih =>
    obtain ⟨h1, h2⟩ := ih (p.step olds keys n)
    obtain ⟨g1, g2⟩ := p.step_spec olds keys n
    refine ⟨?_, fun y => ?_⟩
    · rw [List.foldl_cons, h1, g1]
    · rcases h2 y with h | h
      · rw [List.foldl_cons, h]
        exact g2 y
      · exact .inr h

/-- Keeping old values changes no slot. -/
theorem State.slot_keepOlds (s : State) (k : Core → Core) (hk : ∀ c n, (k c).slot n = c.slot n) (c n : Nat) :
    (s.updMe k).slot c n = s.slot c n := by
  show ((s.updCore s.who.core k).core c).slot n = _
  by_cases h : s.who.core = c
  · subst h
    by_cases hc : s.who.core < 64
    · rw [State.core_updCore_same _ _ _ hc]
      exact hk _ _
    · simp [State.slot, State.core, State.updCore, hc]
  · rw [State.core_updCore_ne _ _ _ _ h]
    rfl

/-- A load changes nothing but the free counter and which older values its core still holds, and reads of each byte what memory
holds, or what it held before an unjoined operation of the task wrote it (R134, R177, R288). -/
theorem State.loadMem_spec (s : State) (addrs : List Nat) :
    (s.loadMem addrs).2 = { s with free := (s.loadMem addrs).2.free, cores := (s.loadMem addrs).2.cores } ∧
    (∀ c n, (s.loadMem addrs).2.slot c n = s.slot c n) ∧
    ∀ y, (s.loadMem addrs).1.get y = s.mem.get y ∨
      ∃ x ∈ s.me.olds s.who.slot, x.key = y ∧ x.byte = (s.loadMem addrs).1.get y := by
  unfold State.loadMem
  extract_lets olds keys p
  split
  · exact ⟨rfl, fun _ _ => rfl, fun _ => .inl rfl⟩
  · obtain ⟨h1, h2⟩ := LoadPick.fold_spec olds keys ((List.range s.me.writes).reverse) { mem := s.mem, st := s }
    have h : p.st = { s with free := p.st.free } := h1
    refine ⟨?_, fun c n => ?_, h2⟩
    · rw [h]
      rfl
    · refine (State.slot_keepOlds p.st (fun k => k.keepOlds s.who.slot _) (fun _ _ => rfl) c n).trans ?_
      rw [h]
      rfl

/-- With no older value standing for the task, a load reads memory and changes nothing. -/
theorem State.loadMem_eq {s : State} {addrs : List Nat} (h : s.me.olds s.who.slot = []) :
    s.loadMem addrs = (s.mem, s) := by
  simp [State.loadMem, h]

/-! ### Writing memory -/

theorem State.memOk_congr {s t : State} (h1 : t.mem = s.mem) (h2 : t.hostMem = s.hostMem) : t.memOk ↔ s.memOk := by
  unfold State.memOk
  rw [h1, h2]

/-- A write of masked core-local bytes keeps the memories canonical. -/
theorem State.memOk_writeLocal {s : State} (h : s.memOk) (c : Nat) (xs : List MByte) : (s.writeLocal c xs).memOk :=
  ⟨Memory.wf_writeMasked h.1 _, h.2⟩

/-- A core-local write changes no other byte of package memory. -/
theorem State.get_writeLocal (s : State) (c a : Nat) (xs : List MByte) (h : ∀ x ∈ xs, localAddr c x.addr ≠ a) :
    (s.writeLocal c xs).mem.get a = s.mem.get a := by
  refine Memory.get_writeMasked_of_not_mem _ _ _ fun y hy => ?_
  obtain ⟨x, hx, rfl⟩ := List.mem_map.1 hy
  exact h x hx

theorem State.foldl_keeps {α : Type} {P : State → Prop} (f : State → α → State)
    (hf : ∀ s a, P s → P (f s a)) (xs : List α) {s : State} (h : P s) : P (xs.foldl f s) := by
  induction xs generalizing s with
  | nil => exact h
  | cons x t ih => exact ih (hf s x h)

end Sys2Proof.Machine
end

