-- ==== Sys2Proof/Laws/Outcomes.lean ====
section
/-!
SUPPORT. No meaning stops the machine: each answers a next state.
-/
namespace Sys2Proof.Machine

theorem goesOn_next (t : State) : goesOn (.next t) := ⟨t, rfl⟩

theorem goesOn_ite {c : Prop} [Decidable c] {a b : Step} (ha : goesOn a) (hb : goesOn b) :
    goesOn (if c then a else b) := by
  split
  · exact ha
  · exact hb

theorem toG_goesOn (i : Instr) (L : Nat) (d : BitVec 6) (v : Word) (s : State) : goesOn (toG i L d v s) :=
  coreWord_goesOn ..
theorem toP_goesOn (i : Instr) (d : BitVec 6) (v : Word) (s : State) : goesOn (toP i d v s) := coreWord_goesOn ..
theorem immWord_goesOn (i : Instr) (n : Nat) (sx : Bool) (imm : Nat) (s : State) (body : Word → Verdict) :
    goesOn (immWord i n sx imm s body) := by
  unfold immWord
  exact coreWord_goesOn ..
theorem immToG_goesOn (i : Instr) (n : Nat) (sx : Bool) (imm : Nat) (d : BitVec 6) (f : Word → Word) (s : State) :
    goesOn (immToG i n sx imm d f s) := immWord_goesOn ..
theorem toV_goesOn (i : Instr) (rule : PfxRule) (L : Nat) (d : BitVec 5) (chk : Option Raised) (f : Nat → Nat × Flags)
    (s : State) : goesOn (toV i rule L d chk f s) := by
  unfold toV
  exact coreWord_goesOn ..
theorem logicWord_goesOn (i : Instr) (op : Half → Half → Half) (d a b : BitVec 5) (m : BitVec 2) (s : State) :
    goesOn (logicWord i op d a b m s) := toV_goesOn ..
theorem copyWord_goesOn (i : Instr) (rule : PfxRule) (k : OpKind) (d a : BitVec 5) (g : BitVec 6) (c : BitVec 4)
    (fix : Op → Op) (s : State) : goesOn (copyWord i rule k d a g c fix s) := by
  unfold copyWord
  exact coreWord_goesOn ..
theorem deadlineWord_goesOn (i : Instr) (imm : BitVec 8) (s : State) (body : Word → Verdict) :
    goesOn (deadlineWord i imm s body) := by
  unfold deadlineWord
  extract_lets
  exact goesOn_ite (goesOn_next _) (coreWord_goesOn ..)
theorem offsetWord_goesOn (i : Instr) (sx : Bool) (lvl : Nat) (imm : BitVec 8) (s : State) (body : Word → Verdict) :
    goesOn (offsetWord i sx lvl imm s body) := by
  unfold offsetWord
  exact coreWord_goesOn ..
theorem waitWord_goesOn (i : Instr) (b : Bool) (comp : Word) (x : Nat) (h : Hold) (imm : BitVec 8) (s : State) :
    goesOn (waitWord i b comp x h imm s) := deadlineWord_goesOn ..
theorem testWord_goesOn (i : Instr) (b : Bool) (comp : Word) (x : Nat) (h : Hold) (imm : BitVec 8) (s : State) :
    goesOn (testWord i b comp x h imm s) := deadlineWord_goesOn ..
theorem prefixWord_goesOn (i : Instr) (tgt : BitVec 3) (s : State) : goesOn (prefixWord i tgt s) := by
  unfold prefixWord
  extract_lets
  repeat' (first | exact goesOn_next _ | exact coreWord_goesOn .. | split)
theorem nodeStep_goesOn (kind n : Nat) (s : State) (body : Job → Graph → State) : goesOn (nodeStep kind n s body) := by
  unfold nodeStep
  repeat' (first | exact goesOn_next _ | split)
theorem command_goesOn (s : State) (att code : Nat) (allowed : Bool) (done : Option State) :
    goesOn (s.command att code allowed done) := goesOn_next _
theorem tap_goesOn (s : State) (ir : Byte) (x : Word) (f : Debug → Debug) : goesOn (s.tap ir x f) := by
  unfold State.tap
  exact goesOn_next _
theorem arith2Word_goesOn (i : Instr) (op : Arith2) (r : Bool) (L : Nat) (d a b : BitVec 5) (fs : BitVec 3) (m : BitVec 2)
    (s : State) :
    goesOn (arith2Word i op r L d a b fs m s) := by
  unfold arith2Word
  exact toV_goesOn ..
theorem fmaWord_goesOn (i : Instr) (p n : Bool) (d a b : BitVec 5) (fs : BitVec 3) (m : BitVec 2) (s : State) :
    goesOn (fmaWord i p n d a b fs m s) := by
  unfold fmaWord
  exact toV_goesOn ..
theorem specialWord_goesOn (i : Instr) (op : Special) (d a : BitVec 5) (fs : BitVec 3) (s : State) :
    goesOn (specialWord i op d a fs s) := by
  unfold specialWord
  exact toV_goesOn ..
theorem shiftWord_goesOn (i : Instr) (op : Nat → Nat → Nat → Nat) (d a b : BitVec 5) (fs : BitVec 3) (m : BitVec 2)
    (s : State) :
    goesOn (shiftWord i op d a b fs m s) := by
  unfold shiftWord
  exact toV_goesOn ..
theorem compareWord_goesOn (i : Instr) (r : Rel) (p : BitVec 6) (a b : BitVec 5) (fs : BitVec 3) (s : State) :
    goesOn (compareWord i r p a b fs s) := by
  unfold compareWord
  exact coreWord_goesOn ..
theorem reduceWord_goesOn (i : Instr) (op : Arith2) (r : Bool) (d a : BitVec 5) (fs : BitVec 3) (m : BitVec 2)
    (s : State) :
    goesOn (reduceWord i op r d a fs m s) := by
  unfold reduceWord
  exact coreWord_goesOn ..
theorem mmaWord_goesOn (i : Instr) (x : Bool) (c a : BitVec 5) (w : BitVec 2) (na nb no : BitVec 1) (s : State) :
    goesOn (mmaWord i x c a w na nb no s) := by
  unfold mmaWord
  exact coreWord_goesOn ..
theorem loadWord_goesOn (i : Instr) (x : Bool) (h : BitVec 5) (w : BitVec 2) (bc trn : BitVec 1) (s : State) :
    goesOn (loadWord i x h w bc trn s) := by
  unfold loadWord
  exact coreWord_goesOn ..
theorem scaleWord_goesOn (i : Instr) (k : MatKind) (c h : BitVec 5) (s : State) :
    goesOn (scaleWord i k c h s) := by
  unfold scaleWord
  exact coreWord_goesOn ..
theorem gatherWord_goesOn (i : Instr) (k : OpKind) (a : BitVec 6) (c : BitVec 4) (s : State) :
    goesOn (gatherWord i k a c s) := by
  unfold gatherWord
  exact coreWord_goesOn ..
theorem atomicWord_goesOn (i : Instr) (k : OpKind) (d a : BitVec 6) (c : BitVec 4) (w : BitVec 2) (x : Bool)
    (s : State) :
    goesOn (atomicWord i k d a c w x s) := by
  unfold atomicWord
  exact coreWord_goesOn ..
theorem queueWord_goesOn (i : Instr) (k : OpKind) (d q : BitVec 6) (c : BitVec 4) (s : State) :
    goesOn (queueWord i k d q c s) := by
  unfold queueWord
  exact coreWord_goesOn ..
theorem managerWord_goesOn (i : Instr) (s : State) (checks : List (Option Raised)) : goesOn (managerWord i s checks) :=
  coreWord_goesOn ..
theorem tdispCommand_goesOn (att ctx : Nat) (xs : List Nat) (n : Nat)
    (s : State) : goesOn (tdispCommand att ctx xs n s) :=
  command_goesOn ..
theorem boundaryScan_goesOn (ir : Byte) (din : Word) (s : State) : goesOn (boundaryScan ir din s) := by
  unfold boundaryScan
  exact tap_goesOn ..

theorem execAdd_goesOn (x0 x1 x2 : BitVec 6) (s : State) :
    goesOn (execAdd x0 x1 x2 s) := by
  unfold execAdd
  exact toG_goesOn ..
theorem execSub_goesOn (x0 x1 x2 : BitVec 6) (s : State) :
    goesOn (execSub x0 x1 x2 s) := by
  unfold execSub
  exact toG_goesOn ..
theorem execAnd_goesOn (x0 x1 x2 : BitVec 6) (s : State) :
    goesOn (execAnd x0 x1 x2 s) := by
  unfold execAnd
  exact toG_goesOn ..
theorem execOr_goesOn (x0 x1 x2 : BitVec 6) (s : State) :
    goesOn (execOr x0 x1 x2 s) := by
  unfold execOr
  exact toG_goesOn ..
theorem execXor_goesOn (x0 x1 x2 : BitVec 6) (s : State) :
    goesOn (execXor x0 x1 x2 s) := by
  unfold execXor
  exact toG_goesOn ..
theorem execShl_goesOn (x0 x1 x2 : BitVec 6) (s : State) :
    goesOn (execShl x0 x1 x2 s) := by
  unfold execShl
  exact toG_goesOn ..
theorem execShr_goesOn (x0 x1 x2 : BitVec 6) (s : State) :
    goesOn (execShr x0 x1 x2 s) := by
  unfold execShr
  exact toG_goesOn ..
theorem execSha_goesOn (x0 x1 x2 : BitVec 6) (s : State) :
    goesOn (execSha x0 x1 x2 s) := by
  unfold execSha
  exact toG_goesOn ..
theorem execMul_goesOn (x0 x1 x2 : BitVec 6) (s : State) :
    goesOn (execMul x0 x1 x2 s) := by
  unfold execMul
  exact toG_goesOn ..
theorem execMulh_goesOn (x0 x1 x2 : BitVec 6) (x3 : BitVec 2) (s : State) :
    goesOn (execMulh x0 x1 x2 x3 s) := by
  unfold execMulh
  exact toG_goesOn ..
theorem execDiv_goesOn (x0 x1 x2 : BitVec 6) (x3 : BitVec 2) (s : State) :
    goesOn (execDiv x0 x1 x2 x3 s) := by
  unfold execDiv
  exact toG_goesOn ..
theorem execRem_goesOn (x0 x1 x2 : BitVec 6) (x3 : BitVec 2) (s : State) :
    goesOn (execRem x0 x1 x2 x3 s) := by
  unfold execRem
  exact toG_goesOn ..
theorem execMin_goesOn (x0 x1 x2 : BitVec 6) (x3 : BitVec 2) (s : State) :
    goesOn (execMin x0 x1 x2 x3 s) := by
  unfold execMin
  exact toG_goesOn ..
theorem execMax_goesOn (x0 x1 x2 : BitVec 6) (x3 : BitVec 2) (s : State) :
    goesOn (execMax x0 x1 x2 x3 s) := by
  unfold execMax
  exact toG_goesOn ..
theorem execClz_goesOn (x0 x1 : BitVec 6) (s : State) :
    goesOn (execClz x0 x1 s) := by
  unfold execClz
  exact toG_goesOn ..
theorem execPopc_goesOn (x0 x1 : BitVec 6) (s : State) :
    goesOn (execPopc x0 x1 s) := by
  unfold execPopc
  exact toG_goesOn ..
theorem execAddi_goesOn (x0 x1 : BitVec 6) (x2 : BitVec 8) (s : State) :
    goesOn (execAddi x0 x1 x2 s) := by
  unfold execAddi
  exact immToG_goesOn ..
theorem execAndi_goesOn (x0 x1 : BitVec 6) (x2 : BitVec 8) (s : State) :
    goesOn (execAndi x0 x1 x2 s) := by
  unfold execAndi
  exact immToG_goesOn ..
theorem execOri_goesOn (x0 x1 : BitVec 6) (x2 : BitVec 8) (s : State) :
    goesOn (execOri x0 x1 x2 s) := by
  unfold execOri
  exact immToG_goesOn ..
theorem execXori_goesOn (x0 x1 : BitVec 6) (x2 : BitVec 8) (s : State) :
    goesOn (execXori x0 x1 x2 s) := by
  unfold execXori
  exact immToG_goesOn ..
theorem execShli_goesOn (x0 x1 x2 : BitVec 6) (s : State) :
    goesOn (execShli x0 x1 x2 s) := by
  unfold execShli
  exact toG_goesOn ..
theorem execShri_goesOn (x0 x1 x2 : BitVec 6) (s : State) :
    goesOn (execShri x0 x1 x2 s) := by
  unfold execShri
  exact toG_goesOn ..
theorem execShai_goesOn (x0 x1 x2 : BitVec 6) (s : State) :
    goesOn (execShai x0 x1 x2 s) := by
  unfold execShai
  exact toG_goesOn ..
theorem execLi_goesOn (x0 : BitVec 6) (x1 : BitVec 14) (s : State) :
    goesOn (execLi x0 x1 s) := by
  unfold execLi
  exact immToG_goesOn ..
theorem execLih_goesOn (x0 : BitVec 6) (x1 : BitVec 14) (s : State) :
    goesOn (execLih x0 x1 s) := by
  unfold execLih
  exact immToG_goesOn ..
theorem execBfx_goesOn (x0 x1 x2 : BitVec 6) (s : State) :
    goesOn (execBfx x0 x1 x2 s) := by
  unfold execBfx
  exact toG_goesOn ..
theorem execBfi_goesOn (x0 x1 x2 : BitVec 6) (s : State) :
    goesOn (execBfi x0 x1 x2 s) := by
  unfold execBfi
  exact toG_goesOn ..
theorem execAddsh_goesOn (x0 x1 x2 : BitVec 6) (x3 : BitVec 2) (s : State) :
    goesOn (execAddsh x0 x1 x2 x3 s) := by
  unfold execAddsh
  exact toG_goesOn ..
theorem execCmpeq_goesOn (x0 x1 x2 : BitVec 6) (s : State) :
    goesOn (execCmpeq x0 x1 x2 s) := by
  unfold execCmpeq
  exact toP_goesOn ..
theorem execCmpne_goesOn (x0 x1 x2 : BitVec 6) (s : State) :
    goesOn (execCmpne x0 x1 x2 s) := by
  unfold execCmpne
  exact toP_goesOn ..
theorem execCmplt_goesOn (x0 x1 x2 : BitVec 6) (x3 : BitVec 2) (s : State) :
    goesOn (execCmplt x0 x1 x2 x3 s) := by
  unfold execCmplt
  exact toP_goesOn ..
theorem execCmple_goesOn (x0 x1 x2 : BitVec 6) (x3 : BitVec 2) (s : State) :
    goesOn (execCmple x0 x1 x2 x3 s) := by
  unfold execCmple
  exact toP_goesOn ..
theorem execWidf_goesOn (x0 : BitVec 6) (x1 : BitVec 14) (s : State) :
    goesOn (execWidf x0 x1 s) := by
  unfold execWidf
  exact toG_goesOn ..
theorem execMovs_goesOn (x0 : BitVec 6) (x1 : BitVec 14) (s : State) :
    goesOn (execMovs x0 x1 s) := by
  unfold execMovs
  exact coreWord_goesOn ..
theorem execMovsw_goesOn (x0 : BitVec 6) (x1 : BitVec 14) (s : State) :
    goesOn (execMovsw x0 x1 s) := by
  unfold execMovsw
  exact coreWord_goesOn ..
theorem execSld_goesOn (x0 x1 : BitVec 6) (x2 : BitVec 4) (x3 : BitVec 2) (x4 : BitVec 1) (s : State) :
    goesOn (execSld x0 x1 x2 x3 x4 s) := by
  unfold execSld
  exact coreWord_goesOn ..
theorem execSst_goesOn (x0 x1 : BitVec 6) (x2 : BitVec 4) (x3 : BitVec 2) (s : State) :
    goesOn (execSst x0 x1 x2 x3 s) := by
  unfold execSst
  exact coreWord_goesOn ..
theorem execFslot_goesOn (x0 x1 : BitVec 6) (x2 : BitVec 8) (s : State) :
    goesOn (execFslot x0 x1 x2 s) := by
  unfold execFslot
  exact immWord_goesOn ..
theorem execShld_goesOn (x0 x1 : BitVec 6) (x2 : BitVec 8) (s : State) :
    goesOn (execShld x0 x1 x2 s) := by
  unfold execShld
  exact immWord_goesOn ..
theorem execShst_goesOn (x0 x1 : BitVec 6) (x2 : BitVec 8) (s : State) :
    goesOn (execShst x0 x1 x2 s) := by
  unfold execShst
  exact immWord_goesOn ..
theorem execShset_goesOn (x0 x1 : BitVec 6) (x2 : BitVec 4) (s : State) :
    goesOn (execShset x0 x1 x2 s) := by
  unfold execShset
  exact coreWord_goesOn ..
theorem execShget_goesOn (x0 x1 : BitVec 6) (x2 : BitVec 4) (s : State) :
    goesOn (execShget x0 x1 x2 s) := by
  unfold execShget
  exact toG_goesOn ..
theorem execBndset_goesOn (x0 x1 x2 : BitVec 6) (x3 : BitVec 2) (s : State) :
    goesOn (execBndset x0 x1 x2 x3 s) := by
  unfold execBndset
  exact coreWord_goesOn ..
theorem execPand_goesOn (x0 x1 x2 : BitVec 6) (x3 : BitVec 2) (s : State) :
    goesOn (execPand x0 x1 x2 x3 s) := by
  unfold execPand
  exact toP_goesOn ..
theorem execPor_goesOn (x0 x1 x2 : BitVec 6) (x3 : BitVec 2) (s : State) :
    goesOn (execPor x0 x1 x2 x3 s) := by
  unfold execPor
  exact toP_goesOn ..
theorem execPxor_goesOn (x0 x1 x2 : BitVec 6) (x3 : BitVec 2) (s : State) :
    goesOn (execPxor x0 x1 x2 x3 s) := by
  unfold execPxor
  exact toP_goesOn ..
theorem execPsetn_goesOn (x0 x1 : BitVec 6) (x2 : BitVec 8) (s : State) :
    goesOn (execPsetn x0 x1 x2 s) := by
  unfold execPsetn
  exact immWord_goesOn ..
theorem execPcnt_goesOn (x0 x1 : BitVec 6) (s : State) :
    goesOn (execPcnt x0 x1 s) := by
  unfold execPcnt
  exact toG_goesOn ..
theorem execPmovg_goesOn (x0 x1 : BitVec 6) (s : State) :
    goesOn (execPmovg x0 x1 s) := by
  unfold execPmovg
  exact toG_goesOn ..
theorem execPmovp_goesOn (x0 x1 : BitVec 6) (s : State) :
    goesOn (execPmovp x0 x1 s) := by
  unfold execPmovp
  exact toP_goesOn ..
theorem execPbr_goesOn (x0 : BitVec 3) (x1 : BitVec 17) (s : State) :
    goesOn (execPbr x0 x1 s) := by
  unfold execPbr
  exact immWord_goesOn ..
theorem execPbrg_goesOn (x0 x1 : BitVec 6) (x2 : BitVec 8) (s : State) :
    goesOn (execPbrg x0 x1 x2 s) := by
  unfold execPbrg
  exact immWord_goesOn ..
theorem execBr_goesOn (x0 : BitVec 6) (x1 : BitVec 3) (x2 : BitVec 2) (s : State) :
    goesOn (execBr x0 x1 x2 s) := by
  unfold execBr
  exact coreWord_goesOn ..
theorem execCall_goesOn (x0 x1 : BitVec 6) (s : State) :
    goesOn (execCall x0 x1 s) := by
  unfold execCall
  exact coreWord_goesOn ..
theorem execTmov_goesOn (x0 x1 : BitVec 6) (x2 : BitVec 2) (s : State) :
    goesOn (execTmov x0 x1 x2 s) := by
  unfold execTmov
  exact coreWord_goesOn ..
theorem execExit_goesOn (x0 : BitVec 20) (s : State) :
    goesOn (execExit x0 s) := by
  unfold execExit
  exact coreWord_goesOn ..
theorem execVadd_goesOn (x0 x1 x2 : BitVec 5) (x3 : BitVec 3) (x4 : BitVec 2) (s : State) :
    goesOn (execVadd x0 x1 x2 x3 x4 s) := by
  unfold execVadd
  exact arith2Word_goesOn ..
theorem execVsub_goesOn (x0 x1 x2 : BitVec 5) (x3 : BitVec 3) (x4 : BitVec 2) (s : State) :
    goesOn (execVsub x0 x1 x2 x3 x4 s) := by
  unfold execVsub
  exact arith2Word_goesOn ..
theorem execVmul_goesOn (x0 x1 x2 : BitVec 5) (x3 : BitVec 3) (x4 : BitVec 2) (s : State) :
    goesOn (execVmul x0 x1 x2 x3 x4 s) := by
  unfold execVmul
  exact arith2Word_goesOn ..
theorem execVfma_goesOn (x0 x1 x2 : BitVec 5) (x3 : BitVec 3) (x4 : BitVec 2) (s : State) :
    goesOn (execVfma x0 x1 x2 x3 x4 s) := by
  unfold execVfma
  exact fmaWord_goesOn ..
theorem execVfms_goesOn (x0 x1 x2 : BitVec 5) (x3 : BitVec 3) (x4 : BitVec 2) (s : State) :
    goesOn (execVfms x0 x1 x2 x3 x4 s) := by
  unfold execVfms
  exact fmaWord_goesOn ..
theorem execVfnma_goesOn (x0 x1 x2 : BitVec 5) (x3 : BitVec 3) (x4 : BitVec 2) (s : State) :
    goesOn (execVfnma x0 x1 x2 x3 x4 s) := by
  unfold execVfnma
  exact fmaWord_goesOn ..
theorem execVmin_goesOn (x0 x1 x2 : BitVec 5) (x3 : BitVec 3) (x4 : BitVec 2) (s : State) :
    goesOn (execVmin x0 x1 x2 x3 x4 s) := by
  unfold execVmin
  exact arith2Word_goesOn ..
theorem execVmax_goesOn (x0 x1 x2 : BitVec 5) (x3 : BitVec 3) (x4 : BitVec 2) (s : State) :
    goesOn (execVmax x0 x1 x2 x3 x4 s) := by
  unfold execVmax
  exact arith2Word_goesOn ..
theorem execVdiv_goesOn (x0 x1 x2 : BitVec 5) (x3 : BitVec 3) (x4 : BitVec 2) (s : State) :
    goesOn (execVdiv x0 x1 x2 x3 x4 s) := by
  unfold execVdiv
  exact arith2Word_goesOn ..
theorem execVsqrt_goesOn (x0 x1 : BitVec 5) (x2 : BitVec 3) (s : State) :
    goesOn (execVsqrt x0 x1 x2 s) := by
  unfold execVsqrt
  exact specialWord_goesOn ..
theorem execVrec_goesOn (x0 x1 : BitVec 5) (x2 : BitVec 3) (s : State) :
    goesOn (execVrec x0 x1 x2 s) := by
  unfold execVrec
  exact specialWord_goesOn ..
theorem execVrsq_goesOn (x0 x1 : BitVec 5) (x2 : BitVec 3) (s : State) :
    goesOn (execVrsq x0 x1 x2 s) := by
  unfold execVrsq
  exact specialWord_goesOn ..
theorem execVexp2_goesOn (x0 x1 : BitVec 5) (x2 : BitVec 3) (s : State) :
    goesOn (execVexp2 x0 x1 x2 s) := by
  unfold execVexp2
  exact specialWord_goesOn ..
theorem execVlog2_goesOn (x0 x1 : BitVec 5) (x2 : BitVec 3) (s : State) :
    goesOn (execVlog2 x0 x1 x2 s) := by
  unfold execVlog2
  exact specialWord_goesOn ..
theorem execVabs_goesOn (x0 x1 : BitVec 5) (x2 : BitVec 3) (s : State) :
    goesOn (execVabs x0 x1 x2 s) := by
  unfold execVabs
  exact toV_goesOn ..
theorem execVneg_goesOn (x0 x1 : BitVec 5) (x2 : BitVec 3) (s : State) :
    goesOn (execVneg x0 x1 x2 s) := by
  unfold execVneg
  exact toV_goesOn ..
theorem execVcvt_goesOn (x0 x1 : BitVec 5) (x2 x3 : BitVec 3) (s : State) :
    goesOn (execVcvt x0 x1 x2 x3 s) := by
  unfold execVcvt
  exact toV_goesOn ..
theorem execVand_goesOn (x0 x1 x2 : BitVec 5) (x3 : BitVec 2) (s : State) :
    goesOn (execVand x0 x1 x2 x3 s) := by
  unfold execVand
  exact logicWord_goesOn ..
theorem execVor_goesOn (x0 x1 x2 : BitVec 5) (x3 : BitVec 2) (s : State) :
    goesOn (execVor x0 x1 x2 x3 s) := by
  unfold execVor
  exact logicWord_goesOn ..
theorem execVxor_goesOn (x0 x1 x2 : BitVec 5) (x3 : BitVec 2) (s : State) :
    goesOn (execVxor x0 x1 x2 x3 s) := by
  unfold execVxor
  exact logicWord_goesOn ..
theorem execVshl_goesOn (x0 x1 x2 : BitVec 5) (x3 : BitVec 3) (x4 : BitVec 2) (s : State) :
    goesOn (execVshl x0 x1 x2 x3 x4 s) := by
  unfold execVshl
  exact shiftWord_goesOn ..
theorem execVshr_goesOn (x0 x1 x2 : BitVec 5) (x3 : BitVec 3) (x4 : BitVec 2) (s : State) :
    goesOn (execVshr x0 x1 x2 x3 x4 s) := by
  unfold execVshr
  exact shiftWord_goesOn ..
theorem execVsha_goesOn (x0 x1 x2 : BitVec 5) (x3 : BitVec 3) (x4 : BitVec 2) (s : State) :
    goesOn (execVsha x0 x1 x2 x3 x4 s) := by
  unfold execVsha
  exact shiftWord_goesOn ..
theorem execVcmpeq_goesOn (x0 : BitVec 6) (x1 x2 : BitVec 5) (x3 : BitVec 3) (s : State) :
    goesOn (execVcmpeq x0 x1 x2 x3 s) := by
  unfold execVcmpeq
  exact compareWord_goesOn ..
theorem execVcmpne_goesOn (x0 : BitVec 6) (x1 x2 : BitVec 5) (x3 : BitVec 3) (s : State) :
    goesOn (execVcmpne x0 x1 x2 x3 s) := by
  unfold execVcmpne
  exact compareWord_goesOn ..
theorem execVcmplt_goesOn (x0 : BitVec 6) (x1 x2 : BitVec 5) (x3 : BitVec 3) (s : State) :
    goesOn (execVcmplt x0 x1 x2 x3 s) := by
  unfold execVcmplt
  exact compareWord_goesOn ..
theorem execVcmple_goesOn (x0 : BitVec 6) (x1 x2 : BitVec 5) (x3 : BitVec 3) (s : State) :
    goesOn (execVcmple x0 x1 x2 x3 s) := by
  unfold execVcmple
  exact compareWord_goesOn ..
theorem execVcmpun_goesOn (x0 : BitVec 6) (x1 x2 : BitVec 5) (x3 : BitVec 3) (s : State) :
    goesOn (execVcmpun x0 x1 x2 x3 s) := by
  unfold execVcmpun
  exact compareWord_goesOn ..
theorem execVsel_goesOn (x0 x1 x2 x3 : BitVec 5) (s : State) :
    goesOn (execVsel x0 x1 x2 x3 s) := by
  unfold execVsel
  exact toV_goesOn ..
theorem execVpred_goesOn (x0 : BitVec 6) (s : State) :
    goesOn (execVpred x0 s) := by
  unfold execVpred
  exact coreWord_goesOn ..
theorem execVbcast_goesOn (x0 : BitVec 5) (x1 : BitVec 6) (x2 : BitVec 3) (x3 : BitVec 2) (s : State) :
    goesOn (execVbcast x0 x1 x2 x3 s) := by
  unfold execVbcast
  exact toV_goesOn ..
theorem execVlane_goesOn (x0 : BitVec 5) (x1 : BitVec 6) (x2 : BitVec 4) (x3 : BitVec 2) (s : State) :
    goesOn (execVlane x0 x1 x2 x3 s) := by
  unfold execVlane
  exact coreWord_goesOn ..
theorem execViota_goesOn (x0 : BitVec 5) (x1 : BitVec 3) (x2 : BitVec 2) (s : State) :
    goesOn (execViota x0 x1 x2 s) := by
  unfold execViota
  exact toV_goesOn ..
theorem execVperm_goesOn (x0 x1 x2 : BitVec 5) (x3 : BitVec 2) (s : State) :
    goesOn (execVperm x0 x1 x2 x3 s) := by
  unfold execVperm
  exact toV_goesOn ..
theorem execVrot_goesOn (x0 x1 x2 : BitVec 5) (x3 x4 : BitVec 1) (s : State) :
    goesOn (execVrot x0 x1 x2 x3 x4 s) := by
  unfold execVrot
  exact toV_goesOn ..
theorem execVredsum_goesOn (x0 x1 : BitVec 5) (x2 : BitVec 3) (x3 : BitVec 2) (s : State) :
    goesOn (execVredsum x0 x1 x2 x3 s) := by
  unfold execVredsum
  exact reduceWord_goesOn ..
theorem execVredmax_goesOn (x0 x1 : BitVec 5) (x2 : BitVec 3) (x3 : BitVec 2) (s : State) :
    goesOn (execVredmax x0 x1 x2 x3 s) := by
  unfold execVredmax
  exact reduceWord_goesOn ..
theorem execVredmin_goesOn (x0 x1 : BitVec 5) (x2 : BitVec 3) (x3 : BitVec 2) (s : State) :
    goesOn (execVredmin x0 x1 x2 x3 s) := by
  unfold execVredmin
  exact reduceWord_goesOn ..
theorem execVscan_goesOn (x0 x1 : BitVec 5) (x2 : BitVec 3) (x3 : BitVec 2) (s : State) :
    goesOn (execVscan x0 x1 x2 x3 s) := by
  unfold execVscan
  exact coreWord_goesOn ..
theorem execVld_goesOn (x0 : BitVec 5) (x1 : BitVec 6) (x2 : BitVec 4) (x3 : BitVec 3) (s : State) :
    goesOn (execVld x0 x1 x2 x3 s) := by
  unfold execVld
  repeat' (first | exact goesOn_next _ | exact coreWord_goesOn .. | split | extract_lets)
theorem execVst_goesOn (x0 : BitVec 5) (x1 : BitVec 6) (x2 : BitVec 4) (x3 : BitVec 3) (s : State) :
    goesOn (execVst x0 x1 x2 x3 s) := by
  unfold execVst
  repeat' (first | exact goesOn_next _ | exact coreWord_goesOn .. | split | extract_lets)
theorem execVlds_goesOn (x0 x1 x2 : BitVec 5) (x3 : BitVec 3) (s : State) :
    goesOn (execVlds x0 x1 x2 x3 s) := by
  unfold execVlds
  exact coreWord_goesOn ..
theorem execVsts_goesOn (x0 x1 x2 : BitVec 5) (x3 : BitVec 3) (s : State) :
    goesOn (execVsts x0 x1 x2 x3 s) := by
  unfold execVsts
  exact coreWord_goesOn ..
theorem execVlda_goesOn (x0 : BitVec 5) (x1 : BitVec 6) (x2 : BitVec 4) (x3 : BitVec 3) (s : State) :
    goesOn (execVlda x0 x1 x2 x3 s) := by
  unfold execVlda
  exact coreWord_goesOn ..
theorem execVsta_goesOn (x0 : BitVec 5) (x1 : BitVec 6) (x2 : BitVec 4) (x3 : BitVec 3) (s : State) :
    goesOn (execVsta x0 x1 x2 x3 s) := by
  unfold execVsta
  exact coreWord_goesOn ..
theorem execVrnd_goesOn (x0 x1 x2 : BitVec 5) (x3 : BitVec 2) (s : State) :
    goesOn (execVrnd x0 x1 x2 x3 s) := by
  unfold execVrnd
  exact toV_goesOn ..
theorem execVbnd_goesOn (x0 x1 x2 : BitVec 5) (x3 : BitVec 3) (s : State) :
    goesOn (execVbnd x0 x1 x2 x3 s) := by
  unfold execVbnd
  exact coreWord_goesOn ..
theorem execVscl_goesOn (x0 x1 x2 : BitVec 5) (x3 : BitVec 3) (x4 : BitVec 2) (s : State) :
    goesOn (execVscl x0 x1 x2 x3 x4 s) := by
  unfold execVscl
  exact toV_goesOn ..
theorem execVclass_goesOn (x0 x1 : BitVec 5) (x2 : BitVec 3) (s : State) :
    goesOn (execVclass x0 x1 x2 s) := by
  unfold execVclass
  exact toV_goesOn ..
theorem execMma_goesOn (x0 x1 : BitVec 5) (x2 : BitVec 2) (x3 x4 x5 : BitVec 1) (s : State) :
    goesOn (execMma x0 x1 x2 x3 x4 x5 s) := by
  unfold execMma
  exact mmaWord_goesOn ..
theorem execMmas_goesOn (x0 x1 : BitVec 5) (x2 : BitVec 2) (x3 x4 x5 : BitVec 1) (s : State) :
    goesOn (execMmas x0 x1 x2 x3 x4 x5 s) := by
  unfold execMmas
  exact mmaWord_goesOn ..
theorem execMldb_goesOn (x0 : BitVec 5) (x1 : BitVec 2) (x2 x3 : BitVec 1) (x4 : BitVec 4) (s : State) :
    goesOn (execMldb x0 x1 x2 x3 x4 s) := by
  unfold execMldb
  exact loadWord_goesOn ..
theorem execMldbs_goesOn (x0 : BitVec 5) (x1 : BitVec 2) (x2 x3 : BitVec 1) (x4 : BitVec 4) (s : State) :
    goesOn (execMldbs x0 x1 x2 x3 x4 s) := by
  unfold execMldbs
  exact loadWord_goesOn ..
theorem execMzero_goesOn (x0 : BitVec 5) (s : State) :
    goesOn (execMzero x0 s) := by
  unfold execMzero
  exact coreWord_goesOn ..
theorem execMout_goesOn (x0 x1 : BitVec 5) (s : State) :
    goesOn (execMout x0 x1 s) := by
  unfold execMout
  exact coreWord_goesOn ..
theorem execMscale_goesOn (x0 x1 : BitVec 5) (s : State) :
    goesOn (execMscale x0 x1 s) := by
  unfold execMscale
  exact scaleWord_goesOn ..
theorem execMaddt_goesOn (x0 x1 : BitVec 5) (s : State) :
    goesOn (execMaddt x0 x1 s) := by
  unfold execMaddt
  exact scaleWord_goesOn ..
theorem execMdrain_goesOn (s : State) :
    goesOn (execMdrain s) := by
  unfold execMdrain
  exact coreWord_goesOn ..
theorem execMslotinv_goesOn (x0 : BitVec 2) (s : State) :
    goesOn (execMslotinv x0 s) := by
  unfold execMslotinv
  exact coreWord_goesOn ..
theorem execCpy_goesOn (x0 x1 : BitVec 5) (x2 : BitVec 6) (x3 : BitVec 4) (s : State) :
    goesOn (execCpy x0 x1 x2 x3 s) := by
  unfold execCpy
  exact copyWord_goesOn ..
theorem execCpym_goesOn (x0 x1 : BitVec 5) (x2 : BitVec 6) (x3 : BitVec 4) (x4 : Half) (s : State) :
    goesOn (execCpym x0 x1 x2 x3 x4 s) := by
  unfold execCpym
  repeat' (first | exact goesOn_next _ | exact copyWord_goesOn .. | split | extract_lets)
theorem execCpyv_goesOn (x0 x1 : BitVec 5) (x2 : BitVec 6) (x3 : BitVec 4) (s : State) :
    goesOn (execCpyv x0 x1 x2 x3 s) := by
  unfold execCpyv
  exact copyWord_goesOn ..
theorem execLnset_goesOn (x0 x1 : BitVec 6) (x2 : BitVec 8) (s : State) :
    goesOn (execLnset x0 x1 x2 s) := by
  unfold execLnset
  exact coreWord_goesOn ..
theorem execLnrun_goesOn (x0 x1 : BitVec 5) (x2 : BitVec 6) (x3 : BitVec 4) (s : State) :
    goesOn (execLnrun x0 x1 x2 x3 s) := by
  unfold execLnrun
  repeat' (first | exact goesOn_next _ | exact copyWord_goesOn .. | split | extract_lets)
theorem execLnclr_goesOn (s : State) :
    goesOn (execLnclr s) := by
  unfold execLnclr
  exact coreWord_goesOn ..
theorem execMcst_goesOn (x0 x1 : BitVec 5) (x2 : BitVec 6) (x3 : BitVec 4) (s : State) :
    goesOn (execMcst x0 x1 x2 x3 s) := by
  unfold execMcst
  exact coreWord_goesOn ..
theorem execNfill_goesOn (x0 x1 : BitVec 5) (x2 : BitVec 6) (x3 : BitVec 4) (s : State) :
    goesOn (execNfill x0 x1 x2 x3 s) := by
  unfold execNfill
  exact copyWord_goesOn ..
theorem execNcopy_goesOn (x0 x1 : BitVec 5) (x2 : BitVec 6) (x3 : BitVec 4) (s : State) :
    goesOn (execNcopy x0 x1 x2 x3 s) := by
  unfold execNcopy
  exact copyWord_goesOn ..
theorem execNcmp_goesOn (x0 x1 : BitVec 5) (x2 : BitVec 6) (x3 : BitVec 4) (s : State) :
    goesOn (execNcmp x0 x1 x2 x3 s) := by
  unfold execNcmp
  exact copyWord_goesOn ..
theorem execNred_goesOn (x0 x1 : BitVec 5) (x2 : BitVec 6) (x3 : BitVec 4) (s : State) :
    goesOn (execNred x0 x1 x2 x3 s) := by
  unfold execNred
  exact copyWord_goesOn ..
theorem execCinit_goesOn (x0 x1 : BitVec 5) (x2 : BitVec 6) (x3 : BitVec 4) (s : State) :
    goesOn (execCinit x0 x1 x2 x3 s) := by
  unfold execCinit
  exact copyWord_goesOn ..
theorem execGath_goesOn (x0 : BitVec 6) (x1 : BitVec 4) (s : State) :
    goesOn (execGath x0 x1 s) := by
  unfold execGath
  exact gatherWord_goesOn ..
theorem execGbag_goesOn (x0 : BitVec 6) (x1 : BitVec 4) (s : State) :
    goesOn (execGbag x0 x1 s) := by
  unfold execGbag
  exact gatherWord_goesOn ..
theorem execGscat_goesOn (x0 : BitVec 6) (x1 : BitVec 4) (s : State) :
    goesOn (execGscat x0 x1 s) := by
  unfold execGscat
  exact gatherWord_goesOn ..
theorem execGsadd_goesOn (x0 : BitVec 6) (x1 : BitVec 4) (s : State) :
    goesOn (execGsadd x0 x1 s) := by
  unfold execGsadd
  exact gatherWord_goesOn ..
theorem execAadd_goesOn (x0 x1 : BitVec 6) (x2 : BitVec 4) (x3 : BitVec 2) (s : State) :
    goesOn (execAadd x0 x1 x2 x3 s) := by
  unfold execAadd
  exact atomicWord_goesOn ..
theorem execAand_goesOn (x0 x1 : BitVec 6) (x2 : BitVec 4) (x3 : BitVec 2) (s : State) :
    goesOn (execAand x0 x1 x2 x3 s) := by
  unfold execAand
  exact atomicWord_goesOn ..
theorem execAor_goesOn (x0 x1 : BitVec 6) (x2 : BitVec 4) (x3 : BitVec 2) (s : State) :
    goesOn (execAor x0 x1 x2 x3 s) := by
  unfold execAor
  exact atomicWord_goesOn ..
theorem execAxor_goesOn (x0 x1 : BitVec 6) (x2 : BitVec 4) (x3 : BitVec 2) (s : State) :
    goesOn (execAxor x0 x1 x2 x3 s) := by
  unfold execAxor
  exact atomicWord_goesOn ..
theorem execAmin_goesOn (x0 x1 : BitVec 6) (x2 : BitVec 4) (x3 : BitVec 2) (x4 : BitVec 1) (s : State) :
    goesOn (execAmin x0 x1 x2 x3 x4 s) := by
  unfold execAmin
  exact atomicWord_goesOn ..
theorem execAmax_goesOn (x0 x1 : BitVec 6) (x2 : BitVec 4) (x3 : BitVec 2) (x4 : BitVec 1) (s : State) :
    goesOn (execAmax x0 x1 x2 x3 x4 s) := by
  unfold execAmax
  exact atomicWord_goesOn ..
theorem execAfadd_goesOn (x0 x1 : BitVec 6) (x2 : BitVec 4) (x3 : BitVec 2) (s : State) :
    goesOn (execAfadd x0 x1 x2 x3 s) := by
  unfold execAfadd
  exact atomicWord_goesOn ..
theorem execAswap_goesOn (x0 x1 : BitVec 6) (x2 : BitVec 4) (x3 : BitVec 2) (s : State) :
    goesOn (execAswap x0 x1 x2 x3 s) := by
  unfold execAswap
  exact atomicWord_goesOn ..
theorem execAcas_goesOn (x0 x1 : BitVec 6) (x2 : BitVec 4) (x3 : BitVec 2) (s : State) :
    goesOn (execAcas x0 x1 x2 x3 s) := by
  unfold execAcas
  exact atomicWord_goesOn ..
theorem execQpush_goesOn (x0 x1 : BitVec 6) (x2 : BitVec 4) (s : State) :
    goesOn (execQpush x0 x1 x2 s) := by
  unfold execQpush
  exact queueWord_goesOn ..
theorem execQpop_goesOn (x0 x1 : BitVec 6) (x2 : BitVec 4) (s : State) :
    goesOn (execQpop x0 x1 x2 s) := by
  unfold execQpop
  exact queueWord_goesOn ..
theorem execSwinit_goesOn (x0 x1 : BitVec 6) (x2 : BitVec 4) (s : State) :
    goesOn (execSwinit x0 x1 x2 s) := by
  unfold execSwinit
  exact coreWord_goesOn ..
theorem execArrive_goesOn (x0 x1 : BitVec 6) (x2 : BitVec 4) (s : State) :
    goesOn (execArrive x0 x1 x2 s) := by
  unfold execArrive
  exact coreWord_goesOn ..
theorem execWaitg_goesOn (x0 x1 : BitVec 6) (x2 : BitVec 8) (s : State) :
    goesOn (execWaitg x0 x1 x2 s) := by
  unfold execWaitg
  exact waitWord_goesOn ..
theorem execWaitm_goesOn (x0 x1 : BitVec 6) (x2 : BitVec 8) (s : State) :
    goesOn (execWaitm x0 x1 x2 s) := by
  unfold execWaitm
  exact waitWord_goesOn ..
theorem execTestg_goesOn (x0 x1 : BitVec 6) (x2 : BitVec 8) (s : State) :
    goesOn (execTestg x0 x1 x2 s) := by
  unfold execTestg
  exact testWord_goesOn ..
theorem execTestm_goesOn (x0 x1 : BitVec 6) (x2 : BitVec 8) (s : State) :
    goesOn (execTestm x0 x1 x2 s) := by
  unfold execTestm
  exact testWord_goesOn ..
theorem execAlign_goesOn (x0 x1 : BitVec 6) (x2 : BitVec 8) (s : State) :
    goesOn (execAlign x0 x1 x2 s) := by
  unfold execAlign
  exact deadlineWord_goesOn ..
theorem execFence_goesOn (x0 : BitVec 16) (x1 x2 : BitVec 2) (s : State) :
    goesOn (execFence x0 x1 x2 s) := by
  unfold execFence
  exact coreWord_goesOn ..
theorem execTrap_goesOn (x0 : BitVec 20) (s : State) :
    goesOn (execTrap x0 s) := by
  unfold execTrap
  exact coreWord_goesOn ..
theorem execRett_goesOn (s : State) :
    goesOn (execRett s) := by
  unfold execRett
  exact coreWord_goesOn ..
theorem execFtw_goesOn (x0 x1 : BitVec 6) (x2 : BitVec 8) (s : State) :
    goesOn (execFtw x0 x1 x2 s) := by
  unfold execFtw
  exact offsetWord_goesOn ..
theorem execFtr_goesOn (x0 x1 : BitVec 6) (x2 : BitVec 8) (s : State) :
    goesOn (execFtr x0 x1 x2 s) := by
  unfold execFtr
  exact offsetWord_goesOn ..
theorem execBfmt_goesOn (x0 x1 : BitVec 6) (x2 : BitVec 8) (s : State) :
    goesOn (execBfmt x0 x1 x2 s) := by
  unfold execBfmt
  exact offsetWord_goesOn ..
theorem execFlowreq_goesOn (x0 x1 x2 : BitVec 6) (s : State) :
    goesOn (execFlowreq x0 x1 x2 s) := by
  unfold execFlowreq
  exact coreWord_goesOn ..
theorem execEvent_goesOn (x0 : BitVec 6) (x1 : BitVec 14) (s : State) :
    goesOn (execEvent x0 x1 s) := by
  unfold execEvent
  exact coreWord_goesOn ..
theorem execWpset_goesOn (x0 x1 x2 : BitVec 6) (s : State) :
    goesOn (execWpset x0 x1 x2 s) := by
  unfold execWpset
  exact coreWord_goesOn ..
theorem execIcinv_goesOn (x0 : BitVec 1) (s : State) :
    goesOn (execIcinv x0 s) := by
  unfold execIcinv
  exact coreWord_goesOn ..
theorem execWaitt_goesOn (x0 x1 : BitVec 6) (x2 : BitVec 8) (s : State) :
    goesOn (execWaitt x0 x1 x2 s) := by
  unfold execWaitt
  exact offsetWord_goesOn ..
theorem execFuserd_goesOn (x0 x1 : BitVec 6) (x2 : BitVec 8) (s : State) :
    goesOn (execFuserd x0 x1 x2 s) := by
  unfold execFuserd
  exact offsetWord_goesOn ..
theorem execKeywipe_goesOn (x0 : BitVec 6) (x1 : BitVec 14) (s : State) :
    goesOn (execKeywipe x0 x1 s) := by
  unfold execKeywipe
  exact managerWord_goesOn ..
theorem execKeyld_goesOn (x0 x1 x2 : BitVec 6) (s : State) :
    goesOn (execKeyld x0 x1 x2 s) := by
  unfold execKeyld
  exact managerWord_goesOn ..
theorem execDbgunlk_goesOn (x0 x1 x2 : BitVec 6) (s : State) :
    goesOn (execDbgunlk x0 x1 x2 s) := by
  unfold execDbgunlk
  exact managerWord_goesOn ..
theorem execMeasure_goesOn (x0 x1 : BitVec 6) (s : State) :
    goesOn (execMeasure x0 x1 s) := by
  unfold execMeasure
  exact managerWord_goesOn ..
theorem execAttest_goesOn (x0 x1 : BitVec 6) (s : State) :
    goesOn (execAttest x0 x1 s) := by
  unfold execAttest
  exact managerWord_goesOn ..
theorem execYield_goesOn (s : State) :
    goesOn (execYield s) := by
  unfold execYield
  exact coreWord_goesOn ..
theorem execLat_goesOn (x0 : BitVec 20) (s : State) :
    goesOn (execLat x0 s) := by
  unfold execLat
  exact linkWord_goesOn ..
theorem execLsend_goesOn (x0 x1 : BitVec 6) (x2 x3 : BitVec 1) (s : State) :
    goesOn (execLsend x0 x1 x2 x3 s) := by
  unfold execLsend
  exact linkWord_goesOn ..
theorem execLrecv_goesOn (x0 x1 : BitVec 6) (x2 : BitVec 1) (s : State) :
    goesOn (execLrecv x0 x1 x2 s) := by
  unfold execLrecv
  exact linkWord_goesOn ..
theorem execLfwd_goesOn (x0 : BitVec 6) (x1 : BitVec 4) (s : State) :
    goesOn (execLfwd x0 x1 s) := by
  unfold execLfwd
  exact linkWord_goesOn ..
theorem execLrfwd_goesOn (x0 x1 : BitVec 6) (x2 : BitVec 1) (x3 : BitVec 4) (s : State) :
    goesOn (execLrfwd x0 x1 x2 x3 s) := by
  unfold execLrfwd
  exact linkWord_goesOn ..
theorem execLradd_goesOn (x0 x1 : BitVec 6) (x2 : BitVec 1) (x3 : BitVec 3) (s : State) :
    goesOn (execLradd x0 x1 x2 x3 s) := by
  unfold execLradd
  exact linkWord_goesOn ..
theorem execLsig_goesOn (x0 x1 : BitVec 6) (x2 : BitVec 1) (s : State) :
    goesOn (execLsig x0 x1 x2 s) := by
  unfold execLsig
  exact linkWord_goesOn ..
theorem execLguard_goesOn (x0 : BitVec 20) (s : State) :
    goesOn (execLguard x0 s) := by
  unfold execLguard
  exact linkWord_goesOn ..
theorem execLloop_goesOn (x0 : BitVec 6) (x1 : BitVec 14) (s : State) :
    goesOn (execLloop x0 x1 s) := by
  unfold execLloop
  exact linkWord_goesOn ..
theorem execLend_goesOn (s : State) :
    goesOn (execLend s) := by
  unfold execLend
  exact linkWord_goesOn ..
theorem execLchk_goesOn (x0 : BitVec 6) (x1 : BitVec 14) (s : State) :
    goesOn (execLchk x0 x1 s) := by
  unfold execLchk
  exact linkWord_goesOn ..
theorem execLhalt_goesOn (x0 : BitVec 20) (s : State) :
    goesOn (execLhalt x0 s) := by
  unfold execLhalt
  exact linkWord_goesOn ..
theorem execLset_goesOn (x0 : BitVec 6) (x1 : BitVec 14) (s : State) :
    goesOn (execLset x0 x1 s) := by
  unfold execLset
  exact linkWord_goesOn ..
theorem execLadd_goesOn (x0 x1 : BitVec 6) (x2 : BitVec 8) (s : State) :
    goesOn (execLadd x0 x1 x2 s) := by
  unfold execLadd
  exact linkWord_goesOn ..
theorem execXimm_goesOn (x0 : BitVec 3) (x1 : BitVec 20) (s : State) :
    goesOn (execXimm x0 x1 s) := by
  unfold execXimm
  exact prefixWord_goesOn ..
theorem execXidle_goesOn (x0 : BitVec 3) (x1 : BitVec 20) (s : State) :
    goesOn (execXidle x0 x1 s) := by
  unfold execXidle
  exact prefixWord_goesOn ..
theorem execXmod_goesOn (x0 : BitVec 3) (x1 : BitVec 20) (s : State) :
    goesOn (execXmod x0 x1 s) := by
  unfold execXmod
  exact prefixWord_goesOn ..
theorem execExtest_goesOn (x0 : Word) (s : State) :
    goesOn (execExtest x0 s) := by
  unfold execExtest
  exact boundaryScan_goesOn ..
theorem execSamplePreload_goesOn (x0 : Word) (s : State) :
    goesOn (execSamplePreload x0 s) := by
  unfold execSamplePreload
  exact boundaryScan_goesOn ..
theorem execIdcode_goesOn (s : State) :
    goesOn (execIdcode s) := by
  unfold execIdcode
  exact tap_goesOn ..
theorem execDbgaddr_goesOn (x0 : Word) (s : State) :
    goesOn (execDbgaddr x0 s) := by
  unfold execDbgaddr
  exact tap_goesOn ..
theorem execDbgdataRead_goesOn (s : State) :
    goesOn (execDbgdataRead s) := by
  unfold execDbgdataRead
  repeat' (first | exact goesOn_next _ | exact tap_goesOn .. | split | extract_lets)
theorem execDbgdataWrite_goesOn (x0 : Word) (s : State) :
    goesOn (execDbgdataWrite x0 s) := by
  unfold execDbgdataWrite
  repeat' (first | exact goesOn_next _ | exact tap_goesOn .. | split | extract_lets)
theorem execDbgstat_goesOn (s : State) :
    goesOn (execDbgstat s) := by
  unfold execDbgstat
  exact tap_goesOn ..
theorem execBypass_goesOn (s : State) :
    goesOn (execBypass s) := by
  unfold execBypass
  exact tap_goesOn ..
theorem execDoorbell_goesOn (x0 x1 : Nat) (x2 : BitVec 16) (s : State) :
    goesOn (execDoorbell x0 x1 x2 s) := by
  unfold execDoorbell
  exact goesOn_next _
theorem execHwqPoll_goesOn (x0 : Nat) (s : State) :
    goesOn (execHwqPoll x0 s) := by
  unfold execHwqPoll
  exact goesOn_next _
theorem execLaunchRecord_goesOn (x0 : Nat) (s : State) :
    goesOn (execLaunchRecord x0 s) := by
  unfold execLaunchRecord
  repeat' (first | exact goesOn_next _ | split | extract_lets)
theorem execLaunchLoad_goesOn (x0 : Nat) (s : State) :
    goesOn (execLaunchLoad x0 s) := by
  unfold execLaunchLoad
  repeat' (first | exact goesOn_next _ | split | extract_lets)
theorem execGraphStart_goesOn (x0 : Nat) (s : State) :
    goesOn (execGraphStart x0 s) := by
  unfold execGraphStart
  repeat' (first | exact goesOn_next _ | split | extract_lets)
theorem execNodeLaunch_goesOn (x0 : Nat) (s : State) :
    goesOn (execNodeLaunch x0 s) := by
  unfold execNodeLaunch
  exact nodeStep_goesOn ..
theorem execNodeCopy_goesOn (x0 : Nat) (s : State) :
    goesOn (execNodeCopy x0 s) := by
  unfold execNodeCopy
  repeat' (first | exact goesOn_next _ | exact nodeStep_goesOn .. | split)
theorem execNodeCond_goesOn (x0 : Nat) (s : State) :
    goesOn (execNodeCond x0 s) := by
  unfold execNodeCond
  exact nodeStep_goesOn ..
theorem execNodeLoop_goesOn (x0 : Nat) (s : State) :
    goesOn (execNodeLoop x0 s) := by
  unfold execNodeLoop
  exact nodeStep_goesOn ..
theorem execNodeWait_goesOn (x0 : Nat) (s : State) :
    goesOn (execNodeWait x0 s) := by
  unfold execNodeWait
  repeat' (first | exact goesOn_next _ | exact nodeStep_goesOn .. | split | extract_lets)
theorem execWaitNodeExpiry_goesOn (x0 : Nat) (s : State) :
    goesOn (execWaitNodeExpiry x0 s) := by
  unfold execWaitNodeExpiry
  repeat' (first | exact goesOn_next _ | split | extract_lets)
theorem execNodeSignal_goesOn (x0 : Nat) (s : State) :
    goesOn (execNodeSignal x0 s) := by
  unfold execNodeSignal
  exact nodeStep_goesOn ..
theorem execNodeEnd_goesOn (x0 : Nat) (s : State) :
    goesOn (execNodeEnd x0 s) := by
  unfold execNodeEnd
  exact nodeStep_goesOn ..
theorem execTaskBind_goesOn (x0 : Nat) (s : State) :
    goesOn (execTaskBind x0 s) := by
  unfold execTaskBind
  exact goesOn_next _
theorem execSlotActivate_goesOn (x0 : Nat) (s : State) :
    goesOn (execSlotActivate x0 s) := by
  unfold execSlotActivate
  repeat' (first | exact goesOn_next _ | split | extract_lets)
theorem execTaskRetire_goesOn (x0 x1 : Nat) (s : State) :
    goesOn (execTaskRetire x0 x1 s) := by
  unfold execTaskRetire
  repeat' (first | exact goesOn_next _ | split | extract_lets)
theorem execLaunchComplete_goesOn (x0 : Nat) (s : State) :
    goesOn (execLaunchComplete x0 s) := by
  unfold execLaunchComplete
  repeat' (first | exact goesOn_next _ | split | extract_lets)
theorem execWriteCtxcfg_goesOn (x0 : Nat) (x1 : CfgTarget) (x2 : BitVec 256) (s : State) :
    goesOn (execWriteCtxcfg x0 x1 x2 s) := by
  unfold execWriteCtxcfg
  exact command_goesOn ..
theorem execAcquireLease_goesOn (x0 : Nat) (x1 x2 : Word) (s : State) :
    goesOn (execAcquireLease x0 x1 x2 s) := by
  unfold execAcquireLease
  exact command_goesOn ..
theorem execReleaseLease_goesOn (x0 x1 : Nat) (s : State) :
    goesOn (execReleaseLease x0 x1 s) := by
  unfold execReleaseLease
  exact command_goesOn ..
theorem execPreEmptOrRestore_goesOn (x0 x1 : Nat) (x2 : Preemption) (s : State) :
    goesOn (execPreEmptOrRestore x0 x1 x2 s) := by
  unfold execPreEmptOrRestore
  repeat' (first | exact goesOn_next _ | exact command_goesOn .. | split | extract_lets)
theorem execFrameWrite_goesOn (x0 : Nat) (s : State) :
    goesOn (execFrameWrite x0 s) := by
  unfold execFrameWrite
  repeat' (first | exact goesOn_next _ | split | extract_lets)
theorem execRestore_goesOn (x0 : Nat) (s : State) :
    goesOn (execRestore x0 s) := by
  unfold execRestore
  repeat' (first | exact goesOn_next _ | split | extract_lets)
theorem execReadViolationLog_goesOn (x0 x1 x2 : Nat) (s : State) :
    goesOn (execReadViolationLog x0 x1 x2 s) := by
  unfold execReadViolationLog
  repeat' (first | exact goesOn_next _ | exact command_goesOn .. | split | extract_lets)
theorem execAdvanceLifecycle_goesOn (x0 : Nat) (x1 : List Byte) (s : State) :
    goesOn (execAdvanceLifecycle x0 x1 s) := by
  unfold execAdvanceLifecycle
  repeat' (first | exact goesOn_next _ | exact command_goesOn .. | split | extract_lets)
theorem execTdispLock_goesOn (x0 x1 : Nat) (s : State) :
    goesOn (execTdispLock x0 x1 s) := by
  unfold execTdispLock
  exact tdispCommand_goesOn ..
theorem execTdispStart_goesOn (x0 x1 : Nat) (s : State) :
    goesOn (execTdispStart x0 x1 s) := by
  unfold execTdispStart
  exact tdispCommand_goesOn ..
theorem execTdispStop_goesOn (x0 x1 : Nat) (s : State) :
    goesOn (execTdispStop x0 x1 s) := by
  unfold execTdispStop
  exact tdispCommand_goesOn ..
theorem execAtsCompletion_goesOn (x0 x1 : Nat) (x2 : Translation) (s : State) :
    goesOn (execAtsCompletion x0 x1 x2 s) := by
  unfold execAtsCompletion
  repeat' (first | exact goesOn_next _ | split | extract_lets)
theorem execPriResponse_goesOn (x0 x1 : Nat) (x2 : PageAnswer) (s : State) :
    goesOn (execPriResponse x0 x1 x2 s) := by
  unfold execPriResponse
  repeat' (first | exact goesOn_next _ | split | extract_lets)
theorem execAtsInvalidation_goesOn (x0 : Nat) (x1 : BitVec 20) (x2 x3 : Nat) (s : State) :
    goesOn (execAtsInvalidation x0 x1 x2 x3 s) := by
  unfold execAtsInvalidation
  exact goesOn_next _
theorem execInvalidationCompletion_goesOn (x0 : Nat) (x1 : BitVec 20) (x2 x3 : Nat) (s : State) :
    goesOn (execInvalidationCompletion x0 x1 x2 x3 s) := by
  unfold execInvalidationCompletion
  repeat' (first | exact goesOn_next _ | split | extract_lets)
theorem execCxlMemRead_goesOn (x0 x1 : Nat) (s : State) :
    goesOn (execCxlMemRead x0 x1 s) := by
  unfold execCxlMemRead
  repeat' (first | exact goesOn_next _ | split | extract_lets)
theorem execCxlMemWrite_goesOn (x0 x1 : Nat) (x2 : List Byte) (x3 : BitVec 64) (s : State) :
    goesOn (execCxlMemWrite x0 x1 x2 x3 s) := by
  unfold execCxlMemWrite
  repeat' (first | exact goesOn_next _ | split | extract_lets)
theorem execHostLinkDown_goesOn (x0 : Nat) (s : State) :
    goesOn (execHostLinkDown x0 s) := by
  unfold execHostLinkDown
  exact goesOn_next _
theorem execFunctionLevelReset_goesOn (x0 : Nat) (s : State) :
    goesOn (execFunctionLevelReset x0 s) := by
  unfold execFunctionLevelReset
  exact goesOn_next _
theorem execGetVersion_goesOn (s : State) :
    goesOn (execGetVersion s) := by
  unfold execGetVersion
  exact goesOn_next _
theorem execGetCapabilities_goesOn (s : State) :
    goesOn (execGetCapabilities s) := by
  unfold execGetCapabilities
  exact goesOn_next _
theorem execNegotiateAlgorithms_goesOn (s : State) :
    goesOn (execNegotiateAlgorithms s) := by
  unfold execNegotiateAlgorithms
  exact goesOn_next _
theorem execGetDigests_goesOn (s : State) :
    goesOn (execGetDigests s) := by
  unfold execGetDigests
  exact goesOn_next _
theorem execGetCertificate_goesOn (x0 x1 x2 : Nat) (s : State) :
    goesOn (execGetCertificate x0 x1 x2 s) := by
  unfold execGetCertificate
  exact goesOn_next _
theorem execChallenge_goesOn (x0 : Nat) (x1 : BitVec 256) (s : State) :
    goesOn (execChallenge x0 x1 s) := by
  unfold execChallenge
  exact goesOn_next _
theorem execGetMeasurements_goesOn (x0 : Nat) (x1 : BitVec 256) (s : State) :
    goesOn (execGetMeasurements x0 x1 s) := by
  unfold execGetMeasurements
  exact goesOn_next _
theorem execKeyExchange_goesOn (x0 : Nat) (x1 : BitVec 768) (s : State) :
    goesOn (execKeyExchange x0 x1 s) := by
  unfold execKeyExchange
  exact goesOn_next _
theorem execFinish_goesOn (x0 : BitVec 384) (s : State) :
    goesOn (execFinish x0 s) := by
  unfold execFinish
  exact goesOn_next _
theorem execEndSession_goesOn (s : State) :
    goesOn (execEndSession s) := by
  unfold execEndSession
  exact goesOn_next _
theorem execKeyProg_goesOn (x0 x1 : Nat) (x2 : BitVec 256) (s : State) :
    goesOn (execKeyProg x0 x1 x2 s) := by
  unfold execKeyProg
  repeat' (first | exact goesOn_next _ | split | extract_lets)
theorem execKSetGo_goesOn (x0 x1 : Nat) (s : State) :
    goesOn (execKSetGo x0 x1 s) := by
  unfold execKSetGo
  repeat' (first | exact goesOn_next _ | split | extract_lets)
theorem execColdReset_goesOn (s : State) :
    goesOn (execColdReset s) := by
  unfold execColdReset
  exact goesOn_next _
theorem execCoolingSample_goesOn (x0 : List ZoneReading) (x1 x2 : List Nat) (s : State) :
    goesOn (execCoolingSample x0 x1 x2 s) := by
  unfold execCoolingSample
  exact goesOn_next _
theorem execZoneClockStop_goesOn (x0 : Nat) (s : State) :
    goesOn (execZoneClockStop x0 s) := by
  unfold execZoneClockStop
  exact goesOn_next _
theorem execPurgeEnd_goesOn (x0 : Nat) (s : State) :
    goesOn (execPurgeEnd x0 s) := by
  unfold execPurgeEnd
  exact goesOn_next _
theorem execPulsesEnd_goesOn (x0 : Nat) (s : State) :
    goesOn (execPulsesEnd x0 s) := by
  unfold execPulsesEnd
  exact goesOn_next _
theorem execRePrimeEnd_goesOn (x0 : Nat) (s : State) :
    goesOn (execRePrimeEnd x0 s) := by
  unfold execRePrimeEnd
  exact goesOn_next _
theorem execVerifyEnd_goesOn (x0 : Nat) (s : State) :
    goesOn (execVerifyEnd x0 s) := by
  unfold execVerifyEnd
  exact goesOn_next _
theorem execHeldLanding_goesOn (x0 : Nat) (s : State) :
    goesOn (execHeldLanding x0 s) := by
  unfold execHeldLanding
  repeat' (first | exact goesOn_next _ | split | extract_lets)
theorem execPrime_goesOn (x0 : Nat) (s : State) :
    goesOn (execPrime x0 s) := by
  unfold execPrime
  exact goesOn_next _
theorem execPrimeVerify_goesOn (x0 : Nat) (s : State) :
    goesOn (execPrimeVerify x0 s) := by
  unfold execPrimeVerify
  exact goesOn_next _
theorem execClose_goesOn (x0 : Nat) (s : State) :
    goesOn (execClose x0 s) := by
  unfold execClose
  exact goesOn_next _
theorem execClearFailed_goesOn (x0 : Nat) (s : State) :
    goesOn (execClearFailed x0 s) := by
  unfold execClearFailed
  exact goesOn_next _
theorem execForceEvacuation_goesOn (x0 : Nat) (s : State) :
    goesOn (execForceEvacuation x0 s) := by
  unfold execForceEvacuation
  exact goesOn_next _
theorem execFlowreqDecision_goesOn (x0 x1 : Nat) (s : State) :
    goesOn (execFlowreqDecision x0 x1 s) := by
  unfold execFlowreqDecision
  repeat' (first | exact goesOn_next _ | split | extract_lets)
theorem execGrantStart_goesOn (x0 : Nat) (s : State) :
    goesOn (execGrantStart x0 s) := by
  unfold execGrantStart
  exact goesOn_next _
theorem execGrantEnd_goesOn (x0 : Nat) (s : State) :
    goesOn (execGrantEnd x0 s) := by
  unfold execGrantEnd
  exact goesOn_next _
theorem execArm_goesOn (x0 : Writer) (s : State) :
    goesOn (execArm x0 s) := by
  unfold execArm
  exact goesOn_next _
theorem execDebugStop_goesOn (s : State) :
    goesOn (execDebugStop s) := by
  unfold execDebugStop
  repeat' (first | exact goesOn_next _ | split | extract_lets)
theorem execResume_goesOn (x0 : Writer) (s : State) :
    goesOn (execResume x0 s) := by
  unfold execResume
  exact goesOn_next _
theorem execDbgctlClose_goesOn (s : State) :
    goesOn (execDbgctlClose s) := by
  unfold execDbgctlClose
  exact goesOn_next _
theorem execBufferEnable_goesOn (x0 : Writer) (x1 : Nat) (s : State) :
    goesOn (execBufferEnable x0 x1 s) := by
  unfold execBufferEnable
  exact goesOn_next _
theorem execRecordWrite_goesOn (x0 : Nat) (s : State) :
    goesOn (execRecordWrite x0 s) := by
  unfold execRecordWrite
  repeat' (first | exact goesOn_next _ | split | extract_lets)
theorem execIswinArm_goesOn (x0 : Writer) (s : State) :
    goesOn (execIswinArm x0 s) := by
  unfold execIswinArm
  exact goesOn_next _
theorem execIssueBlock_goesOn (s : State) :
    goesOn (execIssueBlock s) := by
  unfold execIssueBlock
  repeat' (first | exact goesOn_next _ | split | extract_lets)
theorem execCounterSample_goesOn (s : State) :
    goesOn (execCounterSample s) := by
  unfold execCounterSample
  exact goesOn_next _
theorem execMonitorPeriod_goesOn (x0 : Nat) (s : State) :
    goesOn (execMonitorPeriod x0 s) := by
  unfold execMonitorPeriod
  repeat' (first | exact goesOn_next _ | split | extract_lets)
theorem execSoftError_goesOn (x0 : Nat) (x1 : CoreArray) (s : State) :
    goesOn (execSoftError x0 x1 s) := by
  unfold execSoftError
  exact goesOn_next _
theorem execUncorrectableError_goesOn (x0 : Nat) (x1 : ErrorArray) (s : State) :
    goesOn (execUncorrectableError x0 x1 s) := by
  unfold execUncorrectableError
  exact goesOn_next _
theorem execPatrolScrub_goesOn (x0 : Nat) (x1 : ScrubResult) (s : State) :
    goesOn (execPatrolScrub x0 x1 s) := by
  unfold execPatrolScrub
  exact goesOn_next _
theorem execLockstepMismatch_goesOn (s : State) :
    goesOn (execLockstepMismatch s) := by
  unfold execLockstepMismatch
  repeat' (first | exact goesOn_next _ | split | extract_lets)
theorem execCpRestart_goesOn (s : State) :
    goesOn (execCpRestart s) := by
  unfold execCpRestart
  repeat' (first | exact goesOn_next _ | split | extract_lets)
theorem execLinkTraining_goesOn (x0 : Nat) (x1 : Exchange) (x2 : Nat) (s : State) :
    goesOn (execLinkTraining x0 x1 x2 s) := by
  unfold execLinkTraining
  repeat' (first | exact goesOn_next _ | split | extract_lets)
theorem execTimebaseFlit_goesOn (x0 : Nat) (x1 : List (BitVec 576)) (x2 : BitVec 576) (x3 : Int) (s : State) :
    goesOn (execTimebaseFlit x0 x1 x2 x3 s) := by
  unfold execTimebaseFlit
  repeat' (first | exact goesOn_next _ | split | extract_lets)
theorem execGuardFlit_goesOn (x0 : Nat) (x1 : GuardFlit) (s : State) :
    goesOn (execGuardFlit x0 x1 s) := by
  unfold execGuardFlit
  repeat' (first | exact goesOn_next _ | split | extract_lets)
theorem execDataFlit_goesOn (x0 : Nat) (x1 : Flit) (s : State) :
    goesOn (execDataFlit x0 x1 s) := by
  unfold execDataFlit
  exact goesOn_next _
theorem execSignalFlit_goesOn (x0 : Nat) (x1 : Flit) (s : State) :
    goesOn (execSignalFlit x0 x1 s) := by
  unfold execSignalFlit
  exact goesOn_next _
theorem execNoticeFlit_goesOn (x0 : Nat) (x1 : Flit) (s : State) :
    goesOn (execNoticeFlit x0 x1 s) := by
  unfold execNoticeFlit
  repeat' (first | exact goesOn_next _ | split | extract_lets)
theorem execMgmtFlit_goesOn (x0 : Nat) (x1 : Flit) (s : State) :
    goesOn (execMgmtFlit x0 x1 s) := by
  unfold execMgmtFlit
  repeat' (first | exact goesOn_next _ | split | extract_lets)
theorem execLossOfLaneLock_goesOn (x0 : Nat) (s : State) :
    goesOn (execLossOfLaneLock x0 s) := by
  unfold execLossOfLaneLock
  exact goesOn_next _
theorem execBufferLimit_goesOn (x0 : BufferFill) (s : State) :
    goesOn (execBufferLimit x0 s) := by
  unfold execBufferLimit
  exact goesOn_next _
theorem execSpliceStop_goesOn (s : State) :
    goesOn (execSpliceStop s) := by
  unfold execSpliceStop
  repeat' (first | exact goesOn_next _ | split | extract_lets)
theorem execSpliceResume_goesOn (s : State) :
    goesOn (execSpliceResume s) := by
  unfold execSpliceResume
  repeat' (first | exact goesOn_next _ | split | extract_lets)
theorem execGuardGap_goesOn (x0 : Nat) (s : State) :
    goesOn (execGuardGap x0 s) := by
  unfold execGuardGap
  exact goesOn_next _
theorem execAutomaticGuard_goesOn (x0 : Nat) (s : State) :
    goesOn (execAutomaticGuard x0 s) := by
  unfold execAutomaticGuard
  repeat' (first | exact goesOn_next _ | split | extract_lets)
theorem execProgramStart_goesOn (x0 : Nat) (s : State) :
    goesOn (execProgramStart x0 s) := by
  unfold execProgramStart
  exact goesOn_next _
theorem execProgramDeadline_goesOn (x0 : Nat) (s : State) :
    goesOn (execProgramDeadline x0 s) := by
  unfold execProgramDeadline
  exact goesOn_next _
theorem execHandlerEntry_goesOn (x0 x1 : Nat) (s : State) :
    goesOn (execHandlerEntry x0 x1 s) := by
  unfold execHandlerEntry
  repeat' (first | exact goesOn_next _ | split | extract_lets)
theorem execHandlerDeadline_goesOn (x0 : Nat) (s : State) :
    goesOn (execHandlerDeadline x0 s) := by
  unfold execHandlerDeadline
  repeat' (first | exact goesOn_next _ | split | extract_lets)
theorem execWaitDeadline_goesOn (x0 x1 : Nat) (s : State) :
    goesOn (execWaitDeadline x0 x1 s) := by
  unfold execWaitDeadline
  repeat' (first | exact goesOn_next _ | split | extract_lets)
theorem execWeaveRelease_goesOn (x0 : Nat) (s : State) :
    goesOn (execWeaveRelease x0 s) := by
  unfold execWeaveRelease
  extract_lets xs
  clear_value xs
  cases xs with
  | nil => exact goesOn_next _
  | cons y t => exact goesOn_ite (goesOn_next _) (goesOn_ite (goesOn_next _) (goesOn_next _))
theorem execWaitSatisfied_goesOn (x0 x1 : Nat) (s : State) :
    goesOn (execWaitSatisfied x0 x1 s) := by
  unfold execWaitSatisfied
  split
  · exact goesOn_next _
  · rename_i z _
    refine goesOn_ite (goesOn_next _) ?_
    generalize z.hold = h
    cases h <;> exact goesOn_next _
theorem execTestReturn_goesOn (x0 x1 : Nat) (s : State) :
    goesOn (execTestReturn x0 x1 s) := by
  unfold execTestReturn
  repeat' (first | exact goesOn_next _ | split | extract_lets)
theorem execAlignResume_goesOn (x0 x1 : Nat) (s : State) :
    goesOn (execAlignResume x0 x1 s) := by
  unfold execAlignResume
  repeat' (first | exact goesOn_next _ | split | extract_lets)
theorem execFenceComplete_goesOn (x0 x1 : Nat) (s : State) :
    goesOn (execFenceComplete x0 x1 s) := by
  unfold execFenceComplete
  repeat' (first | exact goesOn_next _ | split | extract_lets)
theorem execWaittResume_goesOn (x0 x1 : Nat) (s : State) :
    goesOn (execWaittResume x0 x1 s) := by
  unfold execWaittResume
  repeat' (first | exact goesOn_next _ | split | extract_lets)
theorem execSecurityBlockReply_goesOn (s : State) :
    goesOn (execSecurityBlockReply s) := by
  unfold execSecurityBlockReply
  repeat' (first | exact goesOn_next _ | split | extract_lets)
theorem execChunkComplete_goesOn (x0 x1 : Nat) (s : State) :
    goesOn (execChunkComplete x0 x1 s) := by
  unfold execChunkComplete
  split
  · exact goesOn_next _
  · rename_i o _
    refine goesOn_ite (goesOn_next _) ?_
    generalize o.kind = k
    cases k <;> exact goesOn_next _
theorem execArrival_goesOn (x0 : Nat) (s : State) :
    goesOn (execArrival x0 s) := by
  unfold execArrival
  repeat' (first | exact goesOn_next _ | split | extract_lets)
theorem execCarriedWordIssue_goesOn (x0 x1 : Nat) (s : State) :
    goesOn (execCarriedWordIssue x0 x1 s) := by
  unfold execCarriedWordIssue
  exact goesOn_next _
theorem execTicketedUpdate_goesOn (x0 x1 : Nat) (s : State) :
    goesOn (execTicketedUpdate x0 x1 s) := by
  unfold execTicketedUpdate
  split
  · exact goesOn_next _
  · rename_i o _
    refine goesOn_ite (goesOn_next _) ?_
    generalize o.kind = k
    cases k <;> exact goesOn_next _
theorem execQueueStep_goesOn (x0 x1 : Nat) (s : State) :
    goesOn (execQueueStep x0 x1 s) := by
  unfold execQueueStep
  split
  · exact goesOn_next _
  · refine goesOn_ite (goesOn_next _) ?_
    extract_lets _ _ _ _ _ _ late turn bad room
    refine goesOn_ite ?_ (goesOn_ite (goesOn_next _) (goesOn_next _))
    split
    · exact goesOn_next _
    · repeat' (first | exact goesOn_next _ | refine goesOn_ite ?_ ?_)
theorem execFtwPropagation_goesOn (x0 x1 : Nat) (s : State) :
    goesOn (execFtwPropagation x0 x1 s) := by
  unfold execFtwPropagation
  split
  · exact goesOn_next _
  · exact goesOn_ite (goesOn_next _) (goesOn_ite (goesOn_next _) (goesOn_next _))
theorem execUnassignedPattern_goesOn (x0 : Half) (s : State) :
    goesOn (execUnassignedPattern x0 s) := by
  unfold execUnassignedPattern
  repeat' (first | exact goesOn_next _ | split | extract_lets)
theorem execIdleFlit_goesOn (x0 : Nat) (x1 : Flit) (s : State) :
    goesOn (execIdleFlit x0 x1 s) := by
  unfold execIdleFlit
  exact goesOn_next _
theorem execDieToDieBeat_goesOn (x0 : Nat) (x1 : Flit) (s : State) :
    goesOn (execDieToDieBeat x0 x1 s) := by
  unfold execDieToDieBeat
  repeat' (first | exact goesOn_next _ | split | extract_lets)
theorem execTdispError_goesOn (x0 : Nat) (s : State) :
    goesOn (execTdispError x0 s) := by
  unfold execTdispError
  repeat' (first | exact goesOn_next _ | split | extract_lets)
theorem execBankAtomic_goesOn (x0 x1 : Nat) (s : State) :
    goesOn (execBankAtomic x0 x1 s) := by
  unfold execBankAtomic
  repeat' (first | exact goesOn_next _ | split | extract_lets)
theorem execOtherCommandCode_goesOn (x0 x1 : Nat) (s : State) :
    goesOn (execOtherCommandCode x0 x1 s) := by
  unfold execOtherCommandCode
  exact command_goesOn ..
theorem execUnsupportedRequest_goesOn (x0 : Nat) (s : State) :
    goesOn (execUnsupportedRequest x0 s) := by
  unfold execUnsupportedRequest
  exact goesOn_next _
theorem zoneCommand_goesOn (s : State) (v : Word) : goesOn (s.zoneCommand v) := by
  unfold State.zoneCommand
  repeat' (first | exact goesOn_next _ | exact execPrime_goesOn .. | exact execClose_goesOn .. | exact execClearFailed_goesOn .. | exact execForceEvacuation_goesOn .. | split | extract_lets)
theorem writeCooling_goesOn (s : State) (off : Nat) (v : Word) : goesOn (s.writeCooling off v) := by
  unfold State.writeCooling
  extract_lets
  exact goesOn_ite (goesOn_next _) (goesOn_ite (goesOn_next _) (goesOn_ite (zoneCommand_goesOn ..)
    (goesOn_ite (goesOn_next _) (goesOn_next _))))
theorem writeMgmt_goesOn (s : State) (a : Nat) (v : Word) : goesOn (s.writeMgmt a v) := by
  unfold State.writeMgmt
  extract_lets
  refine goesOn_ite (goesOn_next _) (goesOn_ite (goesOn_next _) (goesOn_ite (goesOn_next _) (goesOn_ite (goesOn_next _)
    (goesOn_ite (writeCooling_goesOn ..) (goesOn_ite (goesOn_next _) (goesOn_ite (goesOn_next _)
      (goesOn_ite (goesOn_ite (execDbgctlClose_goesOn ..) (goesOn_next _)) (goesOn_ite (goesOn_next _)
        (goesOn_ite (goesOn_next _) (goesOn_next _))))))))))
theorem execRegisterWrite_goesOn (x0 : Writer) (x1 : Nat) (x2 : Word) (s : State) :
    goesOn (execRegisterWrite x0 x1 x2 s) := by
  unfold execRegisterWrite
  repeat' (first | exact goesOn_next _ | exact writeMgmt_goesOn .. | split | extract_lets)
/-- The meaning of every instruction and event goes on. -/
theorem exec_goesOn (i : Instr) (s : State) : goesOn (exec i s) := by
  cases i with
  | add _ _ _ => exact execAdd_goesOn ..
  | sub _ _ _ => exact execSub_goesOn ..
  | and _ _ _ => exact execAnd_goesOn ..
  | or _ _ _ => exact execOr_goesOn ..
  | xor _ _ _ => exact execXor_goesOn ..
  | shl _ _ _ => exact execShl_goesOn ..
  | shr _ _ _ => exact execShr_goesOn ..
  | sha _ _ _ => exact execSha_goesOn ..
  | mul _ _ _ => exact execMul_goesOn ..
  | mulh _ _ _ _ => exact execMulh_goesOn ..
  | div _ _ _ _ => exact execDiv_goesOn ..
  | rem _ _ _ _ => exact execRem_goesOn ..
  | min _ _ _ _ => exact execMin_goesOn ..
  | max _ _ _ _ => exact execMax_goesOn ..
  | clz _ _ => exact execClz_goesOn ..
  | popc _ _ => exact execPopc_goesOn ..
  | addi _ _ _ => exact execAddi_goesOn ..
  | andi _ _ _ => exact execAndi_goesOn ..
  | ori _ _ _ => exact execOri_goesOn ..
  | xori _ _ _ => exact execXori_goesOn ..
  | shli _ _ _ => exact execShli_goesOn ..
  | shri _ _ _ => exact execShri_goesOn ..
  | shai _ _ _ => exact execShai_goesOn ..
  | li _ _ => exact execLi_goesOn ..
  | lih _ _ => exact execLih_goesOn ..
  | bfx _ _ _ => exact execBfx_goesOn ..
  | bfi _ _ _ => exact execBfi_goesOn ..
  | addsh _ _ _ _ => exact execAddsh_goesOn ..
  | cmpeq _ _ _ => exact execCmpeq_goesOn ..
  | cmpne _ _ _ => exact execCmpne_goesOn ..
  | cmplt _ _ _ _ => exact execCmplt_goesOn ..
  | cmple _ _ _ _ => exact execCmple_goesOn ..
  | widf _ _ => exact execWidf_goesOn ..
  | movs _ _ => exact execMovs_goesOn ..
  | movsw _ _ => exact execMovsw_goesOn ..
  | sld _ _ _ _ _ => exact execSld_goesOn ..
  | sst _ _ _ _ => exact execSst_goesOn ..
  | fslot _ _ _ => exact execFslot_goesOn ..
  | shld _ _ _ => exact execShld_goesOn ..
  | shst _ _ _ => exact execShst_goesOn ..
  | shset _ _ _ => exact execShset_goesOn ..
  | shget _ _ _ => exact execShget_goesOn ..
  | bndset _ _ _ _ => exact execBndset_goesOn ..
  | pand _ _ _ _ => exact execPand_goesOn ..
  | por _ _ _ _ => exact execPor_goesOn ..
  | pxor _ _ _ _ => exact execPxor_goesOn ..
  | psetn _ _ _ => exact execPsetn_goesOn ..
  | pcnt _ _ => exact execPcnt_goesOn ..
  | pmovg _ _ => exact execPmovg_goesOn ..
  | pmovp _ _ => exact execPmovp_goesOn ..
  | pbr _ _ => exact execPbr_goesOn ..
  | pbrg _ _ _ => exact execPbrg_goesOn ..
  | br _ _ _ => exact execBr_goesOn ..
  | call _ _ => exact execCall_goesOn ..
  | tmov _ _ _ => exact execTmov_goesOn ..
  | exit _ => exact execExit_goesOn ..
  | vadd _ _ _ _ _ => exact execVadd_goesOn ..
  | vsub _ _ _ _ _ => exact execVsub_goesOn ..
  | vmul _ _ _ _ _ => exact execVmul_goesOn ..
  | vfma _ _ _ _ _ => exact execVfma_goesOn ..
  | vfms _ _ _ _ _ => exact execVfms_goesOn ..
  | vfnma _ _ _ _ _ => exact execVfnma_goesOn ..
  | vmin _ _ _ _ _ => exact execVmin_goesOn ..
  | vmax _ _ _ _ _ => exact execVmax_goesOn ..
  | vdiv _ _ _ _ _ => exact execVdiv_goesOn ..
  | vsqrt _ _ _ => exact execVsqrt_goesOn ..
  | vrec _ _ _ => exact execVrec_goesOn ..
  | vrsq _ _ _ => exact execVrsq_goesOn ..
  | vexp2 _ _ _ => exact execVexp2_goesOn ..
  | vlog2 _ _ _ => exact execVlog2_goesOn ..
  | vabs _ _ _ => exact execVabs_goesOn ..
  | vneg _ _ _ => exact execVneg_goesOn ..
  | vcvt _ _ _ _ => exact execVcvt_goesOn ..
  | vand _ _ _ _ => exact execVand_goesOn ..
  | vor _ _ _ _ => exact execVor_goesOn ..
  | vxor _ _ _ _ => exact execVxor_goesOn ..
  | vshl _ _ _ _ _ => exact execVshl_goesOn ..
  | vshr _ _ _ _ _ => exact execVshr_goesOn ..
  | vsha _ _ _ _ _ => exact execVsha_goesOn ..
  | vcmpeq _ _ _ _ => exact execVcmpeq_goesOn ..
  | vcmpne _ _ _ _ => exact execVcmpne_goesOn ..
  | vcmplt _ _ _ _ => exact execVcmplt_goesOn ..
  | vcmple _ _ _ _ => exact execVcmple_goesOn ..
  | vcmpun _ _ _ _ => exact execVcmpun_goesOn ..
  | vsel _ _ _ _ => exact execVsel_goesOn ..
  | vpred _ => exact execVpred_goesOn ..
  | vbcast _ _ _ _ => exact execVbcast_goesOn ..
  | vlane _ _ _ _ => exact execVlane_goesOn ..
  | viota _ _ _ => exact execViota_goesOn ..
  | vperm _ _ _ _ => exact execVperm_goesOn ..
  | vrot _ _ _ _ _ => exact execVrot_goesOn ..
  | vredsum _ _ _ _ => exact execVredsum_goesOn ..
  | vredmax _ _ _ _ => exact execVredmax_goesOn ..
  | vredmin _ _ _ _ => exact execVredmin_goesOn ..
  | vscan _ _ _ _ => exact execVscan_goesOn ..
  | vld _ _ _ _ => exact execVld_goesOn ..
  | vst _ _ _ _ => exact execVst_goesOn ..
  | vlds _ _ _ _ => exact execVlds_goesOn ..
  | vsts _ _ _ _ => exact execVsts_goesOn ..
  | vlda _ _ _ _ => exact execVlda_goesOn ..
  | vsta _ _ _ _ => exact execVsta_goesOn ..
  | vrnd _ _ _ _ => exact execVrnd_goesOn ..
  | vbnd _ _ _ _ => exact execVbnd_goesOn ..
  | vscl _ _ _ _ _ => exact execVscl_goesOn ..
  | vclass _ _ _ => exact execVclass_goesOn ..
  | mma _ _ _ _ _ _ => exact execMma_goesOn ..
  | mmas _ _ _ _ _ _ => exact execMmas_goesOn ..
  | mldb _ _ _ _ _ => exact execMldb_goesOn ..
  | mldbs _ _ _ _ _ => exact execMldbs_goesOn ..
  | mzero _ => exact execMzero_goesOn ..
  | mout _ _ => exact execMout_goesOn ..
  | mscale _ _ => exact execMscale_goesOn ..
  | maddt _ _ => exact execMaddt_goesOn ..
  | mdrain => exact execMdrain_goesOn ..
  | mslotinv _ => exact execMslotinv_goesOn ..
  | cpy _ _ _ _ => exact execCpy_goesOn ..
  | cpym _ _ _ _ _ => exact execCpym_goesOn ..
  | cpyv _ _ _ _ => exact execCpyv_goesOn ..
  | lnset _ _ _ => exact execLnset_goesOn ..
  | lnrun _ _ _ _ => exact execLnrun_goesOn ..
  | lnclr => exact execLnclr_goesOn ..
  | mcst _ _ _ _ => exact execMcst_goesOn ..
  | nfill _ _ _ _ => exact execNfill_goesOn ..
  | ncopy _ _ _ _ => exact execNcopy_goesOn ..
  | ncmp _ _ _ _ => exact execNcmp_goesOn ..
  | nred _ _ _ _ => exact execNred_goesOn ..
  | cinit _ _ _ _ => exact execCinit_goesOn ..
  | gath _ _ => exact execGath_goesOn ..
  | gbag _ _ => exact execGbag_goesOn ..
  | gscat _ _ => exact execGscat_goesOn ..
  | gsadd _ _ => exact execGsadd_goesOn ..
  | aadd _ _ _ _ => exact execAadd_goesOn ..
  | aand _ _ _ _ => exact execAand_goesOn ..
  | aor _ _ _ _ => exact execAor_goesOn ..
  | axor _ _ _ _ => exact execAxor_goesOn ..
  | amin _ _ _ _ _ => exact execAmin_goesOn ..
  | amax _ _ _ _ _ => exact execAmax_goesOn ..
  | afadd _ _ _ _ => exact execAfadd_goesOn ..
  | aswap _ _ _ _ => exact execAswap_goesOn ..
  | acas _ _ _ _ => exact execAcas_goesOn ..
  | qpush _ _ _ => exact execQpush_goesOn ..
  | qpop _ _ _ => exact execQpop_goesOn ..
  | swinit _ _ _ => exact execSwinit_goesOn ..
  | arrive _ _ _ => exact execArrive_goesOn ..
  | waitg _ _ _ => exact execWaitg_goesOn ..
  | waitm _ _ _ => exact execWaitm_goesOn ..
  | testg _ _ _ => exact execTestg_goesOn ..
  | testm _ _ _ => exact execTestm_goesOn ..
  | align _ _ _ => exact execAlign_goesOn ..
  | fence _ _ _ => exact execFence_goesOn ..
  | trap _ => exact execTrap_goesOn ..
  | rett => exact execRett_goesOn ..
  | ftw _ _ _ => exact execFtw_goesOn ..
  | ftr _ _ _ => exact execFtr_goesOn ..
  | bfmt _ _ _ => exact execBfmt_goesOn ..
  | flowreq _ _ _ => exact execFlowreq_goesOn ..
  | event _ _ => exact execEvent_goesOn ..
  | wpset _ _ _ => exact execWpset_goesOn ..
  | icinv _ => exact execIcinv_goesOn ..
  | waitt _ _ _ => exact execWaitt_goesOn ..
  | fuserd _ _ _ => exact execFuserd_goesOn ..
  | keywipe _ _ => exact execKeywipe_goesOn ..
  | keyld _ _ _ => exact execKeyld_goesOn ..
  | dbgunlk _ _ _ => exact execDbgunlk_goesOn ..
  | measure _ _ => exact execMeasure_goesOn ..
  | attest _ _ => exact execAttest_goesOn ..
  | yield => exact execYield_goesOn ..
  | lat _ => exact execLat_goesOn ..
  | lsend _ _ _ _ => exact execLsend_goesOn ..
  | lrecv _ _ _ => exact execLrecv_goesOn ..
  | lfwd _ _ => exact execLfwd_goesOn ..
  | lrfwd _ _ _ _ => exact execLrfwd_goesOn ..
  | lradd _ _ _ _ => exact execLradd_goesOn ..
  | lsig _ _ _ => exact execLsig_goesOn ..
  | lguard _ => exact execLguard_goesOn ..
  | lloop _ _ => exact execLloop_goesOn ..
  | lend => exact execLend_goesOn ..
  | lchk _ _ => exact execLchk_goesOn ..
  | lhalt _ => exact execLhalt_goesOn ..
  | lset _ _ => exact execLset_goesOn ..
  | ladd _ _ _ => exact execLadd_goesOn ..
  | ximm _ _ => exact execXimm_goesOn ..
  | xidle _ _ => exact execXidle_goesOn ..
  | xmod _ _ => exact execXmod_goesOn ..
  | extest _ => exact execExtest_goesOn ..
  | samplePreload _ => exact execSamplePreload_goesOn ..
  | idcode => exact execIdcode_goesOn ..
  | dbgaddr _ => exact execDbgaddr_goesOn ..
  | dbgdataRead => exact execDbgdataRead_goesOn ..
  | dbgdataWrite _ => exact execDbgdataWrite_goesOn ..
  | dbgstat => exact execDbgstat_goesOn ..
  | bypass => exact execBypass_goesOn ..
  | doorbell _ _ _ => exact execDoorbell_goesOn ..
  | hwqPoll _ => exact execHwqPoll_goesOn ..
  | launchRecord _ => exact execLaunchRecord_goesOn ..
  | launchLoad _ => exact execLaunchLoad_goesOn ..
  | graphStart _ => exact execGraphStart_goesOn ..
  | nodeLaunch _ => exact execNodeLaunch_goesOn ..
  | nodeCopy _ => exact execNodeCopy_goesOn ..
  | nodeCond _ => exact execNodeCond_goesOn ..
  | nodeLoop _ => exact execNodeLoop_goesOn ..
  | nodeWait _ => exact execNodeWait_goesOn ..
  | waitNodeExpiry _ => exact execWaitNodeExpiry_goesOn ..
  | nodeSignal _ => exact execNodeSignal_goesOn ..
  | nodeEnd _ => exact execNodeEnd_goesOn ..
  | taskBind _ => exact execTaskBind_goesOn ..
  | slotActivate _ => exact execSlotActivate_goesOn ..
  | taskRetire _ _ => exact execTaskRetire_goesOn ..
  | launchComplete _ => exact execLaunchComplete_goesOn ..
  | writeCtxcfg _ _ _ => exact execWriteCtxcfg_goesOn ..
  | acquireLease _ _ _ => exact execAcquireLease_goesOn ..
  | releaseLease _ _ => exact execReleaseLease_goesOn ..
  | preEmptOrRestore _ _ _ => exact execPreEmptOrRestore_goesOn ..
  | frameWrite _ => exact execFrameWrite_goesOn ..
  | restore _ => exact execRestore_goesOn ..
  | readViolationLog _ _ _ => exact execReadViolationLog_goesOn ..
  | advanceLifecycle _ _ => exact execAdvanceLifecycle_goesOn ..
  | tdispLock _ _ => exact execTdispLock_goesOn ..
  | tdispStart _ _ => exact execTdispStart_goesOn ..
  | tdispStop _ _ => exact execTdispStop_goesOn ..
  | registerWrite _ _ _ => exact execRegisterWrite_goesOn ..
  | atsCompletion _ _ _ => exact execAtsCompletion_goesOn ..
  | priResponse _ _ _ => exact execPriResponse_goesOn ..
  | atsInvalidation _ _ _ _ => exact execAtsInvalidation_goesOn ..
  | invalidationCompletion _ _ _ _ => exact execInvalidationCompletion_goesOn ..
  | cxlMemRead _ _ => exact execCxlMemRead_goesOn ..
  | cxlMemWrite _ _ _ _ => exact execCxlMemWrite_goesOn ..
  | hostLinkDown _ => exact execHostLinkDown_goesOn ..
  | functionLevelReset _ => exact execFunctionLevelReset_goesOn ..
  | getVersion => exact execGetVersion_goesOn ..
  | getCapabilities => exact execGetCapabilities_goesOn ..
  | negotiateAlgorithms => exact execNegotiateAlgorithms_goesOn ..
  | getDigests => exact execGetDigests_goesOn ..
  | getCertificate _ _ _ => exact execGetCertificate_goesOn ..
  | challenge _ _ => exact execChallenge_goesOn ..
  | getMeasurements _ _ => exact execGetMeasurements_goesOn ..
  | keyExchange _ _ => exact execKeyExchange_goesOn ..
  | finish _ => exact execFinish_goesOn ..
  | endSession => exact execEndSession_goesOn ..
  | keyProg _ _ _ => exact execKeyProg_goesOn ..
  | kSetGo _ _ => exact execKSetGo_goesOn ..
  | coldReset => exact execColdReset_goesOn ..
  | coolingSample _ _ _ => exact execCoolingSample_goesOn ..
  | zoneClockStop _ => exact execZoneClockStop_goesOn ..
  | purgeEnd _ => exact execPurgeEnd_goesOn ..
  | pulsesEnd _ => exact execPulsesEnd_goesOn ..
  | rePrimeEnd _ => exact execRePrimeEnd_goesOn ..
  | verifyEnd _ => exact execVerifyEnd_goesOn ..
  | heldLanding _ => exact execHeldLanding_goesOn ..
  | prime _ => exact execPrime_goesOn ..
  | primeVerify _ => exact execPrimeVerify_goesOn ..
  | close _ => exact execClose_goesOn ..
  | clearFailed _ => exact execClearFailed_goesOn ..
  | forceEvacuation _ => exact execForceEvacuation_goesOn ..
  | flowreqDecision _ _ => exact execFlowreqDecision_goesOn ..
  | grantStart _ => exact execGrantStart_goesOn ..
  | grantEnd _ => exact execGrantEnd_goesOn ..
  | arm _ => exact execArm_goesOn ..
  | debugStop => exact execDebugStop_goesOn ..
  | resume _ => exact execResume_goesOn ..
  | dbgctlClose => exact execDbgctlClose_goesOn ..
  | bufferEnable _ _ => exact execBufferEnable_goesOn ..
  | recordWrite _ => exact execRecordWrite_goesOn ..
  | iswinArm _ => exact execIswinArm_goesOn ..
  | issueBlock => exact execIssueBlock_goesOn ..
  | counterSample => exact execCounterSample_goesOn ..
  | monitorPeriod _ => exact execMonitorPeriod_goesOn ..
  | softError _ _ => exact execSoftError_goesOn ..
  | uncorrectableError _ _ => exact execUncorrectableError_goesOn ..
  | patrolScrub _ _ => exact execPatrolScrub_goesOn ..
  | lockstepMismatch => exact execLockstepMismatch_goesOn ..
  | cpRestart => exact execCpRestart_goesOn ..
  | linkTraining _ _ _ => exact execLinkTraining_goesOn ..
  | timebaseFlit _ _ _ _ => exact execTimebaseFlit_goesOn ..
  | guardFlit _ _ => exact execGuardFlit_goesOn ..
  | dataFlit _ _ => exact execDataFlit_goesOn ..
  | signalFlit _ _ => exact execSignalFlit_goesOn ..
  | noticeFlit _ _ => exact execNoticeFlit_goesOn ..
  | mgmtFlit _ _ => exact execMgmtFlit_goesOn ..
  | lossOfLaneLock _ => exact execLossOfLaneLock_goesOn ..
  | bufferLimit _ => exact execBufferLimit_goesOn ..
  | spliceStop => exact execSpliceStop_goesOn ..
  | spliceResume => exact execSpliceResume_goesOn ..
  | guardGap _ => exact execGuardGap_goesOn ..
  | automaticGuard _ => exact execAutomaticGuard_goesOn ..
  | programStart _ => exact execProgramStart_goesOn ..
  | programDeadline _ => exact execProgramDeadline_goesOn ..
  | handlerEntry _ _ => exact execHandlerEntry_goesOn ..
  | handlerDeadline _ => exact execHandlerDeadline_goesOn ..
  | waitDeadline _ _ => exact execWaitDeadline_goesOn ..
  | weaveRelease _ => exact execWeaveRelease_goesOn ..
  | waitSatisfied _ _ => exact execWaitSatisfied_goesOn ..
  | testReturn _ _ => exact execTestReturn_goesOn ..
  | alignResume _ _ => exact execAlignResume_goesOn ..
  | fenceComplete _ _ => exact execFenceComplete_goesOn ..
  | waittResume _ _ => exact execWaittResume_goesOn ..
  | securityBlockReply => exact execSecurityBlockReply_goesOn ..
  | chunkComplete _ _ => exact execChunkComplete_goesOn ..
  | arrival _ => exact execArrival_goesOn ..
  | carriedWordIssue _ _ => exact execCarriedWordIssue_goesOn ..
  | ticketedUpdate _ _ => exact execTicketedUpdate_goesOn ..
  | queueStep _ _ => exact execQueueStep_goesOn ..
  | ftwPropagation _ _ => exact execFtwPropagation_goesOn ..
  | unassignedPattern _ => exact execUnassignedPattern_goesOn ..
  | idleFlit _ _ => exact execIdleFlit_goesOn ..
  | dieToDieBeat _ _ => exact execDieToDieBeat_goesOn ..
  | tdispError _ => exact execTdispError_goesOn ..
  | bankAtomic _ _ => exact execBankAtomic_goesOn ..
  | otherCommandCode _ _ => exact execOtherCommandCode_goesOn ..
  | unsupportedRequest _ => exact execUnsupportedRequest_goesOn ..

end Sys2Proof.Machine
end

