-- ==== Sys2Proof/Laws/PerInstr.lean ====
section
/-!
SUPPORT. Statements about every instruction, made for each constructor: decoding the words that the encoder makes of an
instruction gives it back, with every operand at every value.
-/
namespace Sys2Proof.Laws.RoundTrip
open Sys2Proof

/-- The decoder reads the encoder's words as the instruction, whatever follows them, and reads their idle count; an event
has no words. -/
def Statement (i : Instr) : Prop :=
  ∀ (idle : BitVec 3) (w : Half) (rest : List Half) (x : Half), encode idle i = w :: rest →
    decode w (rest.headD x) = some i ∧ (engineOf w < 6 → idleOf w = idle.toNat)

/-- A word's value is its four parts', where these keep within their fields. -/
theorem mkWord_toNat {e idle op p : Nat} (he : e < 8) (hi : idle < 8) (ho : op < 64) (hp : p < 2 ^ 20) :
    (mkWord e idle op p).toNat = e * 2 ^ 29 + idle * 2 ^ 26 + op * 2 ^ 20 + p := by
  unfold mkWord
  rw [BitVec.toNat_ofNat]
  apply Nat.mod_eq_of_lt
  omega

/-- The assigned words of an engine, by opcode. -/
def decodeAt (e op n : Nat) (x : Half) : Option Instr :=
  match e with
  | 0 => decodeS op n
  | 1 => decodeV op n
  | 2 => decodeM op n
  | 3 => decodeC op n x
  | 4 => decodeG op n
  | 5 => decodeY op n
  | 6 => decodeL op n
  | _ => decodeX n

/-- The engine, idle count, opcode and payload of a word's value. -/
theorem fields_of_value {n e op p idle : Nat} (hn : n = e * 2 ^ 29 + idle * 2 ^ 26 + op * 2 ^ 20 + p) (he : e < 8)
    (hi : idle < 8) (ho : op < 64) (hp : p < 2 ^ 20) :
    fld n 29 3 = e ∧ fld n 26 3 = idle ∧ fld n 20 6 = op ∧ n % 2 ^ 20 = p := by
  unfold fld
  refine ⟨?_, ?_, ?_, ?_⟩ <;> omega

/-- Where the engine and opcode of a value are known, the decoder goes to that row. -/
theorem decode_eq_decodeAt (w x : Half) (e : Nat) (h1 : fld w.toNat 29 3 = e) (he : e < 8)
    (h6 : 6 ≤ e → fld w.toNat 26 3 = 0) : decode w x = decodeAt e (fld w.toNat 20 6) w.toNat x := by
  have hk : e = 0 ∨ e = 1 ∨ e = 2 ∨ e = 3 ∨ e = 4 ∨ e = 5 ∨ e = 6 ∨ e = 7 := by omega
  unfold decode
  simp only [h1]
  rcases hk with rfl | rfl | rfl | rfl | rfl | rfl | rfl | rfl
  all_goals first | rfl | exact if_pos (h6 (by omega))

/-- What is left to show of one instruction: the decoder's row of its opcode reads its payload. -/
theorem decode_mkWord {i : Instr} {e op p idle : Nat} {x : Half} (he : e < 8) (hi : idle < 8) (h6 : 6 ≤ e → idle = 0)
    (ho : op < 64) (hp : p < 2 ^ 20) (hd : ∀ n, n % 2 ^ 20 = p → n / 2 ^ 20 % 2 ^ 6 = op → decodeAt e op n x = some i) :
    decode (mkWord e idle op p) x = some i ∧ (engineOf (mkWord e idle op p) < 6 → idleOf (mkWord e idle op p) = idle) := by
  obtain ⟨h1, h2, h3, h4⟩ := fields_of_value (mkWord_toNat he hi ho hp) he hi ho hp
  refine ⟨?_, fun _ => h2⟩
  rw [decode_eq_decodeAt _ x e h1 he fun h => h2.trans (h6 h), h3]
  exact hd _ h4 h3

/-- The round trip of a word of a core's engine, which keeps the idle count. -/
theorem of_core {i : Instr} {e op p : Nat} (he : e < 6) (hw : ∀ idle, encode idle i = [mkWord e idle.toNat op p])
    (ho : op < 64) (hp : p < 2 ^ 20) (hd : ∀ n x, n % 2 ^ 20 = p → decodeAt e op n x = some i) : Statement i := by
  intro idle w rest x h
  rw [hw] at h
  obtain ⟨rfl, rfl⟩ := List.cons.inj h
  exact decode_mkWord (by omega) idle.isLt (by omega) ho hp fun n hn _ => hd n _ hn

/-- The round trip of an L word, or of a prefix, whose target stands in the upper opcode bits. -/
theorem of_link {i : Instr} {e op p : Nat} (he : e = 6 ∨ e = 7) (hw : ∀ idle, encode idle i = [mkWord e 0 op p])
    (ho : op < 64) (hp : p < 2 ^ 20) (hd : ∀ n x, n % 2 ^ 20 = p → n / 2 ^ 20 % 2 ^ 6 = op → decodeAt e op n x = some i) :
    Statement i := by
  intro idle w rest x h
  rw [hw] at h
  obtain ⟨rfl, rfl⟩ := List.cons.inj h
  have r := decode_mkWord (x := x) (idle := 0) (by omega) (by omega) (by omega) ho hp fun n hn hm => hd n x hn hm
  refine ⟨r.1, fun hlt => ?_⟩
  have : engineOf (mkWord e 0 op p) = e := by
    unfold engineOf fld; rw [mkWord_toNat (by omega) (by omega) ho hp]; omega
  omega

/-- An event has no words. -/
theorem of_event {i : Instr} (h : ∀ idle, encode idle i = []) : Statement i := by
  intro idle w rest x hw
  rw [h] at hw
  cases hw

/-- A field read is the operand put there. -/
theorem bfld_eq {len n lo : Nat} {x : BitVec len} (h : n / 2 ^ lo % 2 ^ len = x.toNat) : bfld n lo len = x :=
  BitVec.eq_of_toNat_eq (by rw [bfld, BitVec.toNat_ofNat]; exact h)

theorem fld_eq {len n lo v : Nat} (h : n / 2 ^ lo % 2 ^ len = v) : fld n lo len = v := h

/-- The fields of a prefix. -/
theorem prefixLayout (k : Nat) {n : Nat} (tgt : BitVec 3) (pay : BitVec 20) (hk : k < 8) (h : n % 2 ^ 20 = pay.toNat)
    (hm : n / 2 ^ 20 % 2 ^ 6 = tgt.toNat * 8 + k) :
    bfld n 23 3 = tgt ∧ bfld n 0 20 = pay ∧ fld n 20 3 = k := by
  have := tgt.isLt
  have := pay.isLt
  exact ⟨bfld_eq (by omega), bfld_eq (by omega), fld_eq (by omega)⟩

/-! ### The fields of each payload layout, and its size -/

theorem layout0 {n : Nat} (x0 : BitVec 6) (x1 : BitVec 6) (x2 : BitVec 6) (h : n % 1048576 = put x0 14 + put x1 8 + put x2 2) :
    bfld n 14 6 = x0 ∧ bfld n 8 6 = x1 ∧ bfld n 2 6 = x2 ∧ fld n 0 2 = 0 ∧ True := by
  have := x0.isLt
  have := x1.isLt
  have := x2.isLt
  simp only [put] at h
  exact ⟨bfld_eq (by omega), bfld_eq (by omega), bfld_eq (by omega), fld_eq (by omega), trivial⟩
theorem layout1 {n : Nat} (x0 : BitVec 6) (x1 : BitVec 6) (x2 : BitVec 6) (x3 : BitVec 2) (h : n % 1048576 = put x0 14 + put x1 8 + put x2 2 + put x3 0) :
    bfld n 14 6 = x0 ∧ bfld n 8 6 = x1 ∧ bfld n 2 6 = x2 ∧ bfld n 0 2 = x3 ∧ True := by
  have := x0.isLt
  have := x1.isLt
  have := x2.isLt
  have := x3.isLt
  simp only [put] at h
  exact ⟨bfld_eq (by omega), bfld_eq (by omega), bfld_eq (by omega), bfld_eq (by omega), trivial⟩
theorem layout2 {n : Nat} (x0 : BitVec 6) (x1 : BitVec 6) (h : n % 1048576 = put x0 14 + put x1 8) :
    bfld n 14 6 = x0 ∧ bfld n 8 6 = x1 ∧ fld n 0 8 = 0 ∧ True := by
  have := x0.isLt
  have := x1.isLt
  simp only [put] at h
  exact ⟨bfld_eq (by omega), bfld_eq (by omega), fld_eq (by omega), trivial⟩
theorem layout3 {n : Nat} (x0 : BitVec 6) (x1 : BitVec 6) (x2 : BitVec 8) (h : n % 1048576 = put x0 14 + put x1 8 + put x2 0) :
    bfld n 14 6 = x0 ∧ bfld n 8 6 = x1 ∧ bfld n 0 8 = x2 ∧ True := by
  have := x0.isLt
  have := x1.isLt
  have := x2.isLt
  simp only [put] at h
  exact ⟨bfld_eq (by omega), bfld_eq (by omega), bfld_eq (by omega), trivial⟩
theorem layout4 {n : Nat} (x0 : BitVec 6) (x1 : BitVec 6) (x2 : BitVec 6) (h : n % 1048576 = put x0 14 + put x1 8 + put x2 0) :
    bfld n 14 6 = x0 ∧ bfld n 8 6 = x1 ∧ bfld n 0 6 = x2 ∧ fld n 6 2 = 0 ∧ True := by
  have := x0.isLt
  have := x1.isLt
  have := x2.isLt
  simp only [put] at h
  exact ⟨bfld_eq (by omega), bfld_eq (by omega), bfld_eq (by omega), fld_eq (by omega), trivial⟩
theorem layout5 {n : Nat} (x0 : BitVec 6) (x1 : BitVec 14) (h : n % 1048576 = put x0 14 + put x1 0) :
    bfld n 14 6 = x0 ∧ bfld n 0 14 = x1 ∧ True := by
  have := x0.isLt
  have := x1.isLt
  simp only [put] at h
  exact ⟨bfld_eq (by omega), bfld_eq (by omega), trivial⟩
theorem layout6 {n : Nat} (x0 : BitVec 6) (x1 : BitVec 6) (x2 : BitVec 4) (x3 : BitVec 2) (x4 : BitVec 1) (h : n % 1048576 = put x0 14 + put x1 8 + put x2 4 + put x3 2 + put x4 1) :
    bfld n 14 6 = x0 ∧ bfld n 8 6 = x1 ∧ bfld n 4 4 = x2 ∧ bfld n 2 2 = x3 ∧ bfld n 1 1 = x4 ∧ fld n 0 1 = 0 ∧ True := by
  have := x0.isLt
  have := x1.isLt
  have := x2.isLt
  have := x3.isLt
  have := x4.isLt
  simp only [put] at h
  exact ⟨bfld_eq (by omega), bfld_eq (by omega), bfld_eq (by omega), bfld_eq (by omega), bfld_eq (by omega), fld_eq (by omega), trivial⟩
theorem layout7 {n : Nat} (x0 : BitVec 6) (x1 : BitVec 6) (x2 : BitVec 4) (x3 : BitVec 2) (h : n % 1048576 = put x0 14 + put x1 8 + put x2 4 + put x3 2) :
    bfld n 14 6 = x0 ∧ bfld n 8 6 = x1 ∧ bfld n 4 4 = x2 ∧ bfld n 2 2 = x3 ∧ fld n 0 2 = 0 ∧ True := by
  have := x0.isLt
  have := x1.isLt
  have := x2.isLt
  have := x3.isLt
  simp only [put] at h
  exact ⟨bfld_eq (by omega), bfld_eq (by omega), bfld_eq (by omega), bfld_eq (by omega), fld_eq (by omega), trivial⟩
theorem layout8 {n : Nat} (x0 : BitVec 6) (x1 : BitVec 6) (x2 : BitVec 4) (h : n % 1048576 = put x0 14 + put x1 8 + put x2 0) :
    bfld n 14 6 = x0 ∧ bfld n 8 6 = x1 ∧ bfld n 0 4 = x2 ∧ fld n 4 4 = 0 ∧ True := by
  have := x0.isLt
  have := x1.isLt
  have := x2.isLt
  simp only [put] at h
  exact ⟨bfld_eq (by omega), bfld_eq (by omega), bfld_eq (by omega), fld_eq (by omega), trivial⟩
theorem layout9 {n : Nat} (x0 : BitVec 3) (x1 : BitVec 17) (h : n % 1048576 = put x0 17 + put x1 0) :
    bfld n 17 3 = x0 ∧ bfld n 0 17 = x1 ∧ True := by
  have := x0.isLt
  have := x1.isLt
  simp only [put] at h
  exact ⟨bfld_eq (by omega), bfld_eq (by omega), trivial⟩
theorem layout10 {n : Nat} (x0 : BitVec 6) (x1 : BitVec 3) (x2 : BitVec 2) (h : n % 1048576 = put x0 14 + put x1 11 + put x2 9) :
    bfld n 14 6 = x0 ∧ bfld n 11 3 = x1 ∧ bfld n 9 2 = x2 ∧ fld n 0 9 = 0 ∧ True := by
  have := x0.isLt
  have := x1.isLt
  have := x2.isLt
  simp only [put] at h
  exact ⟨bfld_eq (by omega), bfld_eq (by omega), bfld_eq (by omega), fld_eq (by omega), trivial⟩
theorem layout11 {n : Nat} (x0 : BitVec 6) (x1 : BitVec 6) (x2 : BitVec 2) (h : n % 1048576 = put x0 14 + put x1 8 + put x2 0) :
    bfld n 14 6 = x0 ∧ bfld n 8 6 = x1 ∧ bfld n 0 2 = x2 ∧ fld n 2 6 = 0 ∧ True := by
  have := x0.isLt
  have := x1.isLt
  have := x2.isLt
  simp only [put] at h
  exact ⟨bfld_eq (by omega), bfld_eq (by omega), bfld_eq (by omega), fld_eq (by omega), trivial⟩
theorem layout12 {n : Nat} (x0 : BitVec 20) (h : n % 1048576 = put x0 0) :
    bfld n 0 20 = x0 ∧ True := by
  have := x0.isLt
  simp only [put] at h
  exact ⟨bfld_eq (by omega), trivial⟩
theorem layout13 {n : Nat} (x0 : BitVec 5) (x1 : BitVec 5) (x2 : BitVec 5) (x3 : BitVec 3) (x4 : BitVec 2) (h : n % 1048576 = put x0 15 + put x1 10 + put x2 5 + put x3 2 + put x4 0) :
    bfld n 15 5 = x0 ∧ bfld n 10 5 = x1 ∧ bfld n 5 5 = x2 ∧ bfld n 2 3 = x3 ∧ bfld n 0 2 = x4 ∧ True := by
  have := x0.isLt
  have := x1.isLt
  have := x2.isLt
  have := x3.isLt
  have := x4.isLt
  simp only [put] at h
  exact ⟨bfld_eq (by omega), bfld_eq (by omega), bfld_eq (by omega), bfld_eq (by omega), bfld_eq (by omega), trivial⟩
theorem layout14 {n : Nat} (x0 : BitVec 5) (x1 : BitVec 5) (x2 : BitVec 3) (h : n % 1048576 = put x0 15 + put x1 10 + put x2 2) :
    bfld n 15 5 = x0 ∧ bfld n 10 5 = x1 ∧ bfld n 2 3 = x2 ∧ fld n 0 2 = 0 ∧ fld n 5 5 = 0 ∧ True := by
  have := x0.isLt
  have := x1.isLt
  have := x2.isLt
  simp only [put] at h
  exact ⟨bfld_eq (by omega), bfld_eq (by omega), bfld_eq (by omega), fld_eq (by omega), fld_eq (by omega), trivial⟩
theorem layout15 {n : Nat} (x0 : BitVec 5) (x1 : BitVec 5) (x2 : BitVec 3) (x3 : BitVec 3) (h : n % 1048576 = put x0 15 + put x1 10 + put x2 5 + put x3 2) :
    bfld n 15 5 = x0 ∧ bfld n 10 5 = x1 ∧ bfld n 5 3 = x2 ∧ bfld n 2 3 = x3 ∧ fld n 0 2 = 0 ∧ fld n 8 2 = 0 ∧ True := by
  have := x0.isLt
  have := x1.isLt
  have := x2.isLt
  have := x3.isLt
  simp only [put] at h
  exact ⟨bfld_eq (by omega), bfld_eq (by omega), bfld_eq (by omega), bfld_eq (by omega), fld_eq (by omega), fld_eq (by omega), trivial⟩
theorem layout16 {n : Nat} (x0 : BitVec 5) (x1 : BitVec 5) (x2 : BitVec 5) (x3 : BitVec 2) (h : n % 1048576 = put x0 15 + put x1 10 + put x2 5 + put x3 0) :
    bfld n 15 5 = x0 ∧ bfld n 10 5 = x1 ∧ bfld n 5 5 = x2 ∧ bfld n 0 2 = x3 ∧ fld n 2 3 = 0 ∧ True := by
  have := x0.isLt
  have := x1.isLt
  have := x2.isLt
  have := x3.isLt
  simp only [put] at h
  exact ⟨bfld_eq (by omega), bfld_eq (by omega), bfld_eq (by omega), bfld_eq (by omega), fld_eq (by omega), trivial⟩
theorem layout17 {n : Nat} (x0 : BitVec 6) (x1 : BitVec 5) (x2 : BitVec 5) (x3 : BitVec 3) (h : n % 1048576 = put x0 14 + put x1 9 + put x2 4 + put x3 1) :
    bfld n 14 6 = x0 ∧ bfld n 9 5 = x1 ∧ bfld n 4 5 = x2 ∧ bfld n 1 3 = x3 ∧ fld n 0 1 = 0 ∧ True := by
  have := x0.isLt
  have := x1.isLt
  have := x2.isLt
  have := x3.isLt
  simp only [put] at h
  exact ⟨bfld_eq (by omega), bfld_eq (by omega), bfld_eq (by omega), bfld_eq (by omega), fld_eq (by omega), trivial⟩
theorem layout18 {n : Nat} (x0 : BitVec 5) (x1 : BitVec 5) (x2 : BitVec 5) (x3 : BitVec 5) (h : n % 1048576 = put x0 15 + put x1 10 + put x2 5 + put x3 0) :
    bfld n 15 5 = x0 ∧ bfld n 10 5 = x1 ∧ bfld n 5 5 = x2 ∧ bfld n 0 5 = x3 ∧ True := by
  have := x0.isLt
  have := x1.isLt
  have := x2.isLt
  have := x3.isLt
  simp only [put] at h
  exact ⟨bfld_eq (by omega), bfld_eq (by omega), bfld_eq (by omega), bfld_eq (by omega), trivial⟩
theorem layout19 {n : Nat} (x0 : BitVec 6) (h : n % 1048576 = put x0 14) :
    bfld n 14 6 = x0 ∧ fld n 0 14 = 0 ∧ True := by
  have := x0.isLt
  simp only [put] at h
  exact ⟨bfld_eq (by omega), fld_eq (by omega), trivial⟩
theorem layout20 {n : Nat} (x0 : BitVec 5) (x1 : BitVec 6) (x2 : BitVec 3) (x3 : BitVec 2) (h : n % 1048576 = put x0 15 + put x1 9 + put x2 2 + put x3 0) :
    bfld n 15 5 = x0 ∧ bfld n 9 6 = x1 ∧ bfld n 2 3 = x2 ∧ bfld n 0 2 = x3 ∧ fld n 5 4 = 0 ∧ True := by
  have := x0.isLt
  have := x1.isLt
  have := x2.isLt
  have := x3.isLt
  simp only [put] at h
  exact ⟨bfld_eq (by omega), bfld_eq (by omega), bfld_eq (by omega), bfld_eq (by omega), fld_eq (by omega), trivial⟩
theorem layout21 {n : Nat} (x0 : BitVec 5) (x1 : BitVec 6) (x2 : BitVec 4) (x3 : BitVec 2) (h : n % 1048576 = put x0 15 + put x1 9 + put x2 5 + put x3 0) :
    bfld n 15 5 = x0 ∧ bfld n 9 6 = x1 ∧ bfld n 5 4 = x2 ∧ bfld n 0 2 = x3 ∧ fld n 2 3 = 0 ∧ True := by
  have := x0.isLt
  have := x1.isLt
  have := x2.isLt
  have := x3.isLt
  simp only [put] at h
  exact ⟨bfld_eq (by omega), bfld_eq (by omega), bfld_eq (by omega), bfld_eq (by omega), fld_eq (by omega), trivial⟩
theorem layout22 {n : Nat} (x0 : BitVec 5) (x1 : BitVec 3) (x2 : BitVec 2) (h : n % 1048576 = put x0 15 + put x1 2 + put x2 0) :
    bfld n 15 5 = x0 ∧ bfld n 2 3 = x1 ∧ bfld n 0 2 = x2 ∧ fld n 5 10 = 0 ∧ True := by
  have := x0.isLt
  have := x1.isLt
  have := x2.isLt
  simp only [put] at h
  exact ⟨bfld_eq (by omega), bfld_eq (by omega), bfld_eq (by omega), fld_eq (by omega), trivial⟩
theorem layout23 {n : Nat} (x0 : BitVec 5) (x1 : BitVec 5) (x2 : BitVec 5) (x3 : BitVec 1) (x4 : BitVec 1) (h : n % 1048576 = put x0 15 + put x1 10 + put x2 5 + put x3 1 + put x4 0) :
    bfld n 15 5 = x0 ∧ bfld n 10 5 = x1 ∧ bfld n 5 5 = x2 ∧ bfld n 1 1 = x3 ∧ bfld n 0 1 = x4 ∧ fld n 2 3 = 0 ∧ True := by
  have := x0.isLt
  have := x1.isLt
  have := x2.isLt
  have := x3.isLt
  have := x4.isLt
  simp only [put] at h
  exact ⟨bfld_eq (by omega), bfld_eq (by omega), bfld_eq (by omega), bfld_eq (by omega), bfld_eq (by omega), fld_eq (by omega), trivial⟩
theorem layout24 {n : Nat} (x0 : BitVec 5) (x1 : BitVec 5) (x2 : BitVec 3) (x3 : BitVec 2) (h : n % 1048576 = put x0 15 + put x1 10 + put x2 2 + put x3 0) :
    bfld n 15 5 = x0 ∧ bfld n 10 5 = x1 ∧ bfld n 2 3 = x2 ∧ bfld n 0 2 = x3 ∧ fld n 5 5 = 0 ∧ True := by
  have := x0.isLt
  have := x1.isLt
  have := x2.isLt
  have := x3.isLt
  simp only [put] at h
  exact ⟨bfld_eq (by omega), bfld_eq (by omega), bfld_eq (by omega), bfld_eq (by omega), fld_eq (by omega), trivial⟩
theorem layout25 {n : Nat} (x0 : BitVec 5) (x1 : BitVec 6) (x2 : BitVec 4) (x3 : BitVec 3) (h : n % 1048576 = put x0 15 + put x1 9 + put x2 5 + put x3 2) :
    bfld n 15 5 = x0 ∧ bfld n 9 6 = x1 ∧ bfld n 5 4 = x2 ∧ bfld n 2 3 = x3 ∧ fld n 0 2 = 0 ∧ True := by
  have := x0.isLt
  have := x1.isLt
  have := x2.isLt
  have := x3.isLt
  simp only [put] at h
  exact ⟨bfld_eq (by omega), bfld_eq (by omega), bfld_eq (by omega), bfld_eq (by omega), fld_eq (by omega), trivial⟩
theorem layout26 {n : Nat} (x0 : BitVec 5) (x1 : BitVec 5) (x2 : BitVec 5) (x3 : BitVec 3) (h : n % 1048576 = put x0 15 + put x1 10 + put x2 5 + put x3 2) :
    bfld n 15 5 = x0 ∧ bfld n 10 5 = x1 ∧ bfld n 5 5 = x2 ∧ bfld n 2 3 = x3 ∧ fld n 0 2 = 0 ∧ True := by
  have := x0.isLt
  have := x1.isLt
  have := x2.isLt
  have := x3.isLt
  simp only [put] at h
  exact ⟨bfld_eq (by omega), bfld_eq (by omega), bfld_eq (by omega), bfld_eq (by omega), fld_eq (by omega), trivial⟩
theorem layout27 {n : Nat} (x0 : BitVec 5) (x1 : BitVec 5) (x2 : BitVec 2) (x3 : BitVec 1) (x4 : BitVec 1) (x5 : BitVec 1) (h : n % 1048576 = put x0 15 + put x1 10 + put x2 8 + put x3 7 + put x4 6 + put x5 5) :
    bfld n 15 5 = x0 ∧ bfld n 10 5 = x1 ∧ bfld n 8 2 = x2 ∧ bfld n 7 1 = x3 ∧ bfld n 6 1 = x4 ∧ bfld n 5 1 = x5 ∧ fld n 0 5 = 0 ∧ True := by
  have := x0.isLt
  have := x1.isLt
  have := x2.isLt
  have := x3.isLt
  have := x4.isLt
  have := x5.isLt
  simp only [put] at h
  exact ⟨bfld_eq (by omega), bfld_eq (by omega), bfld_eq (by omega), bfld_eq (by omega), bfld_eq (by omega), bfld_eq (by omega), fld_eq (by omega), trivial⟩
theorem layout28 {n : Nat} (x0 : BitVec 5) (x1 : BitVec 2) (x2 : BitVec 1) (x3 : BitVec 1) (x4 : BitVec 4) (h : n % 1048576 = put x0 15 + put x1 13 + put x2 12 + put x3 11 + put x4 7) :
    bfld n 15 5 = x0 ∧ bfld n 13 2 = x1 ∧ bfld n 12 1 = x2 ∧ bfld n 11 1 = x3 ∧ bfld n 7 4 = x4 ∧ fld n 0 7 = 0 ∧ True := by
  have := x0.isLt
  have := x1.isLt
  have := x2.isLt
  have := x3.isLt
  have := x4.isLt
  simp only [put] at h
  exact ⟨bfld_eq (by omega), bfld_eq (by omega), bfld_eq (by omega), bfld_eq (by omega), bfld_eq (by omega), fld_eq (by omega), trivial⟩
theorem layout29 {n : Nat} (x0 : BitVec 5) (h : n % 1048576 = put x0 15) :
    bfld n 15 5 = x0 ∧ fld n 0 15 = 0 ∧ True := by
  have := x0.isLt
  simp only [put] at h
  exact ⟨bfld_eq (by omega), fld_eq (by omega), trivial⟩
theorem layout30 {n : Nat} (x0 : BitVec 5) (x1 : BitVec 5) (h : n % 1048576 = put x0 15 + put x1 10) :
    bfld n 15 5 = x0 ∧ bfld n 10 5 = x1 ∧ fld n 0 10 = 0 ∧ True := by
  have := x0.isLt
  have := x1.isLt
  simp only [put] at h
  exact ⟨bfld_eq (by omega), bfld_eq (by omega), fld_eq (by omega), trivial⟩
theorem layout31 {n : Nat} (h : n % 1048576 = 0) :
    fld n 0 20 = 0 ∧ True := by
  exact ⟨fld_eq (by omega), trivial⟩
theorem layout32 {n : Nat} (x0 : BitVec 2) (h : n % 1048576 = put x0 13) :
    bfld n 13 2 = x0 ∧ fld n 0 13 = 0 ∧ fld n 15 5 = 0 ∧ True := by
  have := x0.isLt
  simp only [put] at h
  exact ⟨bfld_eq (by omega), fld_eq (by omega), fld_eq (by omega), trivial⟩
theorem layout33 {n : Nat} (x0 : BitVec 5) (x1 : BitVec 5) (x2 : BitVec 6) (x3 : BitVec 4) (h : n % 1048576 = put x0 15 + put x1 10 + put x2 4 + put x3 0) :
    bfld n 15 5 = x0 ∧ bfld n 10 5 = x1 ∧ bfld n 4 6 = x2 ∧ bfld n 0 4 = x3 ∧ True := by
  have := x0.isLt
  have := x1.isLt
  have := x2.isLt
  have := x3.isLt
  simp only [put] at h
  exact ⟨bfld_eq (by omega), bfld_eq (by omega), bfld_eq (by omega), bfld_eq (by omega), trivial⟩
theorem layout34 {n : Nat} (x0 : BitVec 6) (x1 : BitVec 4) (h : n % 1048576 = put x0 8 + put x1 4) :
    bfld n 8 6 = x0 ∧ bfld n 4 4 = x1 ∧ fld n 0 4 = 0 ∧ fld n 14 6 = 0 ∧ True := by
  have := x0.isLt
  have := x1.isLt
  simp only [put] at h
  exact ⟨bfld_eq (by omega), bfld_eq (by omega), fld_eq (by omega), fld_eq (by omega), trivial⟩
theorem layout35 {n : Nat} (x0 : BitVec 6) (x1 : BitVec 6) (x2 : BitVec 4) (h : n % 1048576 = put x0 14 + put x1 8 + put x2 4 + 12) :
    bfld n 14 6 = x0 ∧ bfld n 8 6 = x1 ∧ bfld n 4 4 = x2 ∧ fld n 0 4 = 12 ∧ True := by
  have := x0.isLt
  have := x1.isLt
  have := x2.isLt
  simp only [put] at h
  exact ⟨bfld_eq (by omega), bfld_eq (by omega), bfld_eq (by omega), fld_eq (by omega), trivial⟩
theorem layout36 {n : Nat} (x0 : BitVec 6) (x1 : BitVec 6) (x2 : BitVec 4) (h : n % 1048576 = put x0 14 + put x1 8 + put x2 4) :
    bfld n 14 6 = x0 ∧ bfld n 8 6 = x1 ∧ bfld n 4 4 = x2 ∧ fld n 0 4 = 0 ∧ True := by
  have := x0.isLt
  have := x1.isLt
  have := x2.isLt
  simp only [put] at h
  exact ⟨bfld_eq (by omega), bfld_eq (by omega), bfld_eq (by omega), fld_eq (by omega), trivial⟩
theorem layout37 {n : Nat} (x0 : BitVec 16) (x1 : BitVec 2) (x2 : BitVec 2) (h : n % 1048576 = put x0 4 + put x1 2 + put x2 0) :
    bfld n 4 16 = x0 ∧ bfld n 2 2 = x1 ∧ bfld n 0 2 = x2 ∧ True := by
  have := x0.isLt
  have := x1.isLt
  have := x2.isLt
  simp only [put] at h
  exact ⟨bfld_eq (by omega), bfld_eq (by omega), bfld_eq (by omega), trivial⟩
theorem layout38 {n : Nat} (x0 : BitVec 1) (h : n % 1048576 = put x0 0) :
    bfld n 0 1 = x0 ∧ fld n 1 19 = 0 ∧ True := by
  have := x0.isLt
  simp only [put] at h
  exact ⟨bfld_eq (by omega), fld_eq (by omega), trivial⟩
theorem layout39 {n : Nat} (x0 : BitVec 6) (x1 : BitVec 6) (h : n % 1048576 = put x0 8 + put x1 2) :
    bfld n 8 6 = x0 ∧ bfld n 2 6 = x1 ∧ fld n 0 2 = 0 ∧ fld n 14 6 = 0 ∧ True := by
  have := x0.isLt
  have := x1.isLt
  simp only [put] at h
  exact ⟨bfld_eq (by omega), bfld_eq (by omega), fld_eq (by omega), fld_eq (by omega), trivial⟩
theorem layout40 {n : Nat} (x0 : BitVec 6) (x1 : BitVec 6) (x2 : BitVec 1) (x3 : BitVec 1) (h : n % 1048576 = put x0 14 + put x1 8 + put x2 7 + put x3 6) :
    bfld n 14 6 = x0 ∧ bfld n 8 6 = x1 ∧ bfld n 7 1 = x2 ∧ bfld n 6 1 = x3 ∧ fld n 0 6 = 0 ∧ True := by
  have := x0.isLt
  have := x1.isLt
  have := x2.isLt
  have := x3.isLt
  simp only [put] at h
  exact ⟨bfld_eq (by omega), bfld_eq (by omega), bfld_eq (by omega), bfld_eq (by omega), fld_eq (by omega), trivial⟩
theorem layout41 {n : Nat} (x0 : BitVec 6) (x1 : BitVec 6) (x2 : BitVec 1) (h : n % 1048576 = put x0 14 + put x1 8 + put x2 6) :
    bfld n 14 6 = x0 ∧ bfld n 8 6 = x1 ∧ bfld n 6 1 = x2 ∧ fld n 0 6 = 0 ∧ fld n 7 1 = 0 ∧ True := by
  have := x0.isLt
  have := x1.isLt
  have := x2.isLt
  simp only [put] at h
  exact ⟨bfld_eq (by omega), bfld_eq (by omega), bfld_eq (by omega), fld_eq (by omega), fld_eq (by omega), trivial⟩
theorem layout42 {n : Nat} (x0 : BitVec 6) (x1 : BitVec 4) (h : n % 1048576 = put x0 8 + put x1 0) :
    bfld n 8 6 = x0 ∧ bfld n 0 4 = x1 ∧ fld n 4 4 = 0 ∧ fld n 14 6 = 0 ∧ True := by
  have := x0.isLt
  have := x1.isLt
  simp only [put] at h
  exact ⟨bfld_eq (by omega), bfld_eq (by omega), fld_eq (by omega), fld_eq (by omega), trivial⟩
theorem layout43 {n : Nat} (x0 : BitVec 6) (x1 : BitVec 6) (x2 : BitVec 1) (x3 : BitVec 4) (h : n % 1048576 = put x0 14 + put x1 8 + put x2 6 + put x3 0) :
    bfld n 14 6 = x0 ∧ bfld n 8 6 = x1 ∧ bfld n 6 1 = x2 ∧ bfld n 0 4 = x3 ∧ fld n 4 2 = 0 ∧ fld n 7 1 = 0 ∧ True := by
  have := x0.isLt
  have := x1.isLt
  have := x2.isLt
  have := x3.isLt
  simp only [put] at h
  exact ⟨bfld_eq (by omega), bfld_eq (by omega), bfld_eq (by omega), bfld_eq (by omega), fld_eq (by omega), fld_eq (by omega), trivial⟩
theorem layout44 {n : Nat} (x0 : BitVec 6) (x1 : BitVec 6) (x2 : BitVec 1) (x3 : BitVec 3) (h : n % 1048576 = put x0 14 + put x1 8 + put x2 6 + put x3 0) :
    bfld n 14 6 = x0 ∧ bfld n 8 6 = x1 ∧ bfld n 6 1 = x2 ∧ bfld n 0 3 = x3 ∧ fld n 3 3 = 0 ∧ fld n 7 1 = 0 ∧ True := by
  have := x0.isLt
  have := x1.isLt
  have := x2.isLt
  have := x3.isLt
  simp only [put] at h
  exact ⟨bfld_eq (by omega), bfld_eq (by omega), bfld_eq (by omega), bfld_eq (by omega), fld_eq (by omega), fld_eq (by omega), trivial⟩
theorem layout45 {n : Nat} (x0 : BitVec 6) (x1 : BitVec 6) (x2 : BitVec 1) (h : n % 1048576 = put x0 14 + put x1 8 + put x2 0) :
    bfld n 14 6 = x0 ∧ bfld n 8 6 = x1 ∧ bfld n 0 1 = x2 ∧ fld n 1 7 = 0 ∧ True := by
  have := x0.isLt
  have := x1.isLt
  have := x2.isLt
  simp only [put] at h
  exact ⟨bfld_eq (by omega), bfld_eq (by omega), bfld_eq (by omega), fld_eq (by omega), trivial⟩
theorem payload0 (x0 : BitVec 6) (x1 : BitVec 6) (x2 : BitVec 6) : put x0 14 + put x1 8 + put x2 2 < 2 ^ 20 := by
  have := x0.isLt
  have := x1.isLt
  have := x2.isLt
  simp only [put]
  omega
theorem payload1 (x0 : BitVec 6) (x1 : BitVec 6) (x2 : BitVec 6) (x3 : BitVec 2) : put x0 14 + put x1 8 + put x2 2 + put x3 0 < 2 ^ 20 := by
  have := x0.isLt
  have := x1.isLt
  have := x2.isLt
  have := x3.isLt
  simp only [put]
  omega
theorem payload2 (x0 : BitVec 6) (x1 : BitVec 6) : put x0 14 + put x1 8 < 2 ^ 20 := by
  have := x0.isLt
  have := x1.isLt
  simp only [put]
  omega
theorem payload3 (x0 : BitVec 6) (x1 : BitVec 6) (x2 : BitVec 8) : put x0 14 + put x1 8 + put x2 0 < 2 ^ 20 := by
  have := x0.isLt
  have := x1.isLt
  have := x2.isLt
  simp only [put]
  omega
theorem payload4 (x0 : BitVec 6) (x1 : BitVec 6) (x2 : BitVec 6) : put x0 14 + put x1 8 + put x2 0 < 2 ^ 20 := by
  have := x0.isLt
  have := x1.isLt
  have := x2.isLt
  simp only [put]
  omega
theorem payload5 (x0 : BitVec 6) (x1 : BitVec 14) : put x0 14 + put x1 0 < 2 ^ 20 := by
  have := x0.isLt
  have := x1.isLt
  simp only [put]
  omega
theorem payload6 (x0 : BitVec 6) (x1 : BitVec 6) (x2 : BitVec 4) (x3 : BitVec 2) (x4 : BitVec 1) : put x0 14 + put x1 8 + put x2 4 + put x3 2 + put x4 1 < 2 ^ 20 := by
  have := x0.isLt
  have := x1.isLt
  have := x2.isLt
  have := x3.isLt
  have := x4.isLt
  simp only [put]
  omega
theorem payload7 (x0 : BitVec 6) (x1 : BitVec 6) (x2 : BitVec 4) (x3 : BitVec 2) : put x0 14 + put x1 8 + put x2 4 + put x3 2 < 2 ^ 20 := by
  have := x0.isLt
  have := x1.isLt
  have := x2.isLt
  have := x3.isLt
  simp only [put]
  omega
theorem payload8 (x0 : BitVec 6) (x1 : BitVec 6) (x2 : BitVec 4) : put x0 14 + put x1 8 + put x2 0 < 2 ^ 20 := by
  have := x0.isLt
  have := x1.isLt
  have := x2.isLt
  simp only [put]
  omega
theorem payload9 (x0 : BitVec 3) (x1 : BitVec 17) : put x0 17 + put x1 0 < 2 ^ 20 := by
  have := x0.isLt
  have := x1.isLt
  simp only [put]
  omega
theorem payload10 (x0 : BitVec 6) (x1 : BitVec 3) (x2 : BitVec 2) : put x0 14 + put x1 11 + put x2 9 < 2 ^ 20 := by
  have := x0.isLt
  have := x1.isLt
  have := x2.isLt
  simp only [put]
  omega
theorem payload11 (x0 : BitVec 6) (x1 : BitVec 6) (x2 : BitVec 2) : put x0 14 + put x1 8 + put x2 0 < 2 ^ 20 := by
  have := x0.isLt
  have := x1.isLt
  have := x2.isLt
  simp only [put]
  omega
theorem payload12 (x0 : BitVec 20) : put x0 0 < 2 ^ 20 := by
  have := x0.isLt
  simp only [put]
  omega
theorem payload13 (x0 : BitVec 5) (x1 : BitVec 5) (x2 : BitVec 5) (x3 : BitVec 3) (x4 : BitVec 2) : put x0 15 + put x1 10 + put x2 5 + put x3 2 + put x4 0 < 2 ^ 20 := by
  have := x0.isLt
  have := x1.isLt
  have := x2.isLt
  have := x3.isLt
  have := x4.isLt
  simp only [put]
  omega
theorem payload14 (x0 : BitVec 5) (x1 : BitVec 5) (x2 : BitVec 3) : put x0 15 + put x1 10 + put x2 2 < 2 ^ 20 := by
  have := x0.isLt
  have := x1.isLt
  have := x2.isLt
  simp only [put]
  omega
theorem payload15 (x0 : BitVec 5) (x1 : BitVec 5) (x2 : BitVec 3) (x3 : BitVec 3) : put x0 15 + put x1 10 + put x2 5 + put x3 2 < 2 ^ 20 := by
  have := x0.isLt
  have := x1.isLt
  have := x2.isLt
  have := x3.isLt
  simp only [put]
  omega
theorem payload16 (x0 : BitVec 5) (x1 : BitVec 5) (x2 : BitVec 5) (x3 : BitVec 2) : put x0 15 + put x1 10 + put x2 5 + put x3 0 < 2 ^ 20 := by
  have := x0.isLt
  have := x1.isLt
  have := x2.isLt
  have := x3.isLt
  simp only [put]
  omega
theorem payload17 (x0 : BitVec 6) (x1 : BitVec 5) (x2 : BitVec 5) (x3 : BitVec 3) : put x0 14 + put x1 9 + put x2 4 + put x3 1 < 2 ^ 20 := by
  have := x0.isLt
  have := x1.isLt
  have := x2.isLt
  have := x3.isLt
  simp only [put]
  omega
theorem payload18 (x0 : BitVec 5) (x1 : BitVec 5) (x2 : BitVec 5) (x3 : BitVec 5) : put x0 15 + put x1 10 + put x2 5 + put x3 0 < 2 ^ 20 := by
  have := x0.isLt
  have := x1.isLt
  have := x2.isLt
  have := x3.isLt
  simp only [put]
  omega
theorem payload19 (x0 : BitVec 6) : put x0 14 < 2 ^ 20 := by
  have := x0.isLt
  simp only [put]
  omega
theorem payload20 (x0 : BitVec 5) (x1 : BitVec 6) (x2 : BitVec 3) (x3 : BitVec 2) : put x0 15 + put x1 9 + put x2 2 + put x3 0 < 2 ^ 20 := by
  have := x0.isLt
  have := x1.isLt
  have := x2.isLt
  have := x3.isLt
  simp only [put]
  omega
theorem payload21 (x0 : BitVec 5) (x1 : BitVec 6) (x2 : BitVec 4) (x3 : BitVec 2) : put x0 15 + put x1 9 + put x2 5 + put x3 0 < 2 ^ 20 := by
  have := x0.isLt
  have := x1.isLt
  have := x2.isLt
  have := x3.isLt
  simp only [put]
  omega
theorem payload22 (x0 : BitVec 5) (x1 : BitVec 3) (x2 : BitVec 2) : put x0 15 + put x1 2 + put x2 0 < 2 ^ 20 := by
  have := x0.isLt
  have := x1.isLt
  have := x2.isLt
  simp only [put]
  omega
theorem payload23 (x0 : BitVec 5) (x1 : BitVec 5) (x2 : BitVec 5) (x3 : BitVec 1) (x4 : BitVec 1) : put x0 15 + put x1 10 + put x2 5 + put x3 1 + put x4 0 < 2 ^ 20 := by
  have := x0.isLt
  have := x1.isLt
  have := x2.isLt
  have := x3.isLt
  have := x4.isLt
  simp only [put]
  omega
theorem payload24 (x0 : BitVec 5) (x1 : BitVec 5) (x2 : BitVec 3) (x3 : BitVec 2) : put x0 15 + put x1 10 + put x2 2 + put x3 0 < 2 ^ 20 := by
  have := x0.isLt
  have := x1.isLt
  have := x2.isLt
  have := x3.isLt
  simp only [put]
  omega
theorem payload25 (x0 : BitVec 5) (x1 : BitVec 6) (x2 : BitVec 4) (x3 : BitVec 3) : put x0 15 + put x1 9 + put x2 5 + put x3 2 < 2 ^ 20 := by
  have := x0.isLt
  have := x1.isLt
  have := x2.isLt
  have := x3.isLt
  simp only [put]
  omega
theorem payload26 (x0 : BitVec 5) (x1 : BitVec 5) (x2 : BitVec 5) (x3 : BitVec 3) : put x0 15 + put x1 10 + put x2 5 + put x3 2 < 2 ^ 20 := by
  have := x0.isLt
  have := x1.isLt
  have := x2.isLt
  have := x3.isLt
  simp only [put]
  omega
theorem payload27 (x0 : BitVec 5) (x1 : BitVec 5) (x2 : BitVec 2) (x3 : BitVec 1) (x4 : BitVec 1) (x5 : BitVec 1) : put x0 15 + put x1 10 + put x2 8 + put x3 7 + put x4 6 + put x5 5 < 2 ^ 20 := by
  have := x0.isLt
  have := x1.isLt
  have := x2.isLt
  have := x3.isLt
  have := x4.isLt
  have := x5.isLt
  simp only [put]
  omega
theorem payload28 (x0 : BitVec 5) (x1 : BitVec 2) (x2 : BitVec 1) (x3 : BitVec 1) (x4 : BitVec 4) : put x0 15 + put x1 13 + put x2 12 + put x3 11 + put x4 7 < 2 ^ 20 := by
  have := x0.isLt
  have := x1.isLt
  have := x2.isLt
  have := x3.isLt
  have := x4.isLt
  simp only [put]
  omega
theorem payload29 (x0 : BitVec 5) : put x0 15 < 2 ^ 20 := by
  have := x0.isLt
  simp only [put]
  omega
theorem payload30 (x0 : BitVec 5) (x1 : BitVec 5) : put x0 15 + put x1 10 < 2 ^ 20 := by
  have := x0.isLt
  have := x1.isLt
  simp only [put]
  omega
theorem payload31 : (0 : Nat) < 2 ^ 20 := by decide
theorem payload32 (x0 : BitVec 2) : put x0 13 < 2 ^ 20 := by
  have := x0.isLt
  simp only [put]
  omega
theorem payload33 (x0 : BitVec 5) (x1 : BitVec 5) (x2 : BitVec 6) (x3 : BitVec 4) : put x0 15 + put x1 10 + put x2 4 + put x3 0 < 2 ^ 20 := by
  have := x0.isLt
  have := x1.isLt
  have := x2.isLt
  have := x3.isLt
  simp only [put]
  omega
theorem payload34 (x0 : BitVec 6) (x1 : BitVec 4) : put x0 8 + put x1 4 < 2 ^ 20 := by
  have := x0.isLt
  have := x1.isLt
  simp only [put]
  omega
theorem payload35 (x0 : BitVec 6) (x1 : BitVec 6) (x2 : BitVec 4) : put x0 14 + put x1 8 + put x2 4 + 12 < 2 ^ 20 := by
  have := x0.isLt
  have := x1.isLt
  have := x2.isLt
  simp only [put]
  omega
theorem payload36 (x0 : BitVec 6) (x1 : BitVec 6) (x2 : BitVec 4) : put x0 14 + put x1 8 + put x2 4 < 2 ^ 20 := by
  have := x0.isLt
  have := x1.isLt
  have := x2.isLt
  simp only [put]
  omega
theorem payload37 (x0 : BitVec 16) (x1 : BitVec 2) (x2 : BitVec 2) : put x0 4 + put x1 2 + put x2 0 < 2 ^ 20 := by
  have := x0.isLt
  have := x1.isLt
  have := x2.isLt
  simp only [put]
  omega
theorem payload38 (x0 : BitVec 1) : put x0 0 < 2 ^ 20 := by
  have := x0.isLt
  simp only [put]
  omega
theorem payload39 (x0 : BitVec 6) (x1 : BitVec 6) : put x0 8 + put x1 2 < 2 ^ 20 := by
  have := x0.isLt
  have := x1.isLt
  simp only [put]
  omega
theorem payload40 (x0 : BitVec 6) (x1 : BitVec 6) (x2 : BitVec 1) (x3 : BitVec 1) : put x0 14 + put x1 8 + put x2 7 + put x3 6 < 2 ^ 20 := by
  have := x0.isLt
  have := x1.isLt
  have := x2.isLt
  have := x3.isLt
  simp only [put]
  omega
theorem payload41 (x0 : BitVec 6) (x1 : BitVec 6) (x2 : BitVec 1) : put x0 14 + put x1 8 + put x2 6 < 2 ^ 20 := by
  have := x0.isLt
  have := x1.isLt
  have := x2.isLt
  simp only [put]
  omega
theorem payload42 (x0 : BitVec 6) (x1 : BitVec 4) : put x0 8 + put x1 0 < 2 ^ 20 := by
  have := x0.isLt
  have := x1.isLt
  simp only [put]
  omega
theorem payload43 (x0 : BitVec 6) (x1 : BitVec 6) (x2 : BitVec 1) (x3 : BitVec 4) : put x0 14 + put x1 8 + put x2 6 + put x3 0 < 2 ^ 20 := by
  have := x0.isLt
  have := x1.isLt
  have := x2.isLt
  have := x3.isLt
  simp only [put]
  omega
theorem payload44 (x0 : BitVec 6) (x1 : BitVec 6) (x2 : BitVec 1) (x3 : BitVec 3) : put x0 14 + put x1 8 + put x2 6 + put x3 0 < 2 ^ 20 := by
  have := x0.isLt
  have := x1.isLt
  have := x2.isLt
  have := x3.isLt
  simp only [put]
  omega
theorem payload45 (x0 : BitVec 6) (x1 : BitVec 6) (x2 : BitVec 1) : put x0 14 + put x1 8 + put x2 0 < 2 ^ 20 := by
  have := x0.isLt
  have := x1.isLt
  have := x2.isLt
  simp only [put]
  omega

/-! ### One statement per constructor -/

theorem add (d : BitVec 6) (a : BitVec 6) (b : BitVec 6) : Statement (.add d a b) :=
  of_core (e := 0) (by decide) (fun _ => rfl) (op := 0) (by decide) (payload0 d a b) fun n x hn => by
    obtain ⟨rfl, rfl, rfl, z0, _⟩ := layout0 d a b hn
    exact if_pos z0
theorem sub (d : BitVec 6) (a : BitVec 6) (b : BitVec 6) : Statement (.sub d a b) :=
  of_core (e := 0) (by decide) (fun _ => rfl) (op := 1) (by decide) (payload0 d a b) fun n x hn => by
    obtain ⟨rfl, rfl, rfl, z0, _⟩ := layout0 d a b hn
    exact if_pos z0
theorem and (d : BitVec 6) (a : BitVec 6) (b : BitVec 6) : Statement (.and d a b) :=
  of_core (e := 0) (by decide) (fun _ => rfl) (op := 2) (by decide) (payload0 d a b) fun n x hn => by
    obtain ⟨rfl, rfl, rfl, z0, _⟩ := layout0 d a b hn
    exact if_pos z0
theorem or (d : BitVec 6) (a : BitVec 6) (b : BitVec 6) : Statement (.or d a b) :=
  of_core (e := 0) (by decide) (fun _ => rfl) (op := 3) (by decide) (payload0 d a b) fun n x hn => by
    obtain ⟨rfl, rfl, rfl, z0, _⟩ := layout0 d a b hn
    exact if_pos z0
theorem xor (d : BitVec 6) (a : BitVec 6) (b : BitVec 6) : Statement (.xor d a b) :=
  of_core (e := 0) (by decide) (fun _ => rfl) (op := 4) (by decide) (payload0 d a b) fun n x hn => by
    obtain ⟨rfl, rfl, rfl, z0, _⟩ := layout0 d a b hn
    exact if_pos z0
theorem shl (d : BitVec 6) (a : BitVec 6) (b : BitVec 6) : Statement (.shl d a b) :=
  of_core (e := 0) (by decide) (fun _ => rfl) (op := 5) (by decide) (payload0 d a b) fun n x hn => by
    obtain ⟨rfl, rfl, rfl, z0, _⟩ := layout0 d a b hn
    exact if_pos z0
theorem shr (d : BitVec 6) (a : BitVec 6) (b : BitVec 6) : Statement (.shr d a b) :=
  of_core (e := 0) (by decide) (fun _ => rfl) (op := 6) (by decide) (payload0 d a b) fun n x hn => by
    obtain ⟨rfl, rfl, rfl, z0, _⟩ := layout0 d a b hn
    exact if_pos z0
theorem sha (d : BitVec 6) (a : BitVec 6) (b : BitVec 6) : Statement (.sha d a b) :=
  of_core (e := 0) (by decide) (fun _ => rfl) (op := 7) (by decide) (payload0 d a b) fun n x hn => by
    obtain ⟨rfl, rfl, rfl, z0, _⟩ := layout0 d a b hn
    exact if_pos z0
theorem mul (d : BitVec 6) (a : BitVec 6) (b : BitVec 6) : Statement (.mul d a b) :=
  of_core (e := 0) (by decide) (fun _ => rfl) (op := 8) (by decide) (payload0 d a b) fun n x hn => by
    obtain ⟨rfl, rfl, rfl, z0, _⟩ := layout0 d a b hn
    exact if_pos z0
theorem mulh (d : BitVec 6) (a : BitVec 6) (b : BitVec 6) (s : BitVec 2) : Statement (.mulh d a b s) :=
  of_core (e := 0) (by decide) (fun _ => rfl) (op := 9) (by decide) (payload1 d a b s) fun n x hn => by
    obtain ⟨rfl, rfl, rfl, rfl, _⟩ := layout1 d a b s hn
    exact rfl
theorem div (d : BitVec 6) (a : BitVec 6) (b : BitVec 6) (s : BitVec 2) : Statement (.div d a b s) :=
  of_core (e := 0) (by decide) (fun _ => rfl) (op := 10) (by decide) (payload1 d a b s) fun n x hn => by
    obtain ⟨rfl, rfl, rfl, rfl, _⟩ := layout1 d a b s hn
    exact rfl
theorem rem (d : BitVec 6) (a : BitVec 6) (b : BitVec 6) (s : BitVec 2) : Statement (.rem d a b s) :=
  of_core (e := 0) (by decide) (fun _ => rfl) (op := 11) (by decide) (payload1 d a b s) fun n x hn => by
    obtain ⟨rfl, rfl, rfl, rfl, _⟩ := layout1 d a b s hn
    exact rfl
theorem min (d : BitVec 6) (a : BitVec 6) (b : BitVec 6) (s : BitVec 2) : Statement (.min d a b s) :=
  of_core (e := 0) (by decide) (fun _ => rfl) (op := 12) (by decide) (payload1 d a b s) fun n x hn => by
    obtain ⟨rfl, rfl, rfl, rfl, _⟩ := layout1 d a b s hn
    exact rfl
theorem max (d : BitVec 6) (a : BitVec 6) (b : BitVec 6) (s : BitVec 2) : Statement (.max d a b s) :=
  of_core (e := 0) (by decide) (fun _ => rfl) (op := 13) (by decide) (payload1 d a b s) fun n x hn => by
    obtain ⟨rfl, rfl, rfl, rfl, _⟩ := layout1 d a b s hn
    exact rfl
theorem clz (d : BitVec 6) (a : BitVec 6) : Statement (.clz d a) :=
  of_core (e := 0) (by decide) (fun _ => rfl) (op := 14) (by decide) (payload2 d a) fun n x hn => by
    obtain ⟨rfl, rfl, z0, _⟩ := layout2 d a hn
    exact if_pos z0
theorem popc (d : BitVec 6) (a : BitVec 6) : Statement (.popc d a) :=
  of_core (e := 0) (by decide) (fun _ => rfl) (op := 15) (by decide) (payload2 d a) fun n x hn => by
    obtain ⟨rfl, rfl, z0, _⟩ := layout2 d a hn
    exact if_pos z0
theorem addi (d : BitVec 6) (a : BitVec 6) (imm : BitVec 8) : Statement (.addi d a imm) :=
  of_core (e := 0) (by decide) (fun _ => rfl) (op := 16) (by decide) (payload3 d a imm) fun n x hn => by
    obtain ⟨rfl, rfl, rfl, _⟩ := layout3 d a imm hn
    exact rfl
theorem andi (d : BitVec 6) (a : BitVec 6) (imm : BitVec 8) : Statement (.andi d a imm) :=
  of_core (e := 0) (by decide) (fun _ => rfl) (op := 17) (by decide) (payload3 d a imm) fun n x hn => by
    obtain ⟨rfl, rfl, rfl, _⟩ := layout3 d a imm hn
    exact rfl
theorem ori (d : BitVec 6) (a : BitVec 6) (imm : BitVec 8) : Statement (.ori d a imm) :=
  of_core (e := 0) (by decide) (fun _ => rfl) (op := 18) (by decide) (payload3 d a imm) fun n x hn => by
    obtain ⟨rfl, rfl, rfl, _⟩ := layout3 d a imm hn
    exact rfl
theorem xori (d : BitVec 6) (a : BitVec 6) (imm : BitVec 8) : Statement (.xori d a imm) :=
  of_core (e := 0) (by decide) (fun _ => rfl) (op := 19) (by decide) (payload3 d a imm) fun n x hn => by
    obtain ⟨rfl, rfl, rfl, _⟩ := layout3 d a imm hn
    exact rfl
theorem shli (d : BitVec 6) (a : BitVec 6) (imm : BitVec 6) : Statement (.shli d a imm) :=
  of_core (e := 0) (by decide) (fun _ => rfl) (op := 20) (by decide) (payload4 d a imm) fun n x hn => by
    obtain ⟨rfl, rfl, rfl, z0, _⟩ := layout4 d a imm hn
    exact if_pos z0
theorem shri (d : BitVec 6) (a : BitVec 6) (imm : BitVec 6) : Statement (.shri d a imm) :=
  of_core (e := 0) (by decide) (fun _ => rfl) (op := 21) (by decide) (payload4 d a imm) fun n x hn => by
    obtain ⟨rfl, rfl, rfl, z0, _⟩ := layout4 d a imm hn
    exact if_pos z0
theorem shai (d : BitVec 6) (a : BitVec 6) (imm : BitVec 6) : Statement (.shai d a imm) :=
  of_core (e := 0) (by decide) (fun _ => rfl) (op := 22) (by decide) (payload4 d a imm) fun n x hn => by
    obtain ⟨rfl, rfl, rfl, z0, _⟩ := layout4 d a imm hn
    exact if_pos z0
theorem li (d : BitVec 6) (imm : BitVec 14) : Statement (.li d imm) :=
  of_core (e := 0) (by decide) (fun _ => rfl) (op := 23) (by decide) (payload5 d imm) fun n x hn => by
    obtain ⟨rfl, rfl, _⟩ := layout5 d imm hn
    exact rfl
theorem lih (d : BitVec 6) (imm : BitVec 14) : Statement (.lih d imm) :=
  of_core (e := 0) (by decide) (fun _ => rfl) (op := 24) (by decide) (payload5 d imm) fun n x hn => by
    obtain ⟨rfl, rfl, _⟩ := layout5 d imm hn
    exact rfl
theorem bfx (d : BitVec 6) (a : BitVec 6) (b : BitVec 6) : Statement (.bfx d a b) :=
  of_core (e := 0) (by decide) (fun _ => rfl) (op := 25) (by decide) (payload0 d a b) fun n x hn => by
    obtain ⟨rfl, rfl, rfl, z0, _⟩ := layout0 d a b hn
    exact if_pos z0
theorem bfi (d : BitVec 6) (a : BitVec 6) (b : BitVec 6) : Statement (.bfi d a b) :=
  of_core (e := 0) (by decide) (fun _ => rfl) (op := 26) (by decide) (payload0 d a b) fun n x hn => by
    obtain ⟨rfl, rfl, rfl, z0, _⟩ := layout0 d a b hn
    exact if_pos z0
theorem addsh (d : BitVec 6) (a : BitVec 6) (b : BitVec 6) (s : BitVec 2) : Statement (.addsh d a b s) :=
  of_core (e := 0) (by decide) (fun _ => rfl) (op := 27) (by decide) (payload1 d a b s) fun n x hn => by
    obtain ⟨rfl, rfl, rfl, rfl, _⟩ := layout1 d a b s hn
    exact rfl
theorem cmpeq (p : BitVec 6) (a : BitVec 6) (b : BitVec 6) : Statement (.cmpeq p a b) :=
  of_core (e := 0) (by decide) (fun _ => rfl) (op := 28) (by decide) (payload0 p a b) fun n x hn => by
    obtain ⟨rfl, rfl, rfl, z0, _⟩ := layout0 p a b hn
    exact if_pos z0
theorem cmpne (p : BitVec 6) (a : BitVec 6) (b : BitVec 6) : Statement (.cmpne p a b) :=
  of_core (e := 0) (by decide) (fun _ => rfl) (op := 29) (by decide) (payload0 p a b) fun n x hn => by
    obtain ⟨rfl, rfl, rfl, z0, _⟩ := layout0 p a b hn
    exact if_pos z0
theorem cmplt (p : BitVec 6) (a : BitVec 6) (b : BitVec 6) (s : BitVec 2) : Statement (.cmplt p a b s) :=
  of_core (e := 0) (by decide) (fun _ => rfl) (op := 30) (by decide) (payload1 p a b s) fun n x hn => by
    obtain ⟨rfl, rfl, rfl, rfl, _⟩ := layout1 p a b s hn
    exact rfl
theorem cmple (p : BitVec 6) (a : BitVec 6) (b : BitVec 6) (s : BitVec 2) : Statement (.cmple p a b s) :=
  of_core (e := 0) (by decide) (fun _ => rfl) (op := 31) (by decide) (payload1 p a b s) fun n x hn => by
    obtain ⟨rfl, rfl, rfl, rfl, _⟩ := layout1 p a b s hn
    exact rfl
theorem widf (d : BitVec 6) (imm : BitVec 14) : Statement (.widf d imm) :=
  of_core (e := 0) (by decide) (fun _ => rfl) (op := 32) (by decide) (payload5 d imm) fun n x hn => by
    obtain ⟨rfl, rfl, _⟩ := layout5 d imm hn
    exact rfl
theorem movs (d : BitVec 6) (imm : BitVec 14) : Statement (.movs d imm) :=
  of_core (e := 0) (by decide) (fun _ => rfl) (op := 33) (by decide) (payload5 d imm) fun n x hn => by
    obtain ⟨rfl, rfl, _⟩ := layout5 d imm hn
    exact rfl
theorem movsw (g : BitVec 6) (imm : BitVec 14) : Statement (.movsw g imm) :=
  of_core (e := 0) (by decide) (fun _ => rfl) (op := 34) (by decide) (payload5 g imm) fun n x hn => by
    obtain ⟨rfl, rfl, _⟩ := layout5 g imm hn
    exact rfl
theorem sld (d : BitVec 6) (a : BitVec 6) (cls : BitVec 4) (wd : BitVec 2) (sx : BitVec 1) : Statement (.sld d a cls wd sx) :=
  of_core (e := 0) (by decide) (fun _ => rfl) (op := 35) (by decide) (payload6 d a cls wd sx) fun n x hn => by
    obtain ⟨rfl, rfl, rfl, rfl, rfl, z0, _⟩ := layout6 d a cls wd sx hn
    exact if_pos z0
theorem sst (d : BitVec 6) (a : BitVec 6) (cls : BitVec 4) (wd : BitVec 2) : Statement (.sst d a cls wd) :=
  of_core (e := 0) (by decide) (fun _ => rfl) (op := 36) (by decide) (payload7 d a cls wd) fun n x hn => by
    obtain ⟨rfl, rfl, rfl, rfl, z0, _⟩ := layout7 d a cls wd hn
    exact if_pos z0
theorem fslot (f : BitVec 6) (a : BitVec 6) (imm : BitVec 8) : Statement (.fslot f a imm) :=
  of_core (e := 0) (by decide) (fun _ => rfl) (op := 37) (by decide) (payload3 f a imm) fun n x hn => by
    obtain ⟨rfl, rfl, rfl, _⟩ := layout3 f a imm hn
    exact rfl
theorem shld (h : BitVec 6) (a : BitVec 6) (imm : BitVec 8) : Statement (.shld h a imm) :=
  of_core (e := 0) (by decide) (fun _ => rfl) (op := 38) (by decide) (payload3 h a imm) fun n x hn => by
    obtain ⟨rfl, rfl, rfl, _⟩ := layout3 h a imm hn
    exact rfl
theorem shst (h : BitVec 6) (a : BitVec 6) (imm : BitVec 8) : Statement (.shst h a imm) :=
  of_core (e := 0) (by decide) (fun _ => rfl) (op := 39) (by decide) (payload3 h a imm) fun n x hn => by
    obtain ⟨rfl, rfl, rfl, _⟩ := layout3 h a imm hn
    exact rfl
theorem shset (h : BitVec 6) (a : BitVec 6) (imm : BitVec 4) : Statement (.shset h a imm) :=
  of_core (e := 0) (by decide) (fun _ => rfl) (op := 40) (by decide) (payload8 h a imm) fun n x hn => by
    obtain ⟨rfl, rfl, rfl, z0, _⟩ := layout8 h a imm hn
    exact if_pos z0
theorem shget (d : BitVec 6) (h : BitVec 6) (imm : BitVec 4) : Statement (.shget d h imm) :=
  of_core (e := 0) (by decide) (fun _ => rfl) (op := 41) (by decide) (payload8 d h imm) fun n x hn => by
    obtain ⟨rfl, rfl, rfl, z0, _⟩ := layout8 d h imm hn
    exact if_pos z0
theorem bndset (nr : BitVec 6) (a : BitVec 6) (g : BitVec 6) (s : BitVec 2) : Statement (.bndset nr a g s) :=
  of_core (e := 0) (by decide) (fun _ => rfl) (op := 42) (by decide) (payload1 nr a g s) fun n x hn => by
    obtain ⟨rfl, rfl, rfl, rfl, _⟩ := layout1 nr a g s hn
    exact rfl
theorem pand (d : BitVec 6) (a : BitVec 6) (b : BitVec 6) (s : BitVec 2) : Statement (.pand d a b s) :=
  of_core (e := 0) (by decide) (fun _ => rfl) (op := 43) (by decide) (payload1 d a b s) fun n x hn => by
    obtain ⟨rfl, rfl, rfl, rfl, _⟩ := layout1 d a b s hn
    exact rfl
theorem por (d : BitVec 6) (a : BitVec 6) (b : BitVec 6) (s : BitVec 2) : Statement (.por d a b s) :=
  of_core (e := 0) (by decide) (fun _ => rfl) (op := 44) (by decide) (payload1 d a b s) fun n x hn => by
    obtain ⟨rfl, rfl, rfl, rfl, _⟩ := layout1 d a b s hn
    exact rfl
theorem pxor (d : BitVec 6) (a : BitVec 6) (b : BitVec 6) (s : BitVec 2) : Statement (.pxor d a b s) :=
  of_core (e := 0) (by decide) (fun _ => rfl) (op := 45) (by decide) (payload1 d a b s) fun n x hn => by
    obtain ⟨rfl, rfl, rfl, rfl, _⟩ := layout1 d a b s hn
    exact rfl
theorem psetn (p : BitVec 6) (a : BitVec 6) (imm : BitVec 8) : Statement (.psetn p a imm) :=
  of_core (e := 0) (by decide) (fun _ => rfl) (op := 46) (by decide) (payload3 p a imm) fun n x hn => by
    obtain ⟨rfl, rfl, rfl, _⟩ := layout3 p a imm hn
    exact rfl
theorem pcnt (d : BitVec 6) (p : BitVec 6) : Statement (.pcnt d p) :=
  of_core (e := 0) (by decide) (fun _ => rfl) (op := 47) (by decide) (payload2 d p) fun n x hn => by
    obtain ⟨rfl, rfl, z0, _⟩ := layout2 d p hn
    exact if_pos z0
theorem pmovg (d : BitVec 6) (p : BitVec 6) : Statement (.pmovg d p) :=
  of_core (e := 0) (by decide) (fun _ => rfl) (op := 48) (by decide) (payload2 d p) fun n x hn => by
    obtain ⟨rfl, rfl, z0, _⟩ := layout2 d p hn
    exact if_pos z0
theorem pmovp (p : BitVec 6) (a : BitVec 6) : Statement (.pmovp p a) :=
  of_core (e := 0) (by decide) (fun _ => rfl) (op := 49) (by decide) (payload2 p a) fun n x hn => by
    obtain ⟨rfl, rfl, z0, _⟩ := layout2 p a hn
    exact if_pos z0
theorem pbr (t : BitVec 3) (o : BitVec 17) : Statement (.pbr t o) :=
  of_core (e := 0) (by decide) (fun _ => rfl) (op := 50) (by decide) (payload9 t o) fun n x hn => by
    obtain ⟨rfl, rfl, _⟩ := layout9 t o hn
    exact rfl
theorem pbrg (t : BitVec 6) (a : BitVec 6) (imm : BitVec 8) : Statement (.pbrg t a imm) :=
  of_core (e := 0) (by decide) (fun _ => rfl) (op := 51) (by decide) (payload3 t a imm) fun n x hn => by
    obtain ⟨rfl, rfl, rfl, _⟩ := layout3 t a imm hn
    exact rfl
theorem br (p : BitVec 6) (t : BitVec 3) (cond : BitVec 2) : Statement (.br p t cond) :=
  of_core (e := 0) (by decide) (fun _ => rfl) (op := 52) (by decide) (payload10 p t cond) fun n x hn => by
    obtain ⟨rfl, rfl, rfl, z0, _⟩ := layout10 p t cond hn
    exact if_pos z0
theorem call (d : BitVec 6) (t : BitVec 6) : Statement (.call d t) :=
  of_core (e := 0) (by decide) (fun _ => rfl) (op := 53) (by decide) (payload2 d t) fun n x hn => by
    obtain ⟨rfl, rfl, z0, _⟩ := layout2 d t hn
    exact if_pos z0
theorem tmov (d : BitVec 6) (t : BitVec 6) (s : BitVec 2) : Statement (.tmov d t s) :=
  of_core (e := 0) (by decide) (fun _ => rfl) (op := 54) (by decide) (payload11 d t s) fun n x hn => by
    obtain ⟨rfl, rfl, rfl, z0, _⟩ := layout11 d t s hn
    exact if_pos z0
theorem exit (code : BitVec 20) : Statement (.exit code) :=
  of_core (e := 0) (by decide) (fun _ => rfl) (op := 55) (by decide) (payload12 code) fun n x hn => by
    obtain ⟨rfl, _⟩ := layout12 code hn
    exact rfl
theorem vadd (d : BitVec 5) (a : BitVec 5) (b : BitVec 5) (fs : BitVec 3) (m : BitVec 2) : Statement (.vadd d a b fs m) :=
  of_core (e := 1) (by decide) (fun _ => rfl) (op := 0) (by decide) (payload13 d a b fs m) fun n x hn => by
    obtain ⟨rfl, rfl, rfl, rfl, rfl, _⟩ := layout13 d a b fs m hn
    exact rfl
theorem vsub (d : BitVec 5) (a : BitVec 5) (b : BitVec 5) (fs : BitVec 3) (m : BitVec 2) : Statement (.vsub d a b fs m) :=
  of_core (e := 1) (by decide) (fun _ => rfl) (op := 1) (by decide) (payload13 d a b fs m) fun n x hn => by
    obtain ⟨rfl, rfl, rfl, rfl, rfl, _⟩ := layout13 d a b fs m hn
    exact rfl
theorem vmul (d : BitVec 5) (a : BitVec 5) (b : BitVec 5) (fs : BitVec 3) (m : BitVec 2) : Statement (.vmul d a b fs m) :=
  of_core (e := 1) (by decide) (fun _ => rfl) (op := 2) (by decide) (payload13 d a b fs m) fun n x hn => by
    obtain ⟨rfl, rfl, rfl, rfl, rfl, _⟩ := layout13 d a b fs m hn
    exact rfl
theorem vfma (d : BitVec 5) (a : BitVec 5) (b : BitVec 5) (fs : BitVec 3) (m : BitVec 2) : Statement (.vfma d a b fs m) :=
  of_core (e := 1) (by decide) (fun _ => rfl) (op := 3) (by decide) (payload13 d a b fs m) fun n x hn => by
    obtain ⟨rfl, rfl, rfl, rfl, rfl, _⟩ := layout13 d a b fs m hn
    exact rfl
theorem vfms (d : BitVec 5) (a : BitVec 5) (b : BitVec 5) (fs : BitVec 3) (m : BitVec 2) : Statement (.vfms d a b fs m) :=
  of_core (e := 1) (by decide) (fun _ => rfl) (op := 4) (by decide) (payload13 d a b fs m) fun n x hn => by
    obtain ⟨rfl, rfl, rfl, rfl, rfl, _⟩ := layout13 d a b fs m hn
    exact rfl
theorem vfnma (d : BitVec 5) (a : BitVec 5) (b : BitVec 5) (fs : BitVec 3) (m : BitVec 2) : Statement (.vfnma d a b fs m) :=
  of_core (e := 1) (by decide) (fun _ => rfl) (op := 5) (by decide) (payload13 d a b fs m) fun n x hn => by
    obtain ⟨rfl, rfl, rfl, rfl, rfl, _⟩ := layout13 d a b fs m hn
    exact rfl
theorem vmin (d : BitVec 5) (a : BitVec 5) (b : BitVec 5) (fs : BitVec 3) (m : BitVec 2) : Statement (.vmin d a b fs m) :=
  of_core (e := 1) (by decide) (fun _ => rfl) (op := 6) (by decide) (payload13 d a b fs m) fun n x hn => by
    obtain ⟨rfl, rfl, rfl, rfl, rfl, _⟩ := layout13 d a b fs m hn
    exact rfl
theorem vmax (d : BitVec 5) (a : BitVec 5) (b : BitVec 5) (fs : BitVec 3) (m : BitVec 2) : Statement (.vmax d a b fs m) :=
  of_core (e := 1) (by decide) (fun _ => rfl) (op := 7) (by decide) (payload13 d a b fs m) fun n x hn => by
    obtain ⟨rfl, rfl, rfl, rfl, rfl, _⟩ := layout13 d a b fs m hn
    exact rfl
theorem vdiv (d : BitVec 5) (a : BitVec 5) (b : BitVec 5) (fs : BitVec 3) (m : BitVec 2) : Statement (.vdiv d a b fs m) :=
  of_core (e := 1) (by decide) (fun _ => rfl) (op := 8) (by decide) (payload13 d a b fs m) fun n x hn => by
    obtain ⟨rfl, rfl, rfl, rfl, rfl, _⟩ := layout13 d a b fs m hn
    exact rfl
theorem vsqrt (d : BitVec 5) (a : BitVec 5) (fs : BitVec 3) : Statement (.vsqrt d a fs) :=
  of_core (e := 1) (by decide) (fun _ => rfl) (op := 9) (by decide) (payload14 d a fs) fun n x hn => by
    obtain ⟨rfl, rfl, rfl, z0, z1, _⟩ := layout14 d a fs hn
    exact if_pos ⟨z0, z1⟩
theorem vrec (d : BitVec 5) (a : BitVec 5) (fs : BitVec 3) : Statement (.vrec d a fs) :=
  of_core (e := 1) (by decide) (fun _ => rfl) (op := 10) (by decide) (payload14 d a fs) fun n x hn => by
    obtain ⟨rfl, rfl, rfl, z0, z1, _⟩ := layout14 d a fs hn
    exact if_pos ⟨z0, z1⟩
theorem vrsq (d : BitVec 5) (a : BitVec 5) (fs : BitVec 3) : Statement (.vrsq d a fs) :=
  of_core (e := 1) (by decide) (fun _ => rfl) (op := 11) (by decide) (payload14 d a fs) fun n x hn => by
    obtain ⟨rfl, rfl, rfl, z0, z1, _⟩ := layout14 d a fs hn
    exact if_pos ⟨z0, z1⟩
theorem vexp2 (d : BitVec 5) (a : BitVec 5) (fs : BitVec 3) : Statement (.vexp2 d a fs) :=
  of_core (e := 1) (by decide) (fun _ => rfl) (op := 12) (by decide) (payload14 d a fs) fun n x hn => by
    obtain ⟨rfl, rfl, rfl, z0, z1, _⟩ := layout14 d a fs hn
    exact if_pos ⟨z0, z1⟩
theorem vlog2 (d : BitVec 5) (a : BitVec 5) (fs : BitVec 3) : Statement (.vlog2 d a fs) :=
  of_core (e := 1) (by decide) (fun _ => rfl) (op := 13) (by decide) (payload14 d a fs) fun n x hn => by
    obtain ⟨rfl, rfl, rfl, z0, z1, _⟩ := layout14 d a fs hn
    exact if_pos ⟨z0, z1⟩
theorem vabs (d : BitVec 5) (a : BitVec 5) (fs : BitVec 3) : Statement (.vabs d a fs) :=
  of_core (e := 1) (by decide) (fun _ => rfl) (op := 14) (by decide) (payload14 d a fs) fun n x hn => by
    obtain ⟨rfl, rfl, rfl, z0, z1, _⟩ := layout14 d a fs hn
    exact if_pos ⟨z0, z1⟩
theorem vneg (d : BitVec 5) (a : BitVec 5) (fs : BitVec 3) : Statement (.vneg d a fs) :=
  of_core (e := 1) (by decide) (fun _ => rfl) (op := 15) (by decide) (payload14 d a fs) fun n x hn => by
    obtain ⟨rfl, rfl, rfl, z0, z1, _⟩ := layout14 d a fs hn
    exact if_pos ⟨z0, z1⟩
theorem vcvt (d : BitVec 5) (a : BitVec 5) (fsrc : BitVec 3) (fs : BitVec 3) : Statement (.vcvt d a fsrc fs) :=
  of_core (e := 1) (by decide) (fun _ => rfl) (op := 16) (by decide) (payload15 d a fsrc fs) fun n x hn => by
    obtain ⟨rfl, rfl, rfl, rfl, z0, z1, _⟩ := layout15 d a fsrc fs hn
    exact if_pos ⟨z0, z1⟩
theorem vand (d : BitVec 5) (a : BitVec 5) (b : BitVec 5) (m : BitVec 2) : Statement (.vand d a b m) :=
  of_core (e := 1) (by decide) (fun _ => rfl) (op := 17) (by decide) (payload16 d a b m) fun n x hn => by
    obtain ⟨rfl, rfl, rfl, rfl, z0, _⟩ := layout16 d a b m hn
    exact if_pos z0
theorem vor (d : BitVec 5) (a : BitVec 5) (b : BitVec 5) (m : BitVec 2) : Statement (.vor d a b m) :=
  of_core (e := 1) (by decide) (fun _ => rfl) (op := 18) (by decide) (payload16 d a b m) fun n x hn => by
    obtain ⟨rfl, rfl, rfl, rfl, z0, _⟩ := layout16 d a b m hn
    exact if_pos z0
theorem vxor (d : BitVec 5) (a : BitVec 5) (b : BitVec 5) (m : BitVec 2) : Statement (.vxor d a b m) :=
  of_core (e := 1) (by decide) (fun _ => rfl) (op := 19) (by decide) (payload16 d a b m) fun n x hn => by
    obtain ⟨rfl, rfl, rfl, rfl, z0, _⟩ := layout16 d a b m hn
    exact if_pos z0
theorem vshl (d : BitVec 5) (a : BitVec 5) (b : BitVec 5) (fs : BitVec 3) (m : BitVec 2) : Statement (.vshl d a b fs m) :=
  of_core (e := 1) (by decide) (fun _ => rfl) (op := 20) (by decide) (payload13 d a b fs m) fun n x hn => by
    obtain ⟨rfl, rfl, rfl, rfl, rfl, _⟩ := layout13 d a b fs m hn
    exact rfl
theorem vshr (d : BitVec 5) (a : BitVec 5) (b : BitVec 5) (fs : BitVec 3) (m : BitVec 2) : Statement (.vshr d a b fs m) :=
  of_core (e := 1) (by decide) (fun _ => rfl) (op := 21) (by decide) (payload13 d a b fs m) fun n x hn => by
    obtain ⟨rfl, rfl, rfl, rfl, rfl, _⟩ := layout13 d a b fs m hn
    exact rfl
theorem vsha (d : BitVec 5) (a : BitVec 5) (b : BitVec 5) (fs : BitVec 3) (m : BitVec 2) : Statement (.vsha d a b fs m) :=
  of_core (e := 1) (by decide) (fun _ => rfl) (op := 22) (by decide) (payload13 d a b fs m) fun n x hn => by
    obtain ⟨rfl, rfl, rfl, rfl, rfl, _⟩ := layout13 d a b fs m hn
    exact rfl
theorem vcmpeq (p : BitVec 6) (a : BitVec 5) (b : BitVec 5) (fs : BitVec 3) : Statement (.vcmpeq p a b fs) :=
  of_core (e := 1) (by decide) (fun _ => rfl) (op := 23) (by decide) (payload17 p a b fs) fun n x hn => by
    obtain ⟨rfl, rfl, rfl, rfl, z0, _⟩ := layout17 p a b fs hn
    exact if_pos z0
theorem vcmpne (p : BitVec 6) (a : BitVec 5) (b : BitVec 5) (fs : BitVec 3) : Statement (.vcmpne p a b fs) :=
  of_core (e := 1) (by decide) (fun _ => rfl) (op := 24) (by decide) (payload17 p a b fs) fun n x hn => by
    obtain ⟨rfl, rfl, rfl, rfl, z0, _⟩ := layout17 p a b fs hn
    exact if_pos z0
theorem vcmplt (p : BitVec 6) (a : BitVec 5) (b : BitVec 5) (fs : BitVec 3) : Statement (.vcmplt p a b fs) :=
  of_core (e := 1) (by decide) (fun _ => rfl) (op := 25) (by decide) (payload17 p a b fs) fun n x hn => by
    obtain ⟨rfl, rfl, rfl, rfl, z0, _⟩ := layout17 p a b fs hn
    exact if_pos z0
theorem vcmple (p : BitVec 6) (a : BitVec 5) (b : BitVec 5) (fs : BitVec 3) : Statement (.vcmple p a b fs) :=
  of_core (e := 1) (by decide) (fun _ => rfl) (op := 26) (by decide) (payload17 p a b fs) fun n x hn => by
    obtain ⟨rfl, rfl, rfl, rfl, z0, _⟩ := layout17 p a b fs hn
    exact if_pos z0
theorem vcmpun (p : BitVec 6) (a : BitVec 5) (b : BitVec 5) (fs : BitVec 3) : Statement (.vcmpun p a b fs) :=
  of_core (e := 1) (by decide) (fun _ => rfl) (op := 27) (by decide) (payload17 p a b fs) fun n x hn => by
    obtain ⟨rfl, rfl, rfl, rfl, z0, _⟩ := layout17 p a b fs hn
    exact if_pos z0
theorem vsel (d : BitVec 5) (a : BitVec 5) (b : BitVec 5) (pn : BitVec 5) : Statement (.vsel d a b pn) :=
  of_core (e := 1) (by decide) (fun _ => rfl) (op := 28) (by decide) (payload18 d a b pn) fun n x hn => by
    obtain ⟨rfl, rfl, rfl, rfl, _⟩ := layout18 d a b pn hn
    exact rfl
theorem vpred (p : BitVec 6) : Statement (.vpred p) :=
  of_core (e := 1) (by decide) (fun _ => rfl) (op := 29) (by decide) (payload19 p) fun n x hn => by
    obtain ⟨rfl, z0, _⟩ := layout19 p hn
    exact if_pos z0
theorem vbcast (d : BitVec 5) (g : BitVec 6) (fs : BitVec 3) (m : BitVec 2) : Statement (.vbcast d g fs m) :=
  of_core (e := 1) (by decide) (fun _ => rfl) (op := 30) (by decide) (payload20 d g fs m) fun n x hn => by
    obtain ⟨rfl, rfl, rfl, rfl, z0, _⟩ := layout20 d g fs m hn
    exact if_pos z0
theorem vlane (va : BitVec 5) (g : BitVec 6) (nh : BitVec 4) (nl : BitVec 2) : Statement (.vlane va g nh nl) :=
  of_core (e := 1) (by decide) (fun _ => rfl) (op := 31) (by decide) (payload21 va g nh nl) fun n x hn => by
    obtain ⟨rfl, rfl, rfl, rfl, z0, _⟩ := layout21 va g nh nl hn
    exact if_pos z0
theorem viota (d : BitVec 5) (fs : BitVec 3) (m : BitVec 2) : Statement (.viota d fs m) :=
  of_core (e := 1) (by decide) (fun _ => rfl) (op := 32) (by decide) (payload22 d fs m) fun n x hn => by
    obtain ⟨rfl, rfl, rfl, z0, _⟩ := layout22 d fs m hn
    exact if_pos z0
theorem vperm (d : BitVec 5) (a : BitVec 5) (b : BitVec 5) (m : BitVec 2) : Statement (.vperm d a b m) :=
  of_core (e := 1) (by decide) (fun _ => rfl) (op := 33) (by decide) (payload16 d a b m) fun n x hn => by
    obtain ⟨rfl, rfl, rfl, rfl, z0, _⟩ := layout16 d a b m hn
    exact if_pos z0
theorem vrot (d : BitVec 5) (a : BitVec 5) (k : BitVec 5) (up : BitVec 1) (hi : BitVec 1) : Statement (.vrot d a k up hi) :=
  of_core (e := 1) (by decide) (fun _ => rfl) (op := 34) (by decide) (payload23 d a k up hi) fun n x hn => by
    obtain ⟨rfl, rfl, rfl, rfl, rfl, z0, _⟩ := layout23 d a k up hi hn
    exact if_pos z0
theorem vredsum (d : BitVec 5) (a : BitVec 5) (fs : BitVec 3) (m : BitVec 2) : Statement (.vredsum d a fs m) :=
  of_core (e := 1) (by decide) (fun _ => rfl) (op := 35) (by decide) (payload24 d a fs m) fun n x hn => by
    obtain ⟨rfl, rfl, rfl, rfl, z0, _⟩ := layout24 d a fs m hn
    exact if_pos z0
theorem vredmax (d : BitVec 5) (a : BitVec 5) (fs : BitVec 3) (m : BitVec 2) : Statement (.vredmax d a fs m) :=
  of_core (e := 1) (by decide) (fun _ => rfl) (op := 36) (by decide) (payload24 d a fs m) fun n x hn => by
    obtain ⟨rfl, rfl, rfl, rfl, z0, _⟩ := layout24 d a fs m hn
    exact if_pos z0
theorem vredmin (d : BitVec 5) (a : BitVec 5) (fs : BitVec 3) (m : BitVec 2) : Statement (.vredmin d a fs m) :=
  of_core (e := 1) (by decide) (fun _ => rfl) (op := 37) (by decide) (payload24 d a fs m) fun n x hn => by
    obtain ⟨rfl, rfl, rfl, rfl, z0, _⟩ := layout24 d a fs m hn
    exact if_pos z0
theorem vscan (d : BitVec 5) (a : BitVec 5) (fs : BitVec 3) (m : BitVec 2) : Statement (.vscan d a fs m) :=
  of_core (e := 1) (by decide) (fun _ => rfl) (op := 38) (by decide) (payload24 d a fs m) fun n x hn => by
    obtain ⟨rfl, rfl, rfl, rfl, z0, _⟩ := layout24 d a fs m hn
    exact if_pos z0
theorem vld (d : BitVec 5) (g : BitVec 6) (cls : BitVec 4) (fs : BitVec 3) : Statement (.vld d g cls fs) :=
  of_core (e := 1) (by decide) (fun _ => rfl) (op := 39) (by decide) (payload25 d g cls fs) fun n x hn => by
    obtain ⟨rfl, rfl, rfl, rfl, z0, _⟩ := layout25 d g cls fs hn
    exact if_pos z0
theorem vst (v : BitVec 5) (g : BitVec 6) (cls : BitVec 4) (fs : BitVec 3) : Statement (.vst v g cls fs) :=
  of_core (e := 1) (by decide) (fun _ => rfl) (op := 40) (by decide) (payload25 v g cls fs) fun n x hn => by
    obtain ⟨rfl, rfl, rfl, rfl, z0, _⟩ := layout25 v g cls fs hn
    exact if_pos z0
theorem vlds (d : BitVec 5) (h : BitVec 5) (g : BitVec 5) (fs : BitVec 3) : Statement (.vlds d h g fs) :=
  of_core (e := 1) (by decide) (fun _ => rfl) (op := 41) (by decide) (payload26 d h g fs) fun n x hn => by
    obtain ⟨rfl, rfl, rfl, rfl, z0, _⟩ := layout26 d h g fs hn
    exact if_pos z0
theorem vsts (v : BitVec 5) (h : BitVec 5) (g : BitVec 5) (fs : BitVec 3) : Statement (.vsts v h g fs) :=
  of_core (e := 1) (by decide) (fun _ => rfl) (op := 42) (by decide) (payload26 v h g fs) fun n x hn => by
    obtain ⟨rfl, rfl, rfl, rfl, z0, _⟩ := layout26 v h g fs hn
    exact if_pos z0
theorem vlda (d : BitVec 5) (g : BitVec 6) (cls : BitVec 4) (fs : BitVec 3) : Statement (.vlda d g cls fs) :=
  of_core (e := 1) (by decide) (fun _ => rfl) (op := 43) (by decide) (payload25 d g cls fs) fun n x hn => by
    obtain ⟨rfl, rfl, rfl, rfl, z0, _⟩ := layout25 d g cls fs hn
    exact if_pos z0
theorem vsta (v : BitVec 5) (g : BitVec 6) (cls : BitVec 4) (fs : BitVec 3) : Statement (.vsta v g cls fs) :=
  of_core (e := 1) (by decide) (fun _ => rfl) (op := 44) (by decide) (payload25 v g cls fs) fun n x hn => by
    obtain ⟨rfl, rfl, rfl, rfl, z0, _⟩ := layout25 v g cls fs hn
    exact if_pos z0
theorem vrnd (d : BitVec 5) (a : BitVec 5) (g : BitVec 5) (m : BitVec 2) : Statement (.vrnd d a g m) :=
  of_core (e := 1) (by decide) (fun _ => rfl) (op := 45) (by decide) (payload16 d a g m) fun n x hn => by
    obtain ⟨rfl, rfl, rfl, rfl, z0, _⟩ := layout16 d a g m hn
    exact if_pos z0
theorem vbnd (d : BitVec 5) (a : BitVec 5) (b : BitVec 5) (fs : BitVec 3) : Statement (.vbnd d a b fs) :=
  of_core (e := 1) (by decide) (fun _ => rfl) (op := 46) (by decide) (payload26 d a b fs) fun n x hn => by
    obtain ⟨rfl, rfl, rfl, rfl, z0, _⟩ := layout26 d a b fs hn
    exact if_pos z0
theorem vscl (d : BitVec 5) (a : BitVec 5) (b : BitVec 5) (fs : BitVec 3) (m : BitVec 2) : Statement (.vscl d a b fs m) :=
  of_core (e := 1) (by decide) (fun _ => rfl) (op := 47) (by decide) (payload13 d a b fs m) fun n x hn => by
    obtain ⟨rfl, rfl, rfl, rfl, rfl, _⟩ := layout13 d a b fs m hn
    exact rfl
theorem vclass (d : BitVec 5) (a : BitVec 5) (fs : BitVec 3) : Statement (.vclass d a fs) :=
  of_core (e := 1) (by decide) (fun _ => rfl) (op := 48) (by decide) (payload14 d a fs) fun n x hn => by
    obtain ⟨rfl, rfl, rfl, z0, z1, _⟩ := layout14 d a fs hn
    exact if_pos ⟨z0, z1⟩
theorem mma (shc : BitVec 5) (sha : BitVec 5) (w : BitVec 2) (nega : BitVec 1) (negb : BitVec 1) (noacc : BitVec 1) : Statement (.mma shc sha w nega negb noacc) :=
  of_core (e := 2) (by decide) (fun _ => rfl) (op := 0) (by decide) (payload27 shc sha w nega negb noacc) fun n x hn => by
    obtain ⟨rfl, rfl, rfl, rfl, rfl, rfl, z0, _⟩ := layout27 shc sha w nega negb noacc hn
    exact if_pos z0
theorem mmas (shc : BitVec 5) (sha : BitVec 5) (w : BitVec 2) (nega : BitVec 1) (negb : BitVec 1) (noacc : BitVec 1) : Statement (.mmas shc sha w nega negb noacc) :=
  of_core (e := 2) (by decide) (fun _ => rfl) (op := 1) (by decide) (payload27 shc sha w nega negb noacc) fun n x hn => by
    obtain ⟨rfl, rfl, rfl, rfl, rfl, rfl, z0, _⟩ := layout27 shc sha w nega negb noacc hn
    exact if_pos z0
theorem mldb (shs : BitVec 5) (w : BitVec 2) (bc : BitVec 1) (trn : BitVec 1) (cls : BitVec 4) : Statement (.mldb shs w bc trn cls) :=
  of_core (e := 2) (by decide) (fun _ => rfl) (op := 2) (by decide) (payload28 shs w bc trn cls) fun n x hn => by
    obtain ⟨rfl, rfl, rfl, rfl, rfl, z0, _⟩ := layout28 shs w bc trn cls hn
    exact if_pos z0
theorem mldbs (shs : BitVec 5) (w : BitVec 2) (bc : BitVec 1) (trn : BitVec 1) (cls : BitVec 4) : Statement (.mldbs shs w bc trn cls) :=
  of_core (e := 2) (by decide) (fun _ => rfl) (op := 3) (by decide) (payload28 shs w bc trn cls) fun n x hn => by
    obtain ⟨rfl, rfl, rfl, rfl, rfl, z0, _⟩ := layout28 shs w bc trn cls hn
    exact if_pos z0
theorem mzero (shc : BitVec 5) : Statement (.mzero shc) :=
  of_core (e := 2) (by decide) (fun _ => rfl) (op := 4) (by decide) (payload29 shc) fun n x hn => by
    obtain ⟨rfl, z0, _⟩ := layout29 shc hn
    exact if_pos z0
theorem mout (shc : BitVec 5) (shd : BitVec 5) : Statement (.mout shc shd) :=
  of_core (e := 2) (by decide) (fun _ => rfl) (op := 5) (by decide) (payload30 shc shd) fun n x hn => by
    obtain ⟨rfl, rfl, z0, _⟩ := layout30 shc shd hn
    exact if_pos z0
theorem mscale (shc : BitVec 5) (shs : BitVec 5) : Statement (.mscale shc shs) :=
  of_core (e := 2) (by decide) (fun _ => rfl) (op := 6) (by decide) (payload30 shc shs) fun n x hn => by
    obtain ⟨rfl, rfl, z0, _⟩ := layout30 shc shs hn
    exact if_pos z0
theorem maddt (shc : BitVec 5) (shs : BitVec 5) : Statement (.maddt shc shs) :=
  of_core (e := 2) (by decide) (fun _ => rfl) (op := 7) (by decide) (payload30 shc shs) fun n x hn => by
    obtain ⟨rfl, rfl, z0, _⟩ := layout30 shc shs hn
    exact if_pos z0
theorem mdrain : Statement (.mdrain) :=
  of_core (e := 2) (by decide) (fun _ => rfl) (op := 8) (by decide) (payload31) fun n x hn => by
    obtain ⟨z0, _⟩ := layout31 hn
    exact if_pos z0
theorem mslotinv (w : BitVec 2) : Statement (.mslotinv w) :=
  of_core (e := 2) (by decide) (fun _ => rfl) (op := 9) (by decide) (payload32 w) fun n x hn => by
    obtain ⟨rfl, z0, z1, _⟩ := layout32 w hn
    exact if_pos ⟨z0, z1⟩
theorem cpy (shs : BitVec 5) (shd : BitVec 5) (gc : BitVec 6) (cls : BitVec 4) : Statement (.cpy shs shd gc cls) :=
  of_core (e := 3) (by decide) (fun _ => rfl) (op := 0) (by decide) (payload33 shs shd gc cls) fun n x hn => by
    obtain ⟨rfl, rfl, rfl, rfl, _⟩ := layout33 shs shd gc cls hn
    exact rfl
theorem cpym (shs : BitVec 5) (shd : BitVec 5) (gc : BitVec 6) (cls : BitVec 4) (carried : Half) : Statement (.cpym shs shd gc cls carried) := by
  intro idle w rest x h
  obtain ⟨rfl, rfl⟩ := List.cons.inj (show [mkWord 3 idle.toNat 1 (put shs 15 + put shd 10 + put gc 4 + put cls 0), carried] = w :: rest from h)
  have hp := payload33 shs shd gc cls
  refine decode_mkWord (by omega) idle.isLt (by omega) (by omega) hp fun n hn _ => ?_
  obtain ⟨rfl, rfl, rfl, rfl, _⟩ := layout33 shs shd gc cls hn
  exact rfl
theorem cpyv (shs : BitVec 5) (shd : BitVec 5) (gc : BitVec 6) (cls : BitVec 4) : Statement (.cpyv shs shd gc cls) :=
  of_core (e := 3) (by decide) (fun _ => rfl) (op := 2) (by decide) (payload33 shs shd gc cls) fun n x hn => by
    obtain ⟨rfl, rfl, rfl, rfl, _⟩ := layout33 shs shd gc cls hn
    exact rfl
theorem lnset (gstr : BitVec 6) (gcnt : BitVec 6) (lvl : BitVec 8) : Statement (.lnset gstr gcnt lvl) :=
  of_core (e := 3) (by decide) (fun _ => rfl) (op := 3) (by decide) (payload3 gstr gcnt lvl) fun n x hn => by
    obtain ⟨rfl, rfl, rfl, _⟩ := layout3 gstr gcnt lvl hn
    exact rfl
theorem lnrun (shs : BitVec 5) (shd : BitVec 5) (gc : BitVec 6) (cls : BitVec 4) : Statement (.lnrun shs shd gc cls) :=
  of_core (e := 3) (by decide) (fun _ => rfl) (op := 4) (by decide) (payload33 shs shd gc cls) fun n x hn => by
    obtain ⟨rfl, rfl, rfl, rfl, _⟩ := layout33 shs shd gc cls hn
    exact rfl
theorem lnclr : Statement (.lnclr) :=
  of_core (e := 3) (by decide) (fun _ => rfl) (op := 5) (by decide) (payload31) fun n x hn => by
    obtain ⟨z0, _⟩ := layout31 hn
    exact if_pos z0
theorem mcst (shs : BitVec 5) (shd : BitVec 5) (gc : BitVec 6) (cls : BitVec 4) : Statement (.mcst shs shd gc cls) :=
  of_core (e := 3) (by decide) (fun _ => rfl) (op := 6) (by decide) (payload33 shs shd gc cls) fun n x hn => by
    obtain ⟨rfl, rfl, rfl, rfl, _⟩ := layout33 shs shd gc cls hn
    exact rfl
theorem nfill (shs : BitVec 5) (shd : BitVec 5) (gc : BitVec 6) (cls : BitVec 4) : Statement (.nfill shs shd gc cls) :=
  of_core (e := 3) (by decide) (fun _ => rfl) (op := 7) (by decide) (payload33 shs shd gc cls) fun n x hn => by
    obtain ⟨rfl, rfl, rfl, rfl, _⟩ := layout33 shs shd gc cls hn
    exact rfl
theorem ncopy (shs : BitVec 5) (shd : BitVec 5) (gc : BitVec 6) (cls : BitVec 4) : Statement (.ncopy shs shd gc cls) :=
  of_core (e := 3) (by decide) (fun _ => rfl) (op := 8) (by decide) (payload33 shs shd gc cls) fun n x hn => by
    obtain ⟨rfl, rfl, rfl, rfl, _⟩ := layout33 shs shd gc cls hn
    exact rfl
theorem ncmp (shs : BitVec 5) (shd : BitVec 5) (gc : BitVec 6) (cls : BitVec 4) : Statement (.ncmp shs shd gc cls) :=
  of_core (e := 3) (by decide) (fun _ => rfl) (op := 9) (by decide) (payload33 shs shd gc cls) fun n x hn => by
    obtain ⟨rfl, rfl, rfl, rfl, _⟩ := layout33 shs shd gc cls hn
    exact rfl
theorem nred (shs : BitVec 5) (shd : BitVec 5) (gc : BitVec 6) (cls : BitVec 4) : Statement (.nred shs shd gc cls) :=
  of_core (e := 3) (by decide) (fun _ => rfl) (op := 10) (by decide) (payload33 shs shd gc cls) fun n x hn => by
    obtain ⟨rfl, rfl, rfl, rfl, _⟩ := layout33 shs shd gc cls hn
    exact rfl
theorem cinit (shs : BitVec 5) (shd : BitVec 5) (gc : BitVec 6) (cls : BitVec 4) : Statement (.cinit shs shd gc cls) :=
  of_core (e := 3) (by decide) (fun _ => rfl) (op := 11) (by decide) (payload33 shs shd gc cls) fun n x hn => by
    obtain ⟨rfl, rfl, rfl, rfl, _⟩ := layout33 shs shd gc cls hn
    exact rfl
theorem gath (ga : BitVec 6) (cls : BitVec 4) : Statement (.gath ga cls) :=
  of_core (e := 4) (by decide) (fun _ => rfl) (op := 0) (by decide) (payload34 ga cls) fun n x hn => by
    obtain ⟨rfl, rfl, z0, z1, _⟩ := layout34 ga cls hn
    exact if_pos ⟨z0, z1⟩
theorem gbag (ga : BitVec 6) (cls : BitVec 4) : Statement (.gbag ga cls) :=
  of_core (e := 4) (by decide) (fun _ => rfl) (op := 1) (by decide) (payload34 ga cls) fun n x hn => by
    obtain ⟨rfl, rfl, z0, z1, _⟩ := layout34 ga cls hn
    exact if_pos ⟨z0, z1⟩
theorem gscat (ga : BitVec 6) (cls : BitVec 4) : Statement (.gscat ga cls) :=
  of_core (e := 4) (by decide) (fun _ => rfl) (op := 2) (by decide) (payload34 ga cls) fun n x hn => by
    obtain ⟨rfl, rfl, z0, z1, _⟩ := layout34 ga cls hn
    exact if_pos ⟨z0, z1⟩
theorem gsadd (ga : BitVec 6) (cls : BitVec 4) : Statement (.gsadd ga cls) :=
  of_core (e := 4) (by decide) (fun _ => rfl) (op := 3) (by decide) (payload34 ga cls) fun n x hn => by
    obtain ⟨rfl, rfl, z0, z1, _⟩ := layout34 ga cls hn
    exact if_pos ⟨z0, z1⟩
theorem aadd (d : BitVec 6) (a : BitVec 6) (cls : BitVec 4) (wd : BitVec 2) : Statement (.aadd d a cls wd) :=
  of_core (e := 4) (by decide) (fun _ => rfl) (op := 4) (by decide) (payload7 d a cls wd) fun n x hn => by
    obtain ⟨rfl, rfl, rfl, rfl, z0, _⟩ := layout7 d a cls wd hn
    exact if_pos z0
theorem aand (d : BitVec 6) (a : BitVec 6) (cls : BitVec 4) (wd : BitVec 2) : Statement (.aand d a cls wd) :=
  of_core (e := 4) (by decide) (fun _ => rfl) (op := 5) (by decide) (payload7 d a cls wd) fun n x hn => by
    obtain ⟨rfl, rfl, rfl, rfl, z0, _⟩ := layout7 d a cls wd hn
    exact if_pos z0
theorem aor (d : BitVec 6) (a : BitVec 6) (cls : BitVec 4) (wd : BitVec 2) : Statement (.aor d a cls wd) :=
  of_core (e := 4) (by decide) (fun _ => rfl) (op := 6) (by decide) (payload7 d a cls wd) fun n x hn => by
    obtain ⟨rfl, rfl, rfl, rfl, z0, _⟩ := layout7 d a cls wd hn
    exact if_pos z0
theorem axor (d : BitVec 6) (a : BitVec 6) (cls : BitVec 4) (wd : BitVec 2) : Statement (.axor d a cls wd) :=
  of_core (e := 4) (by decide) (fun _ => rfl) (op := 7) (by decide) (payload7 d a cls wd) fun n x hn => by
    obtain ⟨rfl, rfl, rfl, rfl, z0, _⟩ := layout7 d a cls wd hn
    exact if_pos z0
theorem amin (d : BitVec 6) (a : BitVec 6) (cls : BitVec 4) (wd : BitVec 2) (sx : BitVec 1) : Statement (.amin d a cls wd sx) :=
  of_core (e := 4) (by decide) (fun _ => rfl) (op := 8) (by decide) (payload6 d a cls wd sx) fun n x hn => by
    obtain ⟨rfl, rfl, rfl, rfl, rfl, z0, _⟩ := layout6 d a cls wd sx hn
    exact if_pos z0
theorem amax (d : BitVec 6) (a : BitVec 6) (cls : BitVec 4) (wd : BitVec 2) (sx : BitVec 1) : Statement (.amax d a cls wd sx) :=
  of_core (e := 4) (by decide) (fun _ => rfl) (op := 9) (by decide) (payload6 d a cls wd sx) fun n x hn => by
    obtain ⟨rfl, rfl, rfl, rfl, rfl, z0, _⟩ := layout6 d a cls wd sx hn
    exact if_pos z0
theorem afadd (d : BitVec 6) (a : BitVec 6) (cls : BitVec 4) (wd : BitVec 2) : Statement (.afadd d a cls wd) :=
  of_core (e := 4) (by decide) (fun _ => rfl) (op := 10) (by decide) (payload7 d a cls wd) fun n x hn => by
    obtain ⟨rfl, rfl, rfl, rfl, z0, _⟩ := layout7 d a cls wd hn
    exact if_pos z0
theorem aswap (d : BitVec 6) (a : BitVec 6) (cls : BitVec 4) (wd : BitVec 2) : Statement (.aswap d a cls wd) :=
  of_core (e := 4) (by decide) (fun _ => rfl) (op := 11) (by decide) (payload7 d a cls wd) fun n x hn => by
    obtain ⟨rfl, rfl, rfl, rfl, z0, _⟩ := layout7 d a cls wd hn
    exact if_pos z0
theorem acas (d : BitVec 6) (a : BitVec 6) (cls : BitVec 4) (wd : BitVec 2) : Statement (.acas d a cls wd) :=
  of_core (e := 4) (by decide) (fun _ => rfl) (op := 12) (by decide) (payload7 d a cls wd) fun n x hn => by
    obtain ⟨rfl, rfl, rfl, rfl, z0, _⟩ := layout7 d a cls wd hn
    exact if_pos z0
theorem qpush (d : BitVec 6) (q : BitVec 6) (cls : BitVec 4) : Statement (.qpush d q cls) :=
  of_core (e := 4) (by decide) (fun _ => rfl) (op := 13) (by decide) (payload35 d q cls) fun n x hn => by
    obtain ⟨rfl, rfl, rfl, z0, _⟩ := layout35 d q cls hn
    exact if_pos z0
theorem qpop (d : BitVec 6) (q : BitVec 6) (cls : BitVec 4) : Statement (.qpop d q cls) :=
  of_core (e := 4) (by decide) (fun _ => rfl) (op := 14) (by decide) (payload35 d q cls) fun n x hn => by
    obtain ⟨rfl, rfl, rfl, z0, _⟩ := layout35 d q cls hn
    exact if_pos z0
theorem swinit (d : BitVec 6) (a : BitVec 6) (cls : BitVec 4) : Statement (.swinit d a cls) :=
  of_core (e := 5) (by decide) (fun _ => rfl) (op := 0) (by decide) (payload36 d a cls) fun n x hn => by
    obtain ⟨rfl, rfl, rfl, z0, _⟩ := layout36 d a cls hn
    exact if_pos z0
theorem arrive (d : BitVec 6) (a : BitVec 6) (cls : BitVec 4) : Statement (.arrive d a cls) :=
  of_core (e := 5) (by decide) (fun _ => rfl) (op := 1) (by decide) (payload36 d a cls) fun n x hn => by
    obtain ⟨rfl, rfl, rfl, z0, _⟩ := layout36 d a cls hn
    exact if_pos z0
theorem waitg (d : BitVec 6) (a : BitVec 6) (imm : BitVec 8) : Statement (.waitg d a imm) :=
  of_core (e := 5) (by decide) (fun _ => rfl) (op := 2) (by decide) (payload3 d a imm) fun n x hn => by
    obtain ⟨rfl, rfl, rfl, _⟩ := layout3 d a imm hn
    exact rfl
theorem waitm (d : BitVec 6) (a : BitVec 6) (imm : BitVec 8) : Statement (.waitm d a imm) :=
  of_core (e := 5) (by decide) (fun _ => rfl) (op := 3) (by decide) (payload3 d a imm) fun n x hn => by
    obtain ⟨rfl, rfl, rfl, _⟩ := layout3 d a imm hn
    exact rfl
theorem testg (p : BitVec 6) (a : BitVec 6) (imm : BitVec 8) : Statement (.testg p a imm) :=
  of_core (e := 5) (by decide) (fun _ => rfl) (op := 4) (by decide) (payload3 p a imm) fun n x hn => by
    obtain ⟨rfl, rfl, rfl, _⟩ := layout3 p a imm hn
    exact rfl
theorem testm (p : BitVec 6) (a : BitVec 6) (imm : BitVec 8) : Statement (.testm p a imm) :=
  of_core (e := 5) (by decide) (fun _ => rfl) (op := 5) (by decide) (payload3 p a imm) fun n x hn => by
    obtain ⟨rfl, rfl, rfl, _⟩ := layout3 p a imm hn
    exact rfl
theorem align (d : BitVec 6) (a : BitVec 6) (imm : BitVec 8) : Statement (.align d a imm) :=
  of_core (e := 5) (by decide) (fun _ => rfl) (op := 6) (by decide) (payload3 d a imm) fun n x hn => by
    obtain ⟨rfl, rfl, rfl, _⟩ := layout3 d a imm hn
    exact rfl
theorem fence (mask : BitVec 16) (kind : BitVec 2) (scope : BitVec 2) : Statement (.fence mask kind scope) :=
  of_core (e := 5) (by decide) (fun _ => rfl) (op := 7) (by decide) (payload37 mask kind scope) fun n x hn => by
    obtain ⟨rfl, rfl, rfl, _⟩ := layout37 mask kind scope hn
    exact rfl
theorem trap (code : BitVec 20) : Statement (.trap code) :=
  of_core (e := 5) (by decide) (fun _ => rfl) (op := 8) (by decide) (payload12 code) fun n x hn => by
    obtain ⟨rfl, _⟩ := layout12 code hn
    exact rfl
theorem rett : Statement (.rett) :=
  of_core (e := 5) (by decide) (fun _ => rfl) (op := 9) (by decide) (payload31) fun n x hn => by
    obtain ⟨z0, _⟩ := layout31 hn
    exact if_pos z0
theorem ftw (v : BitVec 6) (a : BitVec 6) (imm : BitVec 8) : Statement (.ftw v a imm) :=
  of_core (e := 5) (by decide) (fun _ => rfl) (op := 10) (by decide) (payload3 v a imm) fun n x hn => by
    obtain ⟨rfl, rfl, rfl, _⟩ := layout3 v a imm hn
    exact rfl
theorem ftr (d : BitVec 6) (a : BitVec 6) (imm : BitVec 8) : Statement (.ftr d a imm) :=
  of_core (e := 5) (by decide) (fun _ => rfl) (op := 11) (by decide) (payload3 d a imm) fun n x hn => by
    obtain ⟨rfl, rfl, rfl, _⟩ := layout3 d a imm hn
    exact rfl
theorem bfmt (v : BitVec 6) (a : BitVec 6) (imm : BitVec 8) : Statement (.bfmt v a imm) :=
  of_core (e := 5) (by decide) (fun _ => rfl) (op := 12) (by decide) (payload3 v a imm) fun n x hn => by
    obtain ⟨rfl, rfl, rfl, _⟩ := layout3 v a imm hn
    exact rfl
theorem flowreq (d : BitVec 6) (a : BitVec 6) (b : BitVec 6) : Statement (.flowreq d a b) :=
  of_core (e := 5) (by decide) (fun _ => rfl) (op := 13) (by decide) (payload0 d a b) fun n x hn => by
    obtain ⟨rfl, rfl, rfl, z0, _⟩ := layout0 d a b hn
    exact if_pos z0
theorem event (gs : BitVec 6) (code : BitVec 14) : Statement (.event gs code) :=
  of_core (e := 5) (by decide) (fun _ => rfl) (op := 14) (by decide) (payload5 gs code) fun n x hn => by
    obtain ⟨rfl, rfl, _⟩ := layout5 gs code hn
    exact rfl
theorem wpset (nr : BitVec 6) (a : BitVec 6) (b : BitVec 6) : Statement (.wpset nr a b) :=
  of_core (e := 5) (by decide) (fun _ => rfl) (op := 15) (by decide) (payload0 nr a b) fun n x hn => by
    obtain ⟨rfl, rfl, rfl, z0, _⟩ := layout0 nr a b hn
    exact if_pos z0
theorem icinv (m : BitVec 1) : Statement (.icinv m) :=
  of_core (e := 5) (by decide) (fun _ => rfl) (op := 16) (by decide) (payload38 m) fun n x hn => by
    obtain ⟨rfl, z0, _⟩ := layout38 m hn
    exact if_pos z0
theorem waitt (d : BitVec 6) (a : BitVec 6) (imm : BitVec 8) : Statement (.waitt d a imm) :=
  of_core (e := 5) (by decide) (fun _ => rfl) (op := 17) (by decide) (payload3 d a imm) fun n x hn => by
    obtain ⟨rfl, rfl, rfl, _⟩ := layout3 d a imm hn
    exact rfl
theorem fuserd (d : BitVec 6) (a : BitVec 6) (imm : BitVec 8) : Statement (.fuserd d a imm) :=
  of_core (e := 5) (by decide) (fun _ => rfl) (op := 18) (by decide) (payload3 d a imm) fun n x hn => by
    obtain ⟨rfl, rfl, rfl, _⟩ := layout3 d a imm hn
    exact rfl
theorem keywipe (d : BitVec 6) (imm : BitVec 14) : Statement (.keywipe d imm) :=
  of_core (e := 5) (by decide) (fun _ => rfl) (op := 19) (by decide) (payload5 d imm) fun n x hn => by
    obtain ⟨rfl, rfl, _⟩ := layout5 d imm hn
    exact rfl
theorem keyld (d : BitVec 6) (a : BitVec 6) (b : BitVec 6) : Statement (.keyld d a b) :=
  of_core (e := 5) (by decide) (fun _ => rfl) (op := 20) (by decide) (payload0 d a b) fun n x hn => by
    obtain ⟨rfl, rfl, rfl, z0, _⟩ := layout0 d a b hn
    exact if_pos z0
theorem dbgunlk (d : BitVec 6) (a : BitVec 6) (b : BitVec 6) : Statement (.dbgunlk d a b) :=
  of_core (e := 5) (by decide) (fun _ => rfl) (op := 21) (by decide) (payload0 d a b) fun n x hn => by
    obtain ⟨rfl, rfl, rfl, z0, _⟩ := layout0 d a b hn
    exact if_pos z0
theorem measure (a : BitVec 6) (b : BitVec 6) : Statement (.measure a b) :=
  of_core (e := 5) (by decide) (fun _ => rfl) (op := 22) (by decide) (payload39 a b) fun n x hn => by
    obtain ⟨rfl, rfl, z0, z1, _⟩ := layout39 a b hn
    exact if_pos ⟨z0, z1⟩
theorem attest (a : BitVec 6) (b : BitVec 6) : Statement (.attest a b) :=
  of_core (e := 5) (by decide) (fun _ => rfl) (op := 23) (by decide) (payload39 a b) fun n x hn => by
    obtain ⟨rfl, rfl, z0, z1, _⟩ := layout39 a b hn
    exact if_pos ⟨z0, z1⟩
theorem yield : Statement (.yield) :=
  of_core (e := 5) (by decide) (fun _ => rfl) (op := 24) (by decide) (payload31) fun n x hn => by
    obtain ⟨z0, _⟩ := layout31 hn
    exact if_pos z0
theorem lat (imm : BitVec 20) : Statement (.lat imm) :=
  of_link (Or.inl rfl) (fun _ => rfl) (op := 0) (by decide) (payload12 imm) fun n x hn _ => by
    obtain ⟨rfl, _⟩ := layout12 imm hn
    exact rfl
theorem lsend (ad : BitVec 6) (an : BitVec 6) (rel : BitVec 1) (inc : BitVec 1) : Statement (.lsend ad an rel inc) :=
  of_link (Or.inl rfl) (fun _ => rfl) (op := 1) (by decide) (payload40 ad an rel inc) fun n x hn _ => by
    obtain ⟨rfl, rfl, rfl, rfl, z0, _⟩ := layout40 ad an rel inc hn
    exact if_pos z0
theorem lrecv (ad : BitVec 6) (an : BitVec 6) (inc : BitVec 1) : Statement (.lrecv ad an inc) :=
  of_link (Or.inl rfl) (fun _ => rfl) (op := 2) (by decide) (payload41 ad an inc) fun n x hn _ => by
    obtain ⟨rfl, rfl, rfl, z0, z1, _⟩ := layout41 ad an inc hn
    exact if_pos ⟨z0, z1⟩
theorem lfwd (an : BitVec 6) (port : BitVec 4) : Statement (.lfwd an port) :=
  of_link (Or.inl rfl) (fun _ => rfl) (op := 3) (by decide) (payload42 an port) fun n x hn _ => by
    obtain ⟨rfl, rfl, z0, z1, _⟩ := layout42 an port hn
    exact if_pos ⟨z0, z1⟩
theorem lrfwd (ad : BitVec 6) (an : BitVec 6) (inc : BitVec 1) (port : BitVec 4) : Statement (.lrfwd ad an inc port) :=
  of_link (Or.inl rfl) (fun _ => rfl) (op := 4) (by decide) (payload43 ad an inc port) fun n x hn _ => by
    obtain ⟨rfl, rfl, rfl, rfl, z0, z1, _⟩ := layout43 ad an inc port hn
    exact if_pos ⟨z0, z1⟩
theorem lradd (ad : BitVec 6) (an : BitVec 6) (inc : BitVec 1) (fc : BitVec 3) : Statement (.lradd ad an inc fc) :=
  of_link (Or.inl rfl) (fun _ => rfl) (op := 5) (by decide) (payload44 ad an inc fc) fun n x hn _ => by
    obtain ⟨rfl, rfl, rfl, rfl, z0, z1, _⟩ := layout44 ad an inc fc hn
    exact if_pos ⟨z0, z1⟩
theorem lsig (ad : BitVec 6) (an : BitVec 6) (dir : BitVec 1) : Statement (.lsig ad an dir) :=
  of_link (Or.inl rfl) (fun _ => rfl) (op := 6) (by decide) (payload45 ad an dir) fun n x hn _ => by
    obtain ⟨rfl, rfl, rfl, z0, _⟩ := layout45 ad an dir hn
    exact if_pos z0
theorem lguard (imm : BitVec 20) : Statement (.lguard imm) :=
  of_link (Or.inl rfl) (fun _ => rfl) (op := 7) (by decide) (payload12 imm) fun n x hn _ => by
    obtain ⟨rfl, _⟩ := layout12 imm hn
    exact rfl
theorem lloop (ad : BitVec 6) (imm : BitVec 14) : Statement (.lloop ad imm) :=
  of_link (Or.inl rfl) (fun _ => rfl) (op := 8) (by decide) (payload5 ad imm) fun n x hn _ => by
    obtain ⟨rfl, rfl, _⟩ := layout5 ad imm hn
    exact rfl
theorem lend : Statement (.lend) :=
  of_link (Or.inl rfl) (fun _ => rfl) (op := 9) (by decide) (payload31) fun n x hn _ => by
    obtain ⟨z0, _⟩ := layout31 hn
    exact if_pos z0
theorem lchk (ad : BitVec 6) (imm : BitVec 14) : Statement (.lchk ad imm) :=
  of_link (Or.inl rfl) (fun _ => rfl) (op := 10) (by decide) (payload5 ad imm) fun n x hn _ => by
    obtain ⟨rfl, rfl, _⟩ := layout5 ad imm hn
    exact rfl
theorem lhalt (code : BitVec 20) : Statement (.lhalt code) :=
  of_link (Or.inl rfl) (fun _ => rfl) (op := 11) (by decide) (payload12 code) fun n x hn _ => by
    obtain ⟨rfl, _⟩ := layout12 code hn
    exact rfl
theorem lset (ad : BitVec 6) (imm : BitVec 14) : Statement (.lset ad imm) :=
  of_link (Or.inl rfl) (fun _ => rfl) (op := 12) (by decide) (payload5 ad imm) fun n x hn _ => by
    obtain ⟨rfl, rfl, _⟩ := layout5 ad imm hn
    exact rfl
theorem ladd (ad : BitVec 6) (aa : BitVec 6) (imm : BitVec 8) : Statement (.ladd ad aa imm) :=
  of_link (Or.inl rfl) (fun _ => rfl) (op := 13) (by decide) (payload3 ad aa imm) fun n x hn _ => by
    obtain ⟨rfl, rfl, rfl, _⟩ := layout3 ad aa imm hn
    exact rfl
theorem ximm (tgt : BitVec 3) (pay : BitVec 20) : Statement (.ximm tgt pay) := by
  have ht := tgt.isLt
  have hy := pay.isLt
  refine of_link (e := 7) (op := tgt.toNat * 8 + 0) (p := pay.toNat) (Or.inr rfl) (fun _ => ?_) (by omega) hy ?_
  · exact congrArg (fun z => [BitVec.ofNat 32 z]) (by simp only [put]; rw [if_neg (by decide)]; omega)
  · intro n x hn hm
    obtain ⟨rfl, rfl, k⟩ := prefixLayout 0 tgt pay (by omega) hn hm
    simp only [decodeAt, decodeX, k]
theorem xidle (tgt : BitVec 3) (pay : BitVec 20) : Statement (.xidle tgt pay) := by
  have ht := tgt.isLt
  have hy := pay.isLt
  refine of_link (e := 7) (op := tgt.toNat * 8 + 1) (p := pay.toNat) (Or.inr rfl) (fun _ => ?_) (by omega) hy ?_
  · exact congrArg (fun z => [BitVec.ofNat 32 z]) (by simp only [put]; rw [if_neg (by decide)]; omega)
  · intro n x hn hm
    obtain ⟨rfl, rfl, k⟩ := prefixLayout 1 tgt pay (by omega) hn hm
    simp only [decodeAt, decodeX, k]
theorem xmod (tgt : BitVec 3) (pay : BitVec 20) : Statement (.xmod tgt pay) := by
  have ht := tgt.isLt
  have hy := pay.isLt
  refine of_link (e := 7) (op := tgt.toNat * 8 + 2) (p := pay.toNat) (Or.inr rfl) (fun _ => ?_) (by omega) hy ?_
  · exact congrArg (fun z => [BitVec.ofNat 32 z]) (by simp only [put]; rw [if_neg (by decide)]; omega)
  · intro n x hn hm
    obtain ⟨rfl, rfl, k⟩ := prefixLayout 2 tgt pay (by omega) hn hm
    simp only [decodeAt, decodeX, k]
theorem extest (din : Word) : Statement (.extest din) := of_event fun _ => rfl
theorem samplePreload (din : Word) : Statement (.samplePreload din) := of_event fun _ => rfl
theorem idcode : Statement (.idcode) := of_event fun _ => rfl
theorem dbgaddr (din : Word) : Statement (.dbgaddr din) := of_event fun _ => rfl
theorem dbgdataRead : Statement (.dbgdataRead) := of_event fun _ => rfl
theorem dbgdataWrite (din : Word) : Statement (.dbgdataWrite din) := of_event fun _ => rfl
theorem dbgstat : Statement (.dbgstat) := of_event fun _ => rfl
theorem bypass : Statement (.bypass) := of_event fun _ => rfl
theorem doorbell (att : Nat) (n : Nat) (tail : BitVec 16) : Statement (.doorbell att n tail) := of_event fun _ => rfl
theorem hwqPoll (n : Nat) : Statement (.hwqPoll n) := of_event fun _ => rfl
theorem launchRecord (n : Nat) : Statement (.launchRecord n) := of_event fun _ => rfl
theorem launchLoad (n : Nat) : Statement (.launchLoad n) := of_event fun _ => rfl
theorem graphStart (n : Nat) : Statement (.graphStart n) := of_event fun _ => rfl
theorem nodeLaunch (n : Nat) : Statement (.nodeLaunch n) := of_event fun _ => rfl
theorem nodeCopy (n : Nat) : Statement (.nodeCopy n) := of_event fun _ => rfl
theorem nodeCond (n : Nat) : Statement (.nodeCond n) := of_event fun _ => rfl
theorem nodeLoop (n : Nat) : Statement (.nodeLoop n) := of_event fun _ => rfl
theorem nodeWait (n : Nat) : Statement (.nodeWait n) := of_event fun _ => rfl
theorem waitNodeExpiry (n : Nat) : Statement (.waitNodeExpiry n) := of_event fun _ => rfl
theorem nodeSignal (n : Nat) : Statement (.nodeSignal n) := of_event fun _ => rfl
theorem nodeEnd (n : Nat) : Statement (.nodeEnd n) := of_event fun _ => rfl
theorem taskBind (core : Nat) : Statement (.taskBind core) := of_event fun _ => rfl
theorem slotActivate (core : Nat) : Statement (.slotActivate core) := of_event fun _ => rfl
theorem taskRetire (core : Nat) (slot : Nat) : Statement (.taskRetire core slot) := of_event fun _ => rfl
theorem launchComplete (n : Nat) : Statement (.launchComplete n) := of_event fun _ => rfl
theorem writeCtxcfg (att : Nat) (target : CfgTarget) (value : BitVec 256) : Statement (.writeCtxcfg att target value) := of_event fun _ => rfl
theorem acquireLease (att : Nat) (base : Word) (limit : Word) : Statement (.acquireLease att base limit) := of_event fun _ => rfl
theorem releaseLease (att : Nat) (n : Nat) : Statement (.releaseLease att n) := of_event fun _ => rfl
theorem preEmptOrRestore (att : Nat) (n : Nat) (what : Preemption) : Statement (.preEmptOrRestore att n what) := of_event fun _ => rfl
theorem frameWrite (n : Nat) : Statement (.frameWrite n) := of_event fun _ => rfl
theorem restore (n : Nat) : Statement (.restore n) := of_event fun _ => rfl
theorem readViolationLog (att : Nat) (ctx : Nat) (index : Nat) : Statement (.readViolationLog att ctx index) := of_event fun _ => rfl
theorem advanceLifecycle (att : Nat) (token : List Byte) : Statement (.advanceLifecycle att token) := of_event fun _ => rfl
theorem tdispLock (att : Nat) (ctx : Nat) : Statement (.tdispLock att ctx) := of_event fun _ => rfl
theorem tdispStart (att : Nat) (ctx : Nat) : Statement (.tdispStart att ctx) := of_event fun _ => rfl
theorem tdispStop (att : Nat) (ctx : Nat) : Statement (.tdispStop att ctx) := of_event fun _ => rfl
theorem registerWrite (src : Writer) (addr : Nat) (value : Word) : Statement (.registerWrite src addr value) := of_event fun _ => rfl
theorem atsCompletion (core : Nat) (entry : Nat) (answer : Translation) : Statement (.atsCompletion core entry answer) := of_event fun _ => rfl
theorem priResponse (core : Nat) (entry : Nat) (answer : PageAnswer) : Statement (.priResponse core entry answer) := of_event fun _ => rfl
theorem atsInvalidation (att : Nat) (pasid : BitVec 20) (base : Nat) (len : Nat) : Statement (.atsInvalidation att pasid base len) := of_event fun _ => rfl
theorem invalidationCompletion (att : Nat) (pasid : BitVec 20) (base : Nat) (len : Nat) : Statement (.invalidationCompletion att pasid base len) := of_event fun _ => rfl
theorem cxlMemRead (att : Nat) (addr : Nat) : Statement (.cxlMemRead att addr) := of_event fun _ => rfl
theorem cxlMemWrite (att : Nat) (addr : Nat) (data : List Byte) (mask : BitVec 64) : Statement (.cxlMemWrite att addr data mask) := of_event fun _ => rfl
theorem hostLinkDown (att : Nat) : Statement (.hostLinkDown att) := of_event fun _ => rfl
theorem functionLevelReset (att : Nat) : Statement (.functionLevelReset att) := of_event fun _ => rfl
theorem getVersion : Statement (.getVersion) := of_event fun _ => rfl
theorem getCapabilities : Statement (.getCapabilities) := of_event fun _ => rfl
theorem negotiateAlgorithms : Statement (.negotiateAlgorithms) := of_event fun _ => rfl
theorem getDigests : Statement (.getDigests) := of_event fun _ => rfl
theorem getCertificate (slot : Nat) (offset : Nat) (len : Nat) : Statement (.getCertificate slot offset len) := of_event fun _ => rfl
theorem challenge (slot : Nat) (nonce : BitVec 256) : Statement (.challenge slot nonce) := of_event fun _ => rfl
theorem getMeasurements (index : Nat) (nonce : BitVec 256) : Statement (.getMeasurements index nonce) := of_event fun _ => rfl
theorem keyExchange (slot : Nat) (share : BitVec 768) : Statement (.keyExchange slot share) := of_event fun _ => rfl
theorem finish (mac : BitVec 384) : Statement (.finish mac) := of_event fun _ => rfl
theorem endSession : Statement (.endSession) := of_event fun _ => rfl
theorem keyProg (stream : Nat) (dir : Nat) (key : BitVec 256) : Statement (.keyProg stream dir key) := of_event fun _ => rfl
theorem kSetGo (stream : Nat) (dir : Nat) : Statement (.kSetGo stream dir) := of_event fun _ => rfl
theorem coldReset : Statement (.coldReset) := of_event fun _ => rfl
theorem coolingSample (zones : List ZoneReading) (watts : List Nat) (uncore : List Nat) : Statement (.coolingSample zones watts uncore) := of_event fun _ => rfl
theorem zoneClockStop (zone : Nat) : Statement (.zoneClockStop zone) := of_event fun _ => rfl
theorem purgeEnd (zone : Nat) : Statement (.purgeEnd zone) := of_event fun _ => rfl
theorem pulsesEnd (zone : Nat) : Statement (.pulsesEnd zone) := of_event fun _ => rfl
theorem rePrimeEnd (zone : Nat) : Statement (.rePrimeEnd zone) := of_event fun _ => rfl
theorem verifyEnd (zone : Nat) : Statement (.verifyEnd zone) := of_event fun _ => rfl
theorem heldLanding (core : Nat) : Statement (.heldLanding core) := of_event fun _ => rfl
theorem prime (zone : Nat) : Statement (.prime zone) := of_event fun _ => rfl
theorem primeVerify (zone : Nat) : Statement (.primeVerify zone) := of_event fun _ => rfl
theorem close (zone : Nat) : Statement (.close zone) := of_event fun _ => rfl
theorem clearFailed (zone : Nat) : Statement (.clearFailed zone) := of_event fun _ => rfl
theorem forceEvacuation (zone : Nat) : Statement (.forceEvacuation zone) := of_event fun _ => rfl
theorem flowreqDecision (core : Nat) (entry : Nat) : Statement (.flowreqDecision core entry) := of_event fun _ => rfl
theorem grantStart (id : Nat) : Statement (.grantStart id) := of_event fun _ => rfl
theorem grantEnd (id : Nat) : Statement (.grantEnd id) := of_event fun _ => rfl
theorem arm (src : Writer) : Statement (.arm src) := of_event fun _ => rfl
theorem debugStop : Statement (.debugStop) := of_event fun _ => rfl
theorem resume (src : Writer) : Statement (.resume src) := of_event fun _ => rfl
theorem dbgctlClose : Statement (.dbgctlClose) := of_event fun _ => rfl
theorem bufferEnable (src : Writer) (n : Nat) : Statement (.bufferEnable src n) := of_event fun _ => rfl
theorem recordWrite (n : Nat) : Statement (.recordWrite n) := of_event fun _ => rfl
theorem iswinArm (src : Writer) : Statement (.iswinArm src) := of_event fun _ => rfl
theorem issueBlock : Statement (.issueBlock) := of_event fun _ => rfl
theorem counterSample : Statement (.counterSample) := of_event fun _ => rfl
theorem monitorPeriod (m : Nat) : Statement (.monitorPeriod m) := of_event fun _ => rfl
theorem softError (core : Nat) (array : CoreArray) : Statement (.softError core array) := of_event fun _ => rfl
theorem uncorrectableError (addr : Nat) (array : ErrorArray) : Statement (.uncorrectableError addr array) := of_event fun _ => rfl
theorem patrolScrub (addr : Nat) (found : ScrubResult) : Statement (.patrolScrub addr found) := of_event fun _ => rfl
theorem lockstepMismatch : Statement (.lockstepMismatch) := of_event fun _ => rfl
theorem cpRestart : Statement (.cpRestart) := of_event fun _ => rfl
theorem linkTraining (port : Nat) (x : Exchange) (far : Nat) : Statement (.linkTraining port x far) := of_event fun _ => rfl
theorem timebaseFlit (port : Nat) (beats : List (BitVec 576)) (parity : BitVec 576) (wander : Int) :
    Statement (.timebaseFlit port beats parity wander) := of_event fun _ => rfl
theorem guardFlit (port : Nat) (guard : GuardFlit) : Statement (.guardFlit port guard) := of_event fun _ => rfl
theorem dataFlit (port : Nat) (flit : Flit) : Statement (.dataFlit port flit) := of_event fun _ => rfl
theorem signalFlit (port : Nat) (flit : Flit) : Statement (.signalFlit port flit) := of_event fun _ => rfl
theorem noticeFlit (port : Nat) (flit : Flit) : Statement (.noticeFlit port flit) := of_event fun _ => rfl
theorem mgmtFlit (port : Nat) (flit : Flit) : Statement (.mgmtFlit port flit) := of_event fun _ => rfl
theorem lossOfLaneLock (port : Nat) : Statement (.lossOfLaneLock port) := of_event fun _ => rfl
theorem bufferLimit (reached : BufferFill) : Statement (.bufferLimit reached) := of_event fun _ => rfl
theorem spliceStop : Statement (.spliceStop) := of_event fun _ => rfl
theorem spliceResume : Statement (.spliceResume) := of_event fun _ => rfl
theorem guardGap (port : Nat) : Statement (.guardGap port) := of_event fun _ => rfl
theorem automaticGuard (port : Nat) : Statement (.automaticGuard port) := of_event fun _ => rfl
theorem programStart (port : Nat) : Statement (.programStart port) := of_event fun _ => rfl
theorem programDeadline (port : Nat) : Statement (.programDeadline port) := of_event fun _ => rfl
theorem handlerEntry (core : Nat) (slot : Nat) : Statement (.handlerEntry core slot) := of_event fun _ => rfl
theorem handlerDeadline (core : Nat) : Statement (.handlerDeadline core) := of_event fun _ => rfl
theorem waitDeadline (core : Nat) (slot : Nat) : Statement (.waitDeadline core slot) := of_event fun _ => rfl
theorem weaveRelease (cluster : Nat) : Statement (.weaveRelease cluster) := of_event fun _ => rfl
theorem waitSatisfied (core : Nat) (slot : Nat) : Statement (.waitSatisfied core slot) := of_event fun _ => rfl
theorem testReturn (core : Nat) (slot : Nat) : Statement (.testReturn core slot) := of_event fun _ => rfl
theorem alignResume (core : Nat) (slot : Nat) : Statement (.alignResume core slot) := of_event fun _ => rfl
theorem fenceComplete (core : Nat) (slot : Nat) : Statement (.fenceComplete core slot) := of_event fun _ => rfl
theorem waittResume (core : Nat) (slot : Nat) : Statement (.waittResume core slot) := of_event fun _ => rfl
theorem securityBlockReply : Statement (.securityBlockReply) := of_event fun _ => rfl
theorem chunkComplete (core : Nat) (entry : Nat) : Statement (.chunkComplete core entry) := of_event fun _ => rfl
theorem arrival (addr : Nat) : Statement (.arrival addr) := of_event fun _ => rfl
theorem carriedWordIssue (core : Nat) (entry : Nat) : Statement (.carriedWordIssue core entry) := of_event fun _ => rfl
theorem ticketedUpdate (core : Nat) (entry : Nat) : Statement (.ticketedUpdate core entry) := of_event fun _ => rfl
theorem queueStep (core : Nat) (entry : Nat) : Statement (.queueStep core entry) := of_event fun _ => rfl
theorem ftwPropagation (core : Nat) (entry : Nat) : Statement (.ftwPropagation core entry) := of_event fun _ => rfl
theorem unassignedPattern (w : Half) : Statement (.unassignedPattern w) := of_event fun _ => rfl
theorem idleFlit (port : Nat) (flit : Flit) : Statement (.idleFlit port flit) := of_event fun _ => rfl
theorem dieToDieBeat (pair : Nat) (flit : Flit) : Statement (.dieToDieBeat pair flit) := of_event fun _ => rfl
theorem tdispError (ctx : Nat) : Statement (.tdispError ctx) := of_event fun _ => rfl
theorem bankAtomic (core : Nat) (entry : Nat) : Statement (.bankAtomic core entry) := of_event fun _ => rfl
theorem otherCommandCode (att : Nat) (code : Nat) : Statement (.otherCommandCode att code) := of_event fun _ => rfl
theorem unsupportedRequest (code : Nat) : Statement (.unsupportedRequest code) := of_event fun _ => rfl

end Sys2Proof.Laws.RoundTrip
end

