-- ==== Sys2Proof/Tests/Slice0.lean ====
section
/-!
SUPPORT. The author's own tests: ill-formed terms that the check refuses, words written out from the encoding tables, single
steps whose results the specification works out, and for each statement states and operands that meet its hypotheses.
-/
namespace Sys2Proof.Tests
set_option Elab.async false
open Host Sys2Proof Sys2Proof.Machine

/-! ### Ill-formed terms -/

theorem test_ill_formed_scalar : ∀ i ∈ [Instr.mulh 1 2 3 3, .div 1 2 3 2, .rem 1 2 3 2, .min 1 2 3 2, .max 1 2 3 2,
    .cmpeq 48 1 2, .cmpne 48 1 2, .cmplt 48 1 2 0, .cmplt 1 1 2 2, .cmple 48 1 2 0, .cmple 1 1 2 2, .widf 1 6, .movs 1 14,
    .movsw 1 14, .fslot 8 1 0, .shld 32 1 0, .shst 32 1 0, .shset 32 1 0, .shget 1 32 0, .bndset 16 1 2 0, .pand 48 1 1 0,
    .pand 1 48 1 0, .pand 1 1 48 0, .pand 1 1 1 2, .por 48 1 1 0, .por 1 48 1 0, .por 1 1 48 0, .por 1 1 1 2, .pxor 48 1 1 0,
    .pxor 1 48 1 0, .pxor 1 1 48 0, .pxor 1 1 1 2, .psetn 48 1 0, .pcnt 1 48, .pmovg 1 48, .pmovp 48 1, .pbrg 8 1 0,
    .br 48 1 0, .call 1 8, .tmov 1 1 2, .tmov 1 8 0, .tmov 8 1 0], i.wf = false := by decide

theorem test_ill_formed_vector : ∀ i ∈ [Instr.vadd 1 2 3 0 2, .vsub 1 2 3 0 2, .vmul 1 2 3 0 2, .vfma 1 2 3 0 2,
    .vfms 1 2 3 0 2, .vfnma 1 2 3 0 2, .vmin 1 2 3 0 2, .vmax 1 2 3 0 2, .vdiv 1 2 3 0 2, .vand 1 2 3 2, .vor 1 2 3 2,
    .vxor 1 2 3 2, .vshl 1 2 3 0 2, .vshr 1 2 3 0 2, .vsha 1 2 3 0 2, .vcmpeq 48 1 2 0, .vcmpne 48 1 2 0, .vcmplt 48 1 2 0,
    .vcmple 48 1 2 0, .vcmpun 48 1 2 0, .vpred 48, .vbcast 1 2 0 3, .vbcast 1 2 1 0, .viota 1 0 2, .vperm 1 2 3 2,
    .vredsum 1 2 0 2, .vredmax 1 2 0 2, .vredmin 1 2 0 2, .vscan 1 2 0 3, .vrnd 1 2 0 2, .vbnd 1 2 16 0, .vscl 1 2 3 0 2],
    i.wf = false := by decide

theorem test_ill_formed_engines : ∀ i ∈ [Instr.mldbs 31 0 0 0 0, .lnset 1 2 6, .ncmp 31 1 2 0, .aadd 1 2 0 1, .aand 1 2 0 1,
    .aor 1 2 0 1, .axor 1 2 0 1, .amin 1 2 0 1 0, .amax 1 2 0 1 0, .afadd 1 2 0 0, .afadd 1 2 0 3, .aswap 1 2 0 1,
    .aswap 1 0 0 2, .aswap 1 63 0 2, .acas 1 2 0 1, .acas 1 0 0 2, .acas 0 2 0 2, .testg 48 1 0, .testg 1 0 0, .testg 1 63 0,
    .testm 48 1 0, .testm 1 63 0, .fence 0 0 0, .fence 1 3 0, .wpset 4 1 2, .keywipe 0 64], i.wf = false := by decide

theorem test_ill_formed_link : ∀ i ∈ [Instr.lsend 8 1 0 0, .lsend 1 8 0 0, .lrecv 8 1 0, .lrecv 1 8 0, .lfwd 8 1, .lfwd 1 12,
    .lrfwd 8 1 0 1, .lrfwd 1 8 0 1, .lrfwd 1 1 0 12, .lradd 8 1 0 0, .lradd 1 8 0 0, .lradd 1 1 0 6, .lsig 8 1 0, .lsig 1 1 0,
    .lsig 1 1 1, .lsig 0 8 0, .lloop 8 0, .lchk 8 0, .lset 8 0, .ladd 8 1 0, .ladd 1 8 0, .ximm 7 0, .xidle 7 0, .xmod 7 0],
    i.wf = false := by decide

theorem test_well_formed_at_the_limits : ∀ i ∈ [Instr.mulh 1 2 3 2, .cmpeq 47 1 2, .widf 1 5, .movs 1 13, .fslot 7 1 0,
    .shld 31 1 0, .bndset 15 1 2 3, .pbrg 7 1 0, .tmov 63 7 1, .vbcast 1 2 15 1, .vscan 1 2 0 2, .lnset 1 2 5, .afadd 1 2 0 2,
    .aswap 1 62 0 3, .testg 47 62 0, .wpset 3 1 2, .keywipe 0 0x3FFF, .lsend 7 7 1 1, .lradd 7 7 1 5, .xmod 6 0],
    i.wf = true := by decide

/-! ### Decoding -/

/-- A word of the S form RRR, its fields one after another as Table 2.2 lays them out. -/
theorem test_decode_bits_add : decode (0b000#3 ++ 0b000#3 ++ 0b000000#6 ++ 4#6 ++ 3#6 ++ 2#6 ++ 0b00#2) 0 = some (.add 4 3 2) := by
  decide
theorem test_decode_bits_addi : decode (0b000#3 ++ 0b010#3 ++ 0x10#6 ++ 2#6 ++ 1#6 ++ 0xFC#8) 0 = some (.addi 2 1 0xFC) := by
  decide
theorem test_decode_bits_sld : decode (0b000#3 ++ 0b001#3 ++ 0x23#6 ++ 4#6 ++ 2#6 ++ 1#4 ++ 2#2 ++ 1#1 ++ 0#1) 0
    = some (.sld 4 2 1 2 1) := by decide

theorem test_decode_scalar : ∀ x ∈ [(0x00010308, Instr.add 4 3 2), (0x01705400, .li 1 0x1400), (0x0181D678, .lih 7 0x1678),
    (0x02104009, .movs 1 9), (0x02504100, .fslot 1 1 0), (0x02604300, .shld 1 3 0), (0x02E04030, .psetn 1 0 48),
    (0x01D04100, .cmpne 1 1 0), (0x0340CA00, .br 3 1 1), (0x03220001, .pbr 1 1), (0x03700000, .exit 0),
    (0x0100C310, .addi 3 3 16)], decode x.1 0 = some x.2 := by decide
theorem test_decode_vector : ∀ x ∈ [(0x20018448, Instr.vadd 3 1 2 2 0), (0x28318424, .vfma 3 1 1 1 0),
    (0x21D04000, .vpred 1), (0x32818604, .vst 3 3 0 1)], decode x.1 0 = some x.2 := by decide
theorem test_decode_matrix : ∀ x ∈ [(0x40008820, Instr.mma 1 2 0 0 0 1), (0x40208000, .mldb 1 0 0 0 0), (0x40511000, .mout 2 4)],
    decode x.1 0 = some x.2 := by decide
theorem test_decode_engines : ∀ x ∈ [(0x60008871, Instr.cpy 1 2 7 1), (0x80100520, .gbag 5 2)], decode x.1 0 = some x.2 := by
  decide
theorem test_decode_system : ∀ x ∈ [(0xA0008710, Instr.swinit 2 7 1), (0xA0100720, .arrive 0 7 2), (0xA020C700, .waitg 3 7 0),
    (0xA0610700, .align 4 7 0), (0xA0700061, .fence 6 0 1), (0xA07FFFFB, .fence 0xFFFF 2 3), (0xA0800005, .trap 5),
    (0xA0900000, .rett), (0xA0A14620, .ftw 5 6 0x20), (0xA0C04200, .bfmt 1 2 0), (0xA0D10518, .flowreq 4 5 6)],
    decode x.1 0 = some x.2 := by decide
theorem test_decode_link : ∀ x ∈ [(0xC00003E8, Instr.lat 1000), (0xC0108100, .lsend 2 1 0 0), (0xC0208100, .lrecv 2 1 0),
    (0xC0610001, .lsig 4 0 1), (0xC0B00000, .lhalt 0), (0xC0C04004, .lset 1 4)], decode x.1 0 = some x.2 := by decide
theorem test_decode_prefixes : ∀ x ∈ [(0xE0000012, Instr.ximm 0 0x12), (0xE0900064, .xidle 1 100)],
    decode x.1 0 = some x.2 := by decide

/-- Words of no assigned pattern are refused: an unassigned opcode, a reserved field, an unassigned prefix (R68, R69). -/
theorem test_decode_refuses_opcodes : decode 0x03800000 0 = none ∧ decode 0x23100000 0 = none ∧ decode 0x40A00000 0 = none ∧
    decode 0x60C00000 0 = none ∧ decode 0x80F00000 0 = none ∧ decode 0xA1900000 0 = none ∧ decode 0xC0E00000 0 = none := by
  decide
theorem test_decode_refuses_fields : decode 0xE0300000 0 = none ∧ decode 0x00010309 0 = none ∧
    (decode 0x0091860B 0).map Instr.wf = some false := by decide

/-! ### Small states -/

/-- A word of slot 0 of core 0, or of its handler slot, being executed on cycle 8 of a task that is ACTIVE. -/
def wordAt (w : Half) (f : Slot → Slot := id) (slot : Nat := 0) (p : Pfx := {}) : State :=
  let t := { State.reset.slot 0 slot with st := .active, tc := 8 }
  { State.reset.setSlot 0 slot (f t) with
    who := { core := 0, slot := slot, q := { word := w, idx := 3, seq := 7, dcyc := 8, pfx := p }, cyc := 8 } }

/-- The slot with g1 and g2 holding values. -/
def withG (x y : Word) (t : Slot) : Slot :=
  { t with regs := { t.regs with g := (t.regs.g.setIfInBounds 1 x).setIfInBounds 2 y } }

/-- The value that the word of a state lands first. -/
def landed (r : Step) : Option (Nat × Effect) :=
  match r with
  | .next t => t.cur.landings.head?.map fun l => (l.cyc, l.eff)
  | _ => none

/-- The fault that the word of a state raises. -/
def raised (r : Step) : Option FaultCode :=
  match r with
  | .next t => t.cur.flt.map (·.code)
  | _ => none

/-! ### Encodings and the step: hypotheses met -/

def addStep : State := State.reset.withFetchWord 32 0x00010308

theorem test_witness_DecodeEncode : encode 0 (.add 4 3 2) = [0x00010308] ∧ encode 7 (.cpym 1 2 7 1 0x22) ≠ [] := by decide
theorem test_witness_EncodeDecode : decode 0x00010308 0 = some (.add 4 3 2) := by decide
theorem test_witness_FetchDelivers : let t := addStep.slot 0 0
    engineOf 0x00010308 < 6 ∧ isCpym 0x00010308 = false ∧ t.dnext ≤ t.tc ∧ t.stall = false ∧ t.half = none ∧ t.room 0 = true := by
  decide

/-- The slot after a delivery into a queue, or of a word executed at once. -/
def delivery (f : Fetch) : Option Slot :=
  match f with
  | .deliver t => some t
  | _ => none

def atOnce (f : Fetch) : Option QWord :=
  match f with
  | .atOnce _ q => some q
  | _ => none

def addWord : QWord := { word := 0x00010308, idx := 0, seq := 0, dcyc := 8 }
def queuedStep : State :=
  addStep.setSlot 0 0 { addStep.slot 0 0 with queues := #v[[addWord], [], [], [], [], []], pc := 1, dnext := 9 }

theorem test_witness_StepRunsWord_queued : let s := queuedStep
    s.inbox = [] ∧ s.phase = lastPhase ∧ s.todo = [0] ∧ s.nextUnit 0 = some 0 ∧ engineOf addWord.word ≠ 6 ∧
      decode addWord.word addWord.carried = some (.add 4 3 2) ∧ (s.slot 0 0).dueHead = some (0, addWord) := by decide
theorem test_witness_StepRunsWord_fetched : let s := addStep
    s.inbox = [] ∧ s.phase = lastPhase ∧ s.todo = [0] ∧ s.nextUnit 0 = some 0 ∧ (s.slot 0 0).dueHead = none ∧
      (delivery ((s.slot 0 0).fetch (s.imem 0 (s.slot 0 0).pc))).bind Slot.dueHead = some (0, addWord) := by decide
theorem test_witness_LinkStepRunsWord : let s := State.reset.withFetchWord 32 0xC00003E8
    let s1 := { s.linkExecute 0 with todo := (s.linkExecute 0).todo.filter (· != 64) }
    s.inbox = [] ∧ s.phase = lastPhase ∧ s.todo = [64] ∧ s1.linkDecodes 0 = true ∧
      engineOf (s1.linkWordAt 0 (s1.fab.link 0).pc) = 6 ∧
      decode (s1.linkWordAt 0 (s1.fab.link 0).pc) 0 = some (.lat 1000) := by decide
theorem test_witness_StepRunsPrefixOrEvent : let s := State.reset.withFetchWord 32 0xE0000012
    s.inbox = [] ∧ s.phase = lastPhase ∧ s.todo = [0] ∧ s.nextUnit 0 = some 0 ∧ (s.slot 0 0).dueHead = none ∧
      (atOnce ((s.slot 0 0).fetch (s.imem 0 (s.slot 0 0).pc))).bind (fun q => decode q.word 0) = some (.ximm 0 0x12) := by decide
theorem test_witness_StepRunsEvent : (State.reset.withFetchWord 8 2).inbox = [decodeTap 2] := by decide
theorem test_witness_StepKeepsMemory : State.reset.mem.wf = true ∧ State.reset.hostMem.wf = true := by decide

/-! ### Scalar words: hypotheses met -/

def twoG : State := wordAt 0x00010308 (withG 7 0)

theorem test_witness_atSlot : twoG.who.core < 64 ∧ twoG.who.slot < 5 ∧ twoG.cur.lvl.toNat = 0 := by decide
theorem test_witness_RegisterArithmetic : ∀ i ∈ [Instr.add 3 1 2, .sub 3 1 2, .and 3 1 2, .or 3 1 2, .xor 3 1 2, .shl 3 1 2,
    .shr 3 1 2, .sha 3 1 2, .mul 3 1 2, .mulh 3 1 2 0, .mulh 3 1 2 1, .mulh 3 1 2 2, .min 3 1 2 0, .min 3 1 2 1, .max 3 1 2 0,
    .max 3 1 2 1, .clz 3 1, .popc 3 1, .addsh 3 1 2 3, .bfi 3 1 2, .bfx 3 1 2, .div 3 1 2 0, .div 3 1 2 1, .rem 3 1 2 0,
    .rem 3 1 2 1], decodeFault i {} true twoG.who.q = none := by decide
def minOverMinusOne : State := wordAt 0 (withG (BitVec.intMin 64) (-1))
theorem test_witness_Division : twoG.g (2 : BitVec 6) = 0 ∧ minOverMinusOne.g (1 : BitVec 6) = BitVec.intMin 64 ∧
    minOverMinusOne.g (2 : BitVec 6) = -1 := by decide

/-- Two XIMM payloads before a word. -/
def wide (x y : BitVec 20) : Pfx := { ximm := [x, y] }
theorem test_witness_PrefixedImmediate : immediate [0x8000, 0] 14 true 5 = none ∧ immediate [0x1000, 0] 17 true 5 = none ∧
    (Instr.li 1 5).wf = true ∧ (wordAt 0x01704005 id 0 (wide 0x8000 0)).who.q.pfx.xidle = none ∧
    immediate [0xFFFFF, 0x80000] 14 true 5 ≠ none := by decide
theorem test_witness_Immediates : immediate [] 8 true 0xFC = some (-4) ∧ immediate [] 8 false 0xFC = some 0xFC ∧
    immediate [0x12] 14 true 0x345 = some 0x48345 ∧ ∀ i ∈ [Instr.addi 3 1 0xFC, .andi 3 1 0xFC, .ori 3 1 0xFC, .xori 3 1 0xFC,
    .li 3 5, .lih 3 5, .shli 3 1 63, .shri 3 1 0, .shai 3 1 63], decodeFault i { ximm := true } true twoG.who.q = none := by decide
theorem test_witness_Predicates : ∀ i ∈ [Instr.cmpeq 47 1 2, .cmpne 1 1 2, .cmplt 1 1 2 0, .cmplt 1 1 2 1, .cmple 1 1 2 0,
    .pand 1 2 3 0, .pand 1 2 3 1, .por 1 2 3 1, .pxor 1 2 3 1, .psetn 1 1 10, .pcnt 1 2, .pmovg 1 2, .pmovp 1 1],
    decodeFault i { ximm := true } true twoG.who.q = none := by decide

def oneJob : Job := { n := 0, ctx := 0, record := 0, prio := 0, vis := 0, stage := .running }
def jobState : State :=
  { wordAt 0x02004000 (fun t => { withG 4 0 t with launch := some 0, st := .active }) with
    cp := { State.reset.cp with jobs := [oneJob] } }

theorem test_witness_SpecialRegisters : (jobState.cur.launch.bind jobState.job).isSome = true ∧ jobState.cur.lvl = 0 ∧
    (∀ n ∈ List.range 14, (Instr.movs 3 (BitVec.ofNat 14 n)).wf = true ∧ (Instr.movsw 1 (BitVec.ofNat 14 n)).wf = true) ∧
    (∀ n ∈ List.range 6, (Instr.widf 3 (BitVec.ofNat 14 n)).wf = true) ∧ (jobState.g (1 : BitVec 6)).toNat % 8 < 5 ∧
    (wordAt 0 (fun t => { withG 5 0 t with lvl := 1 })).cur.lvl ≠ 0 ∧ 5 ≤ ((wordAt 0 (withG 5 0)).g (1 : BitVec 6)).toNat % 8 := by
  decide

/-- A launch that runs on core 0 with every grant: 16 granules groups of scratchpad, 960 accumulator rows, four weight slots. -/
def grants : Job := { oneJob with record := BitVec.ofNat 2048 (1 + 0xF00000 + 16 * 2 ^ 48 + 960 * 2 ^ 176), cores := [0] }

/-- A word of a task of that launch. -/
def taskAt (w : Half) (f : Slot → Slot := id) (slot : Nat := 0) (p : Pfx := {}) : State :=
  { wordAt w (fun t => f { t with launch := some 0 }) slot p with cp := { State.reset.cp with jobs := [grants] } }

theorem test_witness_ScalarMemory : let s := taskAt 0 (withG 0x4FFF8 0)
    let a := (s.g (1 : BitVec 6)).toNat
    s.localChecks false true a 8 8 = none ∧ s.localChecks true false a 1 1 = none ∧ s.localChecks true false a 8 8 = none ∧
      ((taskAt 0 (withG 0x40 0)).localChecks false true 0x40 32 32 = none) ∧
      (∀ i ∈ [Instr.sld 3 1 2 3 1, .sst 3 1 2 3, .shld 3 1 0, .shst 3 1 0], decodeFault i { ximm := true } true s.who.q = none) := by
  decide +kernel
/-- An operation of the task that has written byte 0x40, which held 7, and is not joined. -/
def racing : State :=
  let s := taskAt 0 (withG 0x40 0)
  let o : Op := {
    entry := 0, fork := 0, kind := .cpy, slot := 0, launch := none, lidx := 0, ctx := 0, word := 0, wpc := 0,
    seq := 0, cls := 0, mode := s.mode, olds := [{ key := localAddr 0 0x40, byte := 7, stamp := 0 }] }
  { s.setCore 0 { s.core 0 with ops := [o], writes := 1 } with mem := [(localAddr 0 0x40, 9)] }
/-- The neighbour of byte 0x40 reads as memory has it, the byte itself as 7 or 9 (R134, R289). -/
theorem test_load_beside : (racing.loadMem [0x41]).1 = racing.mem ∧ racing.who.core = 0 ∧ racing.who.slot = 0 ∧
    racing.me.olds 0 = [{ key := localAddr 0 0x40, byte := 7, stamp := 0 }] ∧ racing.me.writes = 1 ∧
    racing.cur.dmode = false := by decide +kernel
theorem test_load_before_join : (racing.loadMem [0x40]).1 = if Config.freeBool racing.free then [(localAddr 0 0x40, 7)] else racing.mem := by
  obtain ⟨-, hc, hs, ho, hw, hd⟩ := test_load_beside
  have hm : racing.mem.set (localAddr 0 0x40) 7 = [(localAddr 0 0x40, 7)] := by decide +kernel
  cases h : Config.freeBool racing.free
  · simp [State.loadMem, hc, hs, ho, hw, LoadPick.step, State.raceOld, hd, State.freshBool, h]
  · simpa [State.loadMem, hc, hs, ho, hw, LoadPick.step, State.raceOld, hd, State.freshBool, h] using hm
theorem test_witness_ShapesAndSlots : (∀ n ∈ List.range 16, (Instr.shset 31 1 (BitVec.ofNat 4 n)).wf = true ∧
    (Instr.shget 1 31 (BitVec.ofNat 4 n)).wf = true) ∧ (Instr.fslot 7 1 0).wf = true ∧ (Instr.bndset 15 1 2 3).wf = true := by decide
theorem test_witness_Targets : immediate [] 17 true 0x1FFFF = some (-1) ∧ (Instr.pbr 7 0x1FFFF).wf = true ∧
    (Instr.pbrg 7 1 0).wf = true ∧ (Instr.tmov 7 7 0).wf = true ∧ (Instr.tmov 63 7 1).wf = true := by decide

/-- A task with a target loaded on an issue cycle, a predicate value, and landings on their way. -/
def branchAt (loaded : Nat) (x : Word) (ls : List Landing := []) : State :=
  taskAt 0x0340CA00 fun t => { t with
    landings := ls
    regs := { t.regs with p := t.regs.p.setIfInBounds 3 x, tAt := t.regs.tAt.setIfInBounds 1 (some loaded) } }
def predicateLanding : Landing := { cyc := 9, iss := 5, seq := 1, idx := 0, word := 0, cls := none, eff := .p 3 0 0 }
theorem test_witness_BranchesAndCalls : ((branchAt 5 1).cur.regs.tAt[1]?.getD none).any (fun x => decide (x + 3 ≤ 8)) = true ∧
    ((branchAt 6 1).cur.regs.tAt[1]?.getD none).any (fun x => decide (x + 3 ≤ 8)) = false ∧ (branchAt 5 1).p (3 : BitVec 6) ≠ 0 ∧
    (branchAt 5 0).p (3 : BitVec 6) = 0 ∧ (branchAt 5 0xFFFFFFFFFFFFFFFF).p (3 : BitVec 6) = BitVec.allOnes 64 ∧
    (branchAt 5 1).cur.landings = [] ∧ (branchAt 5 1 [predicateLanding]).cur.landings = [predicateLanding] ∧
    (Instr.br 3 1 3).wf = true ∧ (Instr.call 1 7).wf = true := by decide +kernel

/-- A prefix latched for the V engine. -/
def latched (t : Slot) : Slot := { t with latch := t.latch.setIfInBounds 1 { ximm := [1] } }
theorem test_witness_ExitRetires : (taskAt 0x03700000).prefixLeft = false ∧ (taskAt 0x03700000 latched).prefixLeft = true ∧
    (taskAt 0x03700000 (fun t => { t with hserve := 3 }) 4).cur.hserve < 4 ∧
    (taskAt 0x03700000 (fun t => { t with hserve := 3 }) 4).prefixLeft = false ∧ (Instr.exit 0xFFFFF).wf = true := by
  decide +kernel

theorem test_witness_ResultWordFrame : (Instr.add 4 3 2).resultOnly = true ∧
    (raised (exec (.add 4 3 2) twoG) = none ∧ landed (exec (.add 3 1 2) twoG) = some (9, .g 3 7)) := by decide +kernel
theorem test_witness_LandingFrame : ((State.reset.slot 0 0).applyReg (.g 63 5)).regs.readG 63 = 5 ∧
    ((State.reset.slot 0 0).applyReg (.g 0 5)).regs.readG 0 = 0 ∧ ((State.reset.slot 0 0).applyReg (.p 47 5 1)).regs.readP 47 = 1 := by
  decide +kernel
def landingOf (n v cyc : Nat) : Landing := { cyc := cyc, iss := 7, seq := 1, idx := 0, word := 0, cls := none, eff := .g n (BitVec.ofNat 64 v) }
theorem test_witness_ResultsLand : let s := taskAt 0 fun t => { t with landings := [landingOf 63 5 8] }
    (s.slot 0 0).landings = [landingOf 63 5 8] ∧ (landingOf 63 5 8).cyc ≤ (s.slot 0 0).tc ∧
      (s.slot 0 0).tc < (landingOf 63 5 9).cyc := by decide +kernel

/-! ### Vector words and exceptions: hypotheses met -/

/-- fs1 names entry 1 (F32), fs3 entry 6 (S8), fs0 no entry; sh1 is 2 rows of 2 at 0, 256 bytes apart. -/
def shapeOne : Shape256 := BitVec.ofNat 256 (2 * 2 ^ 48 + 2 * 2 ^ 64 + 256 * 2 ^ 80 + 2 ^ 104)
def vectorAt (w : Half) (x : Word := 0) (p : Pfx := {}) : State :=
  taskAt w (fun t => { withG x 0 t with regs := { (withG x 0 t).regs with
    fs := ((t.regs.fs.setIfInBounds 1 1).setIfInBounds 3 6).setIfInBounds 0 0, sh := t.regs.sh.setIfInBounds 1 shapeOne } }) 0 p

theorem test_witness_vector_entries : let s := vectorAt 0x20018448
    s.fsCheck (1 : BitVec 3) = none ∧ (s.fsFmt (1 : BitVec 3)).kind = .float ∧ s.fsCheck (3 : BitVec 3) = none ∧
      (s.fsFmt (3 : BitVec 3)).kind ≠ .float ∧ s.fsCheck (0 : BitVec 3) = some { code := .formatIllegal } ∧
      s.fsNo (1 : BitVec 3) = 1 := by decide +kernel
theorem test_witness_VectorArithmetic : ∀ i ∈ [Instr.vadd 3 1 2 1 0, .vadd 3 1 2 1 1, .vsub 3 1 2 1 0, .vmul 3 1 2 1 0,
    .vdiv 3 1 2 1 0, .vmin 3 1 2 1 0, .vmax 3 1 2 1 0, .vfma 3 1 2 1 0, .vfms 3 1 2 1 0, .vfnma 3 1 2 1 1],
    decodeFault i { rounds := true } true twoG.who.q = none := by decide
theorem test_witness_VectorFunctions : ∀ i ∈ [Instr.vsqrt 3 1 1, .vrec 3 1 1, .vrsq 3 1 1, .vexp2 3 1 1, .vlog2 3 1 1, .vabs 3 1 1,
    .vneg 3 1 1, .vscl 3 1 2 1 0, .vscl 3 1 2 1 1, .vcvt 3 1 1 3], decodeFault i { rounds := true } true twoG.who.q = none := by
  decide
theorem test_witness_VectorBits : ∀ i ∈ [Instr.vand 3 1 2 0, .vand 3 1 2 1, .vor 3 1 2 0, .vxor 3 1 2 0, .vshl 3 1 2 3 0,
    .vshr 3 1 2 3 0, .vsha 3 1 2 3 1, .vsel 3 1 2 1, .vclass 3 1 1, .vpred 47, .vbnd 3 1 15 1],
    decodeFault i {} true twoG.who.q = none := by decide
theorem test_witness_VectorCompare : ∀ i ∈ [Instr.vcmpeq 47 1 2 1, .vcmpne 1 1 2 1, .vcmplt 1 1 2 1, .vcmple 1 1 2 1,
    .vcmpun 1 1 2 1], decodeFault i {} true twoG.who.q = none := by decide
theorem test_witness_VectorMoves : ∀ i ∈ [Instr.vbcast 3 1 0 0, .vbcast 3 1 1 1, .vbcast 3 1 1 2, .vlane 1 3 15 3, .viota 3 1 0,
    .viota 3 1 1, .vperm 3 1 2 0, .vperm 3 1 2 1, .vrot 3 1 31 1 1, .vrnd 3 1 2 0, .vrnd 3 1 2 1],
    decodeFault i { rounds := true } true twoG.who.q = none := by decide
theorem test_witness_Reductions : ∀ i ∈ [Instr.vredsum 3 1 1 0, .vredsum 3 1 1 1, .vredmax 3 1 1 0, .vredmin 3 1 1 0,
    .vscan 3 1 1 0, .vscan 3 1 1 1, .vscan 3 1 1 2], decodeFault i { rounds := true } true twoG.who.q = none := by decide
theorem test_witness_VectorMemory : (vectorAt 0 0x4FF00).runChecks false 0x4FF00 256 4 0 scratchSize = none ∧
    (vectorAt 0 0x4FF00).runChecks true 0x4FF00 256 4 0 scratchSize = none ∧
    (vectorAt 0 0x100000).runChecks true 0x100000 256 256 accBase accEnd = none ∧
    (vectorAt 0 0x1EFF00).runChecks false 0x1EFF00 256 256 accBase accEnd = none ∧
    (vectorAt 0 1).rowChecks false (shapeOf shapeOne) 1 1 = none ∧ (vectorAt 0 0).rowChecks true (shapeOf shapeOne) 0 1 = none ∧
    (∀ i ∈ [Instr.vld 3 1 0 1, .vst 3 1 0 1, .vlda 3 1 0 1, .vsta 3 1 0 1, .vlds 3 1 1 1, .vsts 3 1 1 1],
      decodeFault i { rounds := true } true twoG.who.q = none) := by decide +kernel

/-! ### Faults: hypotheses met -/

def trapRaised : Raised := { code := .trapInsn, addr := 5, idx := 3, word := 0xA0800005 }
/-- HCFG of context 0: entry 0x20, every code routed to it. -/
def handled : BitVec 64 := 0xFFFFFFFF00008020
def faultAt (f : Raised) (hcfg : Word := handled) (slot : Nat := 0) : State :=
  let s := taskAt 0xA0800005 (fun t => { t with flt := some f, fltAt := (0, 8), hstart := some 0 }) slot
  { s with tick := 1, ctxs := s.ctxs.setIfInBounds 0 { s.ctx 0 with hcfg := hcfg } }

theorem test_witness_WordsThatFault : (Instr.mulh 1 2 3 3).wf = false ∧ (Instr.mulh 1 2 3 3).resultOnly = true ∧
    (Instr.ncmp 31 1 2 0).wf = false ∧ (Instr.ncmp 31 1 2 0).engineWord = true ∧ (Instr.fence 0 0 0).wf = false ∧
    (Instr.fence 0 0 0).systemWord = true ∧ (Instr.measure 1 2).managerWord = true ∧ twoG.cur.lvl.toNat < 1 ∧
    decodeFault (.wpset 3 1 2) {} true twoG.who.q = none ∧ decodeFault (.trap 5) {} true twoG.who.q = none := by decide
theorem test_witness_ExceptionEntry : let s := faultAt trapRaised
    let y := s.slot 0 0
    (s.core 0).stopped = false ∧ y.flt = some trapRaised ∧ y.fltAt.1 < s.tick ∧ (s.core 0).hslot.st = .empty ∧ y.st ≠ .frozen ∧
      routed (s.ctx y.ctx).hcfg y trapRaised = true := by decide +kernel
def handlerAt (f : Raised) (hpc : WordIdx) : State :=
  taskAt 0xA0900000 (fun t => { t with hfault := some f, hserve := 0, hpc := hpc, lvl := 1 }) 4
theorem test_witness_ExceptionReturn : decodeFault .rett {} true (handlerAt trapRaised 3).who.q = none ∧
    ((handlerAt trapRaised 3).cur.hfault = some trapRaised ∧ (handlerAt trapRaised 3).cur.hpc = trapRaised.idx ∧
      trapRaised.async = false ∧ trapRaised.unissued = false ∧ engineOf trapRaised.word < 6 ∧ (handlerAt trapRaised 3).cur.hserve < 4 ∧ (handlerAt trapRaised 3).me.handlerOps = false) ∧
    (handlerAt trapRaised 4).cur.hpc = trapRaised.idx + 1 ∧ (handlerAt trapRaised 9).cur.hpc ≠ trapRaised.idx + 1 ∧
    (handlerAt { code := .windowViolation } 3).cur.hfault = some { code := .windowViolation } ∧ (taskAt 0xA0900000).who.slot < 4 := by
  decide +kernel
theorem test_witness_FaultEndsTheLaunch : let s := faultAt trapRaised 0
    let h := faultAt trapRaised 0 4
    (s.job 0).isSome = true ∧ grants.stage ≠ .ended ∧ (s.slot 0 0).launch = some 0 ∧
      routed (s.ctx 0).hcfg (s.slot 0 0) trapRaised = false ∧ (s.core 0).hslot.st = .empty ∧ (s.core 0).stopped = false ∧ (h.slot 0 4).flt = some trapRaised ∧ (h.slot 0 4).fltAt.1 < h.tick ∧
      (h.slot 0 4).launch = some 0 ∧ (h.slot 0 4).st = .active ∧ (h.slot 0 4).hstart = some 0 ∧
      0 + (h.slot 0 4).tdead.toNat ≤ h.tick := by decide +kernel

/-! ### Matrix and engine words: hypotheses met -/

/-- A shape of a space: base, rows, columns, row stride in bytes. -/
def shape (space base rows cols rstr : Nat) : Shape256 :=
  BitVec.ofNat 256 (base + space * 2 ^ 32 + rows * 2 ^ 48 + cols * 2 ^ 64 + rstr * 2 ^ 80 + 2 ^ 104)

/-- Shapes: sh1 one S8 element, sh2 one accumulator element, sh3 one element to store, sh4 32 rows with the metadata sh5,
sh6 and sh7 elements to copy from and to, sh8 one element of multicast window 0. -/
def engineShapes : List (Nat × Shape256) :=
  [(1, shape 0 0x1000 1 1 1), (2, shape 1 0x100000 1 1 1024), (3, shape 0 0x2000 1 1 1), (4, shape 0 0 32 1 1),
    (5, shape 0 0x5000 32 1 1), (6, shape 0 0x1100 1 1 1), (7, shape 0 0x1200 1 1 1),
    (8, shape 0 0x400000 1 1 1 ||| BitVec.ofNat 256 (6 * 2 ^ 112))]
def engineRegs (r : Regs) : Regs := { r with sh := engineShapes.foldl (fun v x => v.setIfInBounds x.1 x.2) r.sh }
def loadedSlot : WSlot := { loaded := true, fmtNo := 6, fmt := presetEntry 6, k := 1, n := 1 }

/-- Bank 0 holds S8, bank 1 Z8; slot w0 one S8 element; the rows of the accumulator S32. -/
def engineAt (f : Slot → Slot := id) (p : Pfx := {}) : State :=
  let s := taskAt 0x40008820 (fun t => f { t with regs := engineRegs t.regs }) 0 p
  s.updCore 0 fun k => { k with
    sfmt := (k.sfmt.setIfInBounds 0 6).setIfInBounds 1 7, ws := k.ws.setIfInBounds 0 loadedSlot, acctag := BitVec.allOnes _ }

def A1 : Shape := shapeOf (shape 0 0x1000 1 1 1)
def C1 : Shape := shapeOf (shape 1 0x100000 1 1 1024)
def D1 : Shape := shapeOf (shape 0 0x2000 1 1 1)
theorem test_witness_MatrixIssue_mma : let s := engineAt
    s.mmaChecks false 0 true C1 A1 1 1 = none ∧ s.mmaChecks false 0 false C1 A1 1 1 = none ∧
      (s.updCore 0 fun k => { k with ws := k.ws.setIfInBounds 0 { loadedSlot with sparse := 1 } }).mmaChecks true 0 true C1 A1 1 1
        = none ∧
      (∀ i ∈ [Instr.mma 2 1 0 0 0 1, .mma 2 1 0 1 1 0, .mmas 2 1 0 0 0 1], decodeFault i {} true s.who.q = none) := by
  decide +kernel
theorem test_witness_MatrixIssue_load : let s := engineAt
    s.loadChecks 0 1 false false true A1 (shapeOf (shape 0 0x2000 1 1 1)) = none ∧
      s.loadChecks 0 1 true false true A1 (shapeOf (shape 0 0x2000 1 1 1)) = none ∧
      keepOf true s.who.q = 32 ∧
      s.loadChecks 32 1 false false true (shapeOf (shape 0 0 32 1 1)) (shapeOf (shape 0 0x5000 32 1 1)) = none ∧
      (∀ i ∈ [Instr.mldb 1 1 0 0 0, .mldb 1 1 1 0 0, .mldbs 4 1 0 0 0], decodeFault i {} true s.who.q = none) := by
  decide +kernel
theorem test_witness_MatrixIssue_rows : let s := engineAt
    s.accPriv C1 = none ∧ C1.accOk = true ∧ s.accGrant C1 1 = none ∧ s.scaleChecks .mscale C1 A1 1 = none ∧
      s.scaleChecks .maddt C1 A1 1 = none ∧ s.moutChecks C1 D1 = none ∧ s.slotPriv 0 = none ∧ s.pairPriv false 0 = none ∧
      s.me.matsBusy 0 = false ∧ (s.updMe fun k => { k with mats := [s.matOp .mzero] }).me.matsBusy 0 = true ∧
      (∀ i ∈ [Instr.mzero 2, .mscale 2 1, .maddt 2 1, .mout 2 3, .mslotinv 0, .mdrain], decodeFault i {} true s.who.q = none) := by
  decide +kernel
theorem test_witness_MatrixIssue_pair : (let s := engineAt
    let p := s.updCore 0 fun k => { k with ws := k.ws.setIfInBounds 2 { loadedSlot with pair := true } }
    (p.me.wslot 2).loaded = true ∧ (p.me.wslot 2).pair = true ∧ p.slotPriv 2 = none ∧ p.pairPriv true 2 = none) := by decide +kernel

def matrixOp (kind : MatKind) : MatOp := { engineAt.matOp kind with av := 1, cv := 1, csh := shape 1 0x100000 1 1 1024, b := loadedSlot }
theorem test_witness_MatrixLandings : (matrixOp .mzero).kind = .mzero ∧ 0 < (matrixOp .mzero).cv ∧ (matrixOp .mma).rate2 = 2 * 1 ∧
    { matrixOp .mma with rate2 := 1 }.rate2 = 1 ∧ { matrixOp .mma with intPath := true }.b.at_ 0 0 = some 0 ∧
    (matrixOp .mldb).keep = 0 ∧ (matrixOp .slotinv).kind = .slotinv := by decide +kernel

/-- Cores 0 to 3 frozen on one weave load. -/
def weavers : State := (List.range 4).foldl (fun s c =>
  let z : Freeze := { q := { word := 0x40208000, idx := 3, seq := 7, dcyc := 8 }, hold := .weave, start := 0, deadline := some 9 }
  s.setSlot c 0 { s.slot c 0 with st := .active, freeze := some z, launch := some 0 }) { State.reset with todo := [0, 1, 2, 3] }
theorem test_witness_WeaveLoads : ((List.range 4).filterMap fun i => weavers.weaver (4 * 0 + i)).length = 4 ∧
    ((List.range 4).filterMap fun i => weavers.weaver (4 * 1 + i)).length ≠ 4 := by decide +kernel
theorem test_witness_WeaveLoads_agree : let xs := (List.range 4).filterMap fun i => weavers.weaver i
    (match xs with
      | lead :: _ => xs.all fun x => (weavers.weaveLoad x).agrees (weavers.weaveLoad lead)
      | [] => false) = true ∧
    ((weavers.core 0).fmt ((shapeOf ((weavers.slot 0 0).regs.readSh 0)).entryNo (weavers.core 0))).tw ≠ 16 := by decide +kernel

/-- The same with ML TRN set in core 1's word only. -/
def disagreeing : State := weavers.updSlot 1 0 fun t =>
  { t with freeze := t.freeze.map fun z => { z with q := { z.q with word := 0x40200800 } } }
theorem test_witness_WeaveLoads_disagree : let xs := (List.range 4).filterMap fun i => disagreeing.weaver i
    xs.length = 4 ∧ (match xs with
      | lead :: _ => xs.all fun x => (disagreeing.weaveLoad x).agrees (disagreeing.weaveLoad lead)
      | [] => true) = false := by decide +kernel

/-- g1 a bitmap object, g2 a synchronisation word. -/
def objects (t : Slot) : Slot := withG (2 ^ 63 + 0x3000) 0x3100 t
def copyAt (n : Nat) : Operand := (shapeOf (shape 0 (0x1000 + n) 1 1 1)).copyOperand engineAt.me engineAt.cur.regs
def nearAt (n : Nat) : Operand :=
  (shapeOf (shape 2 (0x1000 + n) 1 1 1 ||| BitVec.ofNat 256 (6 * 2 ^ 112))).copyOperand engineAt.me engineAt.cur.regs
theorem test_witness_CopyForks : let s := engineAt objects
    let S := copyAt 0x100
    let D := copyAt 0x200
    (∀ kind ∈ [OpKind.cpy, .cpyv, .cpym], s.copyChecks kind 0 S D D [] 0 = none) ∧
      (∀ kind ∈ [OpKind.nfill, .ncopy, .ncmp, .nred], s.copyChecks kind 0 (nearAt 0x100) (nearAt 0x200) (nearAt 0x300) [] 0 = none) ∧
      s.copyChecks .lnrun 0 S D D s.cur.ln.toList 0 = none ∧ s.copyChecks .cinit 0 S D D [] 1 = none ∧
      s.copyChecks .cpy 0 S D D [] 1 = none ∧
      (carriedMma 0x40008820).isSome = true ∧ idleOf 0x40008820 = 0 := by decide +kernel
theorem test_witness_CopyForks_words : let s := engineAt objects
    (∀ i ∈ [Instr.cpy 6 7 0 1, .cpyv 6 7 0 1, .cpym 6 7 0 1 0x40008820, .lnrun 6 7 0 1, .nfill 6 7 0 1, .ncopy 6 7 0 1,
      .ncmp 6 7 0 1, .nred 6 7 0 1, .cinit 6 7 1 1, .mcst 6 8 0 1, .lnset 1 2 5, .lnclr], decodeFault i {} true s.who.q = none) ∧
    (let w := s.updCtx 0 fun x => { x with
      mwin := x.mwin.setIfInBounds 0 (BitVec.ofNat 128 (2 ^ 83 + 3)), cfg := BitVec.ofNat _ (3 * 2 ^ 64) }
     w.mcstChecks (copyAt 0x100) ((shapeOf (s.sh (8 : BitVec 5))).mcstOperand s.me s.cur.regs) 0 = none) ∧
    s.me.freeEntry = some 0 := by decide +kernel

/-! ### Bank words, synchronisation and system words: hypotheses met -/

/-- A gather record: one index at 0x2000 into a table of four S8 rows in a space, to shape sh3, completion object at 0x3100. -/
def record64 (tspc opn : Nat) : Nat :=
  0x1000 + tspc * 2 ^ 64 + 6 * 2 ^ 72 + 1 * 2 ^ 80 + 4 * 2 ^ 96 + 0x2000 * 2 ^ 128 + 3 * 2 ^ 203 + opn * 2 ^ 208 + 1 * 2 ^ 224
    + 0x2100 * 2 ^ 256 + 1 * 2 ^ 320 + 0x3100 * 2 ^ 384
/-- A state with that record at 0x4000 of core 0's scratchpad. -/
def gatherAt (tspc opn : Nat) : State :=
  let s := engineAt (withG 0x4000 0)
  { s with mem := (bytesLE 64 (record64 tspc opn)).zipIdx.foldl (fun m x => Memory.set m (localAddr 0 (0x4000 + x.2)) x.1) s.mem }
def gatherOk (tspc opn : Nat) (kind : OpKind) : Bool :=
  let s := gatherAt tspc opn
  let g := grecOf (BitVec.ofNat 512 (s.localNat 0 0x4000 64))
  s.gatherChecks kind 0x4000 g ((shapeOf (s.cur.regs.readSh g.dsh)).operand s.me s.cur.regs) == none
theorem test_witness_BankForks_gather : gatherOk 0 0 .gath = true ∧ gatherOk 0 3 .gbag = true ∧ gatherOk 0 4 .gscat = true ∧
    gatherOk 2 5 .gsadd = true ∧ (∀ i ∈ [Instr.gath 1 0, .gbag 1 0, .gscat 1 0, .gsadd 1 0],
      decodeFault i { rounds := true } true twoG.who.q = none) := by decide +kernel

/-- A context whose window 0 covers shared memory up to an address, and g1, g2. -/
def sharedAt (limit : Nat) (x y : Word) : State :=
  let s := engineAt (withG x y)
  s.updCtx 0 fun c => { c with win := c.win.setIfInBounds 0 (BitVec.ofNat 128 (limit * 2 ^ 64 + 15 * 2 ^ 112)) }
theorem test_witness_BankForks_bank : let s := sharedAt 0xFFF 0xFF8 0x3100
    (s : State).bankChecks 0xFF8 8 none = none ∧ s.bankChecks 0xFF8 4 none = none ∧ s.bankChecks 0xFF8 2 none = none ∧
      s.bankChecks 0xFF8 8 (s.bufferChecks true 0x3100 8 8) = none ∧ s.bankChecks 0xFC0 64 none = none ∧
      s.bankChecks 0xFC0 64 (s.bufferChecks true 0x3100 16 16) = none ∧
      (∀ i ∈ [Instr.aadd 2 1 0 2, .aand 2 1 0 3, .aor 2 1 0 3, .axor 2 1 0 3, .amin 2 1 0 3 1, .amax 2 1 0 2 0,
        .aswap 2 1 0 3, .acas 2 1 0 3, .qpush 2 1 0, .qpop 2 1 0, .arrive 2 1 0, .flowreq 2 1 1],
        decodeFault i {} true s.who.q = none) ∧
      decodeFault (.afadd 2 1 0 2) { rounds := true } true s.who.q = none := by decide +kernel
theorem test_witness_BankForks_rest : let s := engineAt objects
    s.objectChecks (s.g (2 : BitVec 6)) false 0 = none ∧ (2 : BitVec 6) ≠ 0 ∧
      (∀ i ∈ [Instr.ftw 1 2 31, .ftw 1 2 32], decodeFault i { ximm := true } true s.who.q = none) ∧ immediate s.who.q.pfx.ximm 8 false 31 = some 31 ∧ ((2 ^ 23 : Word).extractLsb' 0 24 ≠ 0) ∧ ((2 ^ 41 : Word).extractLsb' 41 23 ≠ 0) ∧ (s.core 0).formats = [] ∧ (0 + 31 : Nat) % 256 < 32 ∧
      ((0 : Word).extractLsb' 0 24 = 0) ∧ ((3 : Word).extractLsb' 41 23 = 0) ∧ s.bufferChecks true 0x3100 16 16 = none := by
  decide +kernel

theorem test_witness_SyncAdvance : let w : SyncWord := { arr := 65535, exp := 0, gen := 2 ^ 32 - 1, bytes := 4, target := 9, neg := false, beyond := false }
    (w.arr + 1) % 2 ^ 16 = w.exp ∧ w.bytes = 4 ∧ (w.step 1 4).1.gen = 0 ∧ ¬((w.arr + 1) % 2 ^ 16 = w.exp ∧ w.bytes = 5) := by decide
def anArrival : SyncUpd := { addr := 0x3100, arr := true, due := 0 }
theorem test_witness_ArrivalApplies : let s := { State.reset with sync := [anArrival, { anArrival with due := 9 }] }
    s.aluTaken 0x3100 32 = false ∧ s.arrivals 0x3100 = [] ∧ s.sync.filter (s.freeAt 0x3100) = [anArrival] ∧
      s.sync.filter (fun u => !s.freeAt 0x3100 u) = [{ anArrival with due := 9 }] ∧ s.poison = [] := by decide +kernel

theorem test_witness_WaitsFreeze : let s := engineAt objects
    s.objectChecks (s.g (2 : BitVec 6)) false 0 = none ∧ s.objectChecks (s.g (1 : BitVec 6)) true 1 = none ∧
      s.objectChecks (s.g (1 : BitVec 6)) true 4096 = none ∧ s.objectPoison (s.g (2 : BitVec 6)) 0 = none ∧
      s.holds 0 (s.g (2 : BitVec 6)) 0 = true ∧ s.holds 0 (s.g (2 : BitVec 6)) 1 = false ∧
      s.holds 0 (s.g (1 : BitVec 6)) 1 = false ∧ s.who.q.pfx.ximm = [] ∧
      immediate [] 8 false 255 = some 255 ∧ immediate [] 8 true 255 = some (-1) ∧
      (∀ i ∈ [Instr.waitg 3 2 0, .waitm 3 1 0, .testg 47 2 0, .testm 1 62 0, .align 3 2 0, .waitt 3 2 0],
        decodeFault i { ximm := true } true s.who.q = none) ∧ decodeFault (.swinit 3 2 0) {} true s.who.q = none ∧
      s.cur.tdead.toNat < 0x3100 := by decide +kernel
theorem test_witness_SystemWords : let s := engineAt objects
    let f : Fencing := { slot := 0, iss := 8, seq := 7, mask := 1, kind := 0, scope := 0 }
    s.fenceHolds 0 f = true ∧ (s.updSlot 0 0 fun t => { t with landings := [{ landingOf 1 0 9 with
        seq := 9, eff := .store [] }] }).fenceHolds 0 f = false ∧ s.cur.flushTo = [] ∧
      s.ungranted 0 0 (15 * 0x5000) 0x5000 = none ∧ ((0 : Word).extractLsb' 34 2 ≠ 3 ∧ (0 : Word).extractLsb' 36 28 = 0) ∧
      s.dbg.trsel.getLsbD 3 = false ∧ s.cur.dmode = false ∧ (wordAt 0 id 4).who.slot = 4 ∧
      (∀ i ∈ [Instr.fence 1 0 0, .wpset 3 1 2, .icinv 0, .icinv 1, .event 1 0x3FFF, .yield], decodeFault i {} true s.who.q = none) ∧
      (∀ i ∈ [Instr.ftr 3 0 255, .bfmt 1 0 15, .bfmt 1 0 16], decodeFault i { ximm := true } true s.who.q = none) := by
  decide +kernel
theorem test_witness_SystemWords_levels : let s := engineAt (fun t => { t with lvl := 1 })
    1 ≤ s.cur.lvl.toNat ∧ decodeFault (.wpset 3 1 2) {} true s.who.q = none := by decide +kernel

/-- Slot 0 of core 0 frozen on a hold, on tick 20. -/
def frozenAt (h : Hold) (w : Half := 0xA020C700) (dl : Option Nat := some 20) : State :=
  let s := engineAt (fun t => { t with freeze := some { q := { word := w, idx := 3, seq := 7, dcyc := 8 }, hold := h, start := 0, deadline := dl } })
  { s with tick := 20, todo := [0] }
theorem test_witness_FreezesEnd : (∀ h ∈ [Hold.waitg 0x3100 0, .waitm (2 ^ 63) 1, .testg 0x3100 1 47, .testm (2 ^ 63) 1 0,
      .align 0x3100 3 (.advanced 0 13), .fence 1 0 0, .swinit 0x3100 0, .waitt 20 63, .mdrain, .tableFull],
      (frozenAt h).frozenActs 0 0 = true ∧ 1 ≤ ((frozenAt h).slot 0 0).tc) ∧
    (let s := frozenAt .mdrain
     s.objectPoison 0x3100 0 = none ∧ s.holds 0 0x3100 0 = true ∧ s.sync = [] ∧ (s.core 0).freeEntry = some 0 ∧
      s.bankStopped 0 0x3100 = false ∧ s.fenceHolds 0 { slot := 0, iss := 0, seq := 7, mask := 1, kind := 0, scope := 0 } = true ∧ (s.core 0).matsBusy 0 = false) := by decide +kernel
theorem test_witness_FreezesEnd_past : let s := frozenAt (.waitg 0x3100 1)
    ((s.slot 0 0).freeze.bind (·.deadline)) = some 20 ∧ 20 ≤ s.tick ∧ (s.slot 0 0).st = .active ∧ (s.core 0).stopped = false ∧ (s.slot 0 0).flt = none := by
  decide +kernel

/-! ### Steps of engine operations: hypotheses met -/

/-- Core 0 with one operation in its table, after a tick. -/
def opState (o : Op) (s : State := engineAt objects) : State := { s.updCore 0 fun k => { k with ops := [o] } with tick := 1, todo := [0] }
/-- A copy of n elements. -/
def copyOf (kind : OpKind) (n : Nat) : Op :=
  let x := fun (b : Nat) => (shapeOf (shape 0 b 1 n 1024)).copyOperand engineAt.me engineAt.cur.regs
  engineAt.copyOp kind (x 0x1000) (x 0x1800) (x 0x2000) [] 0 0
def checkOf (s : State) (o : Op) : Option FaultCode :=
  match s.opChecks 0 o ((o.chunkElems o.resume).flatMap o.elemBytes) with
  | .error (.fault code _) => some code
  | .error _ => some .waitDeadline
  | .ok _ => none
def watchedCopy : Op := { copyOf .cpy 1 with wps := [BitVec.ofNat 128 (0x1000 + 0x100 * 2 ^ 64 + 2 ^ 96)] }
theorem test_witness_ChunkSteps_one : let o := copyOf .cpy 1
    let s := opState o
    (s.core 0).opAt 0 = some o ∧ o.slot < 5 ∧ s.opReady 0 o = true ∧ o.isTicketed = false ∧ o.x1 = 0 ∧ checkOf s o = none ∧
      o.hasComp = false ∧ o.trap = none ∧ o.resume + 1 = chunkCount o.dataBits ∧ checkOf s watchedCopy = some .watchpoint ∧
      s.opReady 0 { o with delay := 2 } = false := by decide +kernel
theorem test_witness_ChunkSteps_two : chunkCount (copyOf .cpy 512).dataBits = 1 ∧ chunkCount (copyOf .cpy 513).dataBits = 2 := by
  decide +kernel
theorem test_witness_ChunkSteps_last : let o := { copyOf .cpy 513 with resume := 1 }
    let s := opState o
    s.opReady 0 o = true ∧ checkOf s o = none ∧ o.resume + 1 = chunkCount o.dataBits := by decide +kernel

/-- A CPYM whose copy is over. -/
def carriedOp : Op := { copyOf .cpym 1 with carried := engineAt.captureCarried ((encode 0 (.mma 2 1 0 0 0 1)).headD 0), resume := 1 }
theorem test_witness_ChunkSteps_carried : let o := carriedOp
    let s := opState o engineAt
    (match o.carried with
      | some cw => (carriedMma cw.word).isSome && cw.lands.isNone &&
          (let q : QWord := { word := cw.word, idx := o.wpc + 1, seq := o.seq + 1, dcyc := 0 }
           let at_ := { s with who := { core := 0, slot := o.slot, q := q, cyc := (s.slot 0 o.slot).tc } }
           let check := fun (acc : Bool) => (at_.updCur fun t => { t with wp := Vector.replicate 4 0, supp := false }).mmaChecks false 0 acc
             (shapeOf cw.csh) (shapeOf cw.ash) cw.cv cw.av
           check true == none)
      | none => false) = true ∧ s.opReady 0 o = true ∧ chunkCount o.dataBits ≤ o.resume ∧ s.todo.contains 0 = true ∧
      (s.core 0).mmaEnd ≤ (s.core 0).cyc ∧ (s.slot 0 o.slot).st = .active ∧ (s.core 0).hslot.st ≠ .active := by decide +kernel
/-- The same with its weight slot empty. -/
theorem test_witness_ChunkSteps_carried_fault : let o := carriedOp
    let s := (opState o engineAt).updCore 0 fun k => { k with ws := k.ws.setIfInBounds 0 {} }
    (match o.carried with
      | some cw =>
          let q : QWord := { word := cw.word, idx := o.wpc + 1, seq := o.seq + 1, dcyc := 0 }
          let at_ := { s with who := { core := 0, slot := o.slot, q := q, cyc := (s.slot 0 o.slot).tc } }
          ((at_.updCur fun t => { t with wp := Vector.replicate 4 0, supp := false }).mmaChecks false 0 true
             (shapeOf cw.csh) (shapeOf cw.ash) cw.cv cw.av).isSome
      | none => false) = true := by decide +kernel

/-- An operation at the bank of shared address 0x8, and its state. -/
def bankOp (kind : OpKind) (width : Nat) (fix : Op → Op := id) : Op :=
  fix { (sharedAt 0xFFF 8 0x3100).newOp kind 0 with addr := 8, x1 := 5, x2 := 6, ret := 0x3100, width := width }
def bankState (o : Op) : State := opState o (sharedAt 0xFFF 8 0x3100)
theorem test_witness_BankSteps_atomic : ∀ kind ∈ [OpKind.aadd, .aand, .aor, .axor, .amin, .amax, .afadd, .aswap, .acas],
    let o := bankOp kind 4
    let s := bankState o
    (s.core 0).opAt 0 = some o ∧ o.slot < 5 ∧ o.finished = false ∧ o.pst = .run ∧ s.opReady 0 o = true ∧
      s.bankStopped 0 8 = false ∧ o.trap = none ∧ firstByte ((List.range 4).map (8 + ·)) s.poisoned = none ∧
      (let r := localAddr 0 0x3100; r + 4 ≤ 8 ∨ 8 + 4 ≤ r) := by decide +kernel
theorem test_witness_BankSteps_cinit : let o := { copyOf .cinit 1 with comp := 2 ^ 63 + 0x3000 }
    let s := opState o
    s.opReady 0 o = true ∧ s.bankStopped 0 (compPackage 0 o.comp) = false ∧ chunkCount o.dataBits = 1 ∧
      (s.core 0).opAt 0 = some o := by decide +kernel

/-- A queue of two entries at 0x40, its ring at 0x100, with a tail and a head. -/
def queueState (kind : OpKind) (cap tail head : Nat) (dl : Option Nat) : State :=
  let o := { bankOp kind 8 with addr := 0x40, deadline := dl }
  let s := bankState o
  let bs := bytesLE 32 (0x100 + cap * 2 ^ 64 + tail * 2 ^ 128 + head * 2 ^ 192)
  { s with mem := bs.zipIdx.foldl (fun m x => Memory.set m (0x40 + x.2) x.1) s.mem }
def queueOp (kind : OpKind) (dl : Option Nat) : Op := { bankOp kind 8 with addr := 0x40, deadline := dl }
theorem test_witness_BankSteps_queue : ∀ kind ∈ [OpKind.qpush, .qpop],
    let s := queueState kind 2 2 1 (some 9)
    let o := queueOp kind (some 9)
    (s.core 0).opAt 0 = some o ∧ s.opReady 0 o = true ∧ s.bankStopped 0 0x40 = false ∧
      firstByte ((List.range 64).map (0x40 + ·)) s.poisoned = none ∧ s.mem.nat 0x48 4 = 2 ∧ s.mem.nat 0x50 8 = 2 ∧
      s.mem.nat 0x58 8 = 1 ∧ s.mem.nat 0x4C 4 = 0 ∧
      (match s.opChecks 0 o (rangeBytes 2 0x100 8 true true true) with
        | .ok _ => true
        | _ => false) = true := by decide +kernel
theorem test_witness_BankSteps_queue_stops :
    (let s := queueState .qpush 2 3 1 (some 1)
     s.mem.nat 0x58 8 + s.mem.nat 0x48 4 = s.mem.nat 0x50 8 ∧ s.opReady 0 (queueOp .qpush (some 1)) = true ∧ 1 ≤ s.tick) ∧
    (queueState .qpush 0 0 0 none).mem.nat 0x48 4 = 0 := by decide +kernel
theorem test_witness_BankSteps_ftw : let o := { bankOp .ftw 255 with x1 := presetEntry 6 }
    let s := bankState o
    s.opReady 0 o = true ∧ ((s.slot 0 o.slot).landings.any fun l => l.seq == o.seq) = false ∧ o.resume = 0 ∧ o.ctx < 64 ∧
      o.trap = none ∧ s.opReady 0 { o with resume := 1 } = true := by decide +kernel

/-- An operation that waits for a translation, or for a page. -/
def parkedOp (st : PState) (tries : Nat) : Op := { copyOf .cpy 1 with pst := st, tries := tries, needR := true, asked := true }
def answerOk : Translation := { ppn := 7, size := 0, rd := true, wr := true, untr := false }
theorem test_witness_Translations : (opState (parkedOp .xlate 0)).core 0 |>.opAt 0 |>.isSome := by decide +kernel
theorem test_witness_Translations_answers : permits answerOk (parkedOp .xlate 0) = true ∧
    permits { answerOk with rd := false } (parkedOp .xlate 0) = false ∧
    (let s := opState (parkedOp .xlate 3)
     s.cp.priOff[(s.ctx 0).host]?.getD false = false ∧ (parkedOp .xlate 3).tries < 4 ∧ s.cp.pages < 512 ∧
     512 ≤ { s.cp with pages := 512 }.pages) ∧ 4 ≤ (parkedOp .xlate 4).tries := by decide +kernel
theorem test_witness_Translations_pages : let s := opState (parkedOp .parked 0)
    (s.core 0).opAt 0 = some (parkedOp .parked 0) ∧ ((List.range 64).all fun d => (s.core d).ops.all fun p =>
      p.pst != .parked || p.asked) = true := by decide +kernel

/-! ### The security block, links, debug, cooling: hypotheses met -/

def managerAt (w : Half) (x y : Word := 0) : State := taskAt w (fun t => { withG x y t with lvl := 2 })
theorem test_witness_ManagerWords_issue : (∀ i ∈ [Instr.keywipe 3 0x3FFF, .keyld 3 1 2, .dbgunlk 3 1 2, .measure 1 2, .attest 1 2],
      decodeFault i {} true (managerAt 0).who.q = none) ∧ decodeFault (.fuserd 3 1 12) { ximm := true } true (managerAt 0).who.q = none ∧
    2 ≤ (managerAt 0).cur.lvl.toNat ∧ ((0x7F : Word).extractLsb' 7 57 = 0) ∧ (managerAt 0).bufferChecks false 0x3FFD8 40 8 = none ∧
    (managerAt 0).bufferChecks true 0x3000 32 8 = none ∧ (managerAt 0).bufferChecks false 0x3000 288 8 = none ∧
    (managerAt 0).bufferChecks false 0x3000 48 8 = none ∧ (managerAt 0).bufferChecks true 0x3000 560 8 = none := by decide +kernel

/-- Core 0's slot 0 frozen on a manager word at the head of the security block's queue, a tick later. -/
def servedAt (i : Instr) (y : Word) (fix : Security → Security := id) : State :=
  let w := (encode 0 i).headD 0
  let s := taskAt w (fun t => { withG 0x3000 y t with
    lvl := 2, freeze := some { q := { word := w, idx := 3, seq := 7, dcyc := 8 }, hold := .secure, start := 0, deadline := none } })
  { s with tick := 1, todo := [0], sec := fix { s.sec with queue := [.word 0 0] } }
theorem test_witness_ManagerWords_reply : ∀ i ∈ [Instr.keywipe 3 63, .keyld 3 1 2, .dbgunlk 3 1 2, .measure 1 2, .attest 1 2],
    let s := servedAt i 6
    decode ((encode 0 i).headD 0) 0 = some i ∧ s.sec.queue = [.word 0 0] ∧ s.frozenActs 0 0 = true ∧
      (s.slot 0 0).freeze.map (·.start) = some 0 ∧ 1 ≤ (s.slot 0 0).tc := by decide +kernel
theorem test_witness_ManagerWords_keys : let s := servedAt (.keyld 3 1 2) 63
    let k : Key := { key := 1, hbm := false }
    s.dbg.open_ = false ∧ s.sec.lifecycle = 1 ∧ s.sec.key 63 = none ∧ s.sec.spdm.wrapKey = none ∧
      ({ s.sec with keys := s.sec.keys.setIfInBounds 63 (some k) } : Security).key 63 = some k ∧
      { s.dbg with open_ := true }.open_ = true ∧
      ({ s.sec with fuses := s.sec.fuses.setIfInBounds 4 0 } : Security).lifecycle ≠ 1 := by decide +kernel
theorem test_witness_ManagerWords_token : let s := servedAt (.dbgunlk 3 1 2) 1
    (1 : Word).getLsbD 0 = true ∧ s.sec.tokenFail (s.localBytes 0 0x3000 288) true = some 2 ∧
      ({ s.sec with nonce := some 1, meas := s.sec.meas.setIfInBounds 0 1 } : Security).nonce.isSome = true := by decide +kernel

theorem test_witness_SecurityRequests : State.reset.sec.queue = [] ∧ State.reset.sec.spdm.versioned = false ∧
    State.reset.sec.firstEmpty = some 0 ∧ ({ State.reset.sec with keys := Vector.replicate 64 (some { key := 1, hbm := true }) } :
      Security).firstEmpty = none ∧ ({ State.reset.sec with queue := [.spdm .getVersion] } : Security).queue ≠ [] ∧
    (decide (8 ≤ 8) || (8 : Nat) == 255) = true := by decide +kernel
theorem test_witness_SecurityRequests_stream : let k : Key := { key := 1, hbm := false, stream := some (7, 1) }
    let x : Security := { State.reset.sec with keys := State.reset.sec.keys.setIfInBounds 63 (some k), spdm := { session := true } }
    x.firstEmpty ≠ none ∧ x.spdm.session = true ∧ x.key 63 = some k ∧ k.stream = some (7, 1) := by decide +kernel

/-- Link engine 0 decodes a word of its program, its cursor at 10, with a1 an address of shared memory and a2 a count. -/
def linkAt (w : Half) (a1 a2 : Word) (fix : Link → Link := id) : State :=
  let s := sharedAt 0xFFFF 0 0
  let p : Word := BitVec.ofNat 64 (1 * 2 ^ 12)
  let s := { s with fab := { s.fab with podJob := some 0, podcfg := p.setWidth 256 } }
  let s := s.setLink 0 (fix { s.fab.link 0 with
    run := true, up := true, started := true, c := 10, len := 3, a := ((s.fab.link 0).a.setIfInBounds 1 a1).setIfInBounds 2 a2 })
  { s with who := { core := 0, slot := 5, link := 0, q := { word := w, idx := 0, seq := 0, dcyc := 0 }, cyc := 0 } }
theorem test_witness_LinkWords : let s := linkAt 0 0xFF00 1
    (s.linkChecks 0xFF00 (some 1) (some [.read]) = none ∧ s.linkChecks 0xFF00 (some 1) (some [.write]) = none ∧
      s.linkChecks 0 (some 65536) none = none ∧ s.linkChecks 0xFF00 (some 1) (some [.alu]) = none ∧
      s.linkChecks 0xFFE0 none (some [.read, .write]) = none) ∧ s.engine.lastExec ≤ s.engine.c.toNat ∧
      s.tick + 2 ≤ s.engine.c.toNat ∧ s.engine.lhor ≤ s.engine.c.toNat ∧ s.engine.stack = [] ∧ s.who.link < 12 ∧
      (∀ i ∈ [Instr.lsend 1 2 0 0, .lsend 1 2 1 1, .lrecv 1 2 1, .lfwd 2 1, .lrfwd 1 2 1 11, .lradd 1 2 0 5, .lsig 0 7 0,
        .lsig 1 0 1, .lguard 16, .lhalt 0xFFFFF, .lend],
        linkDecodeFault i false (fun m => m == 0) true false s.who.q.pfx = none) ∧
      (∀ i ∈ [Instr.lat 10, .lset 7 5, .ladd 1 2 0xFF, .lloop 1 0, .lchk 1 3],
        linkDecodeFault i true (fun m => m == 0) true false s.who.q.pfx = none) := by decide +kernel
theorem test_witness_LinkWords_loops : matchingEnd [0xC0000001, (encode 0 .lend).headD 0] 1 0 = some 3 ∧
    (let e : LLoopEntry := { n := 2, p := 4, b0 := 0, start := 1, i := 0 }
     let s := linkAt 0 0 0 (fun l => { l with stack := [e, e, e, e] })
     4 ≤ s.engine.stack.length ∧ e.i + 1 < e.n ∧ { e with i := 1 }.n ≤ { e with i := 1 }.i + 1) ∧
    (linkAt 0 0 0).engine.readA 1 = 0 ∧ (linkAt 0 5 0).engine.readA 1 ≠ 0 := by decide +kernel
theorem test_witness_LinkWords_late : (let s := linkAt 0 0 0 (fun l => { l with lastExec := 11 })
    s.engine.c.toNat < s.engine.lastExec) ∧ (let s := { linkAt 0 0 0 with tick := 9 }
    s.engine.lastExec ≤ s.engine.c.toNat ∧ s.engine.c.toNat < s.tick + 2) ∧ (linkAt 0 0 0 (fun l => { l with lhor := 11 })).engine.c.toNat < 11 := by
  decide +kernel
theorem test_witness_PrefixesAndPatterns : twoG.who.slot < 5 ∧ (linkAt 0 0 0).who.slot = 5 ∧ (twoG.cur.latch[5]?.getD ({} : Pfx)).ximm.length < 2 ∧
    engineOf 0x00010309 < 6 ∧ fld (0x00010309 : Half).toNat 20 6 < opCount (engineOf 0x00010309) ∧ engineOf 0x03800000 < 6 ∧
    opCount (engineOf 0x03800000) ≤ fld (0x03800000 : Half).toNat 20 6 ∧ engineOf 0xC0E00000 = 6 ∧
    14 ≤ fld (0xC0E00000 : Half).toNat 20 6 ∧ fld (0xC0D00001 : Half).toNat 20 6 < 14 := by decide +kernel

/-- A package with the test port open at full scope. -/
def portOpen (f : Debug → Debug := id) : State :=
  { State.reset with dbg := f { State.reset.dbg with open_ := true, pscope := 0xF } }
theorem test_witness_DebugAndTrace_port : let s := portOpen fun d => { d with dbgaddr := 0x8 }
    portBit 8 = some 3 ∧ s.dbg.dbgaddr.getLsbD 49 = false ∧ s.dbg.dbgaddr.getLsbD 48 = false ∧ s.dbg.open_ = true ∧
      s.dbg.pscope.getLsbD 3 = true ∧ s.poisoned 8 = false ∧ s.regionWiped 8 = false ∧
      (BitVec.ofNat 64 (2 ^ 48 + 8)).getLsbD 48 = true ∧ State.reset.dbg.open_ = false ∧ State.reset.mayDebug .port 0 = false ∧
      s.mayDebug .port 0 = true ∧ s.mayDebug .port 2 = true := by decide +kernel
theorem test_witness_DebugAndTrace_stops : let s := portOpen fun d => { d with stick := 1024, armed := true }
    s.dbg.stopped = false ∧ s.dbg.scope = 0 ∧ s.dbg.stick.toNat ≥ s.tick + 1024 ∧ s.fab.chips ≤ 1 ∧
      (1023 : Word).toNat < s.tick + 1024 ∧ ({ s with tick := 1024 } : State).dbg.stick.toNat ≤ 1024 ∧
      ({ s.dbg with stopped := true, scope := 1 } : Debug).scope ≠ 2 := by decide +kernel
/-- Buffer 7 of 64 bytes at 0x100 with a record of 32 bytes queued, so many bytes written. -/
def traceAt (wptr : Nat) (mode : Bool) : State := portOpen fun d =>
  { d with bufs := d.bufs.setIfInBounds 7 { base := 0x100, size := 64, mode := mode, en := true, wptr := wptr, queue := [[1, 2, 3, 4]] } }
theorem test_witness_DebugAndTrace_records : (let b := (traceAt 32 false).dbg.buf 7
    b.queue = [[1, 2, 3, 4]] ∧ 8 * 4 ≤ b.size ∧ b.stop = false ∧ b.wptr + 8 * 4 ≤ b.size) ∧
    (let b := (traceAt 40 true).dbg.buf 7
     b.size < b.wptr + 8 * 4 ∧ b.mode = true) ∧ ((traceAt 40 false).dbg.buf 7).mode = false ∧
    ({ (traceAt 0 false).dbg.buf 7 with stop := true }).stop = true ∧ (portOpen.dbg.buf 7).en = false := by decide +kernel
theorem test_witness_DebugAndTrace_periods : let s := portOpen fun d => { d with
      isSamples := List.replicate 32 0, cton := true, mons := d.mons.setIfInBounds 3 { w0 := 0x1000 } }
    32 ≤ s.dbg.isSamples.length ∧ s.dbg.cton = true ∧ s.tick % 2 ^ s.dbg.ctper = 0 ∧ s.dbg.mons[3]? = some { w0 := 0x1000 } ∧
      (0x1000 : Word).getLsbD 12 = true := by decide +kernel

/-- Zone 79 in a state and phase that ends on tick 0. -/
def zoneAt (state phase : Nat) : State :=
  let s := State.reset.updZone 79 fun y => { y with state := state, phase := phase }
  { s with cool := { s.cool with qtot := 5 } }
theorem test_witness_CoolingEvents_commands : (79 < 80) ∧ ((zoneAt 0 0).zone 79).state = 0 ∧ (zoneAt 0 0).cool.qtot ≠ 0 ∧
    State.reset.cool.qtot = 0 ∧ (State.reset.updZone 15 fun y => { y with state := 2 }).demand 15 = 0 ∧
    ((State.reset.updZone 15 fun y => { y with state := 2 }).zone 15).state = 2 ∧ ((zoneAt 5 0).zone 79).state = 5 ∧
    (zoneAt 2 0).demand 79 ≠ 0 := by decide +kernel
theorem test_witness_CoolingEvents_phases : ∀ n ∈ [1, 2, 3, 4, 5, 6, 7, 8],
    let s := State.reset.updZone 15 fun y => { y with state := 3, phase := n }
    (s.zone 15).phase = n ∧ (s.zone 15).until_ ≤ s.refTick ∧ coreOf 15 = some 15 := by decide +kernel
theorem test_witness_CoolingEvents_samples : State.reset.sampleDue = true ∧ { State.reset with tick := 1 }.sampleDue = false ∧
    (let y := (State.reset.updZone 15 fun y => { y with state := 2, bad := true, vpos := 15 }).zone 15
     y.bad = true ∧ y.state = 2 ∧ y.vpos = 15 ∧ 15 < 16 * y.minf) ∧ (State.reset.core 63).stopped = false := by decide +kernel
def flowOp (units start : Nat) (trap : Bool) : Op :=
  { engineAt.newOp .flowreq 0 with
    addr := 0x3000, x1 := BitVec.ofNat 64 (units + 1000 * 2 ^ 8 + if trap then 2 ^ 40 else 0), x2 := BitVec.ofNat 64 start
    hasComp := true, comp := 2 ^ 63 + 0x3008 }
theorem test_witness_CoolingEvents_flow : (let o := flowOp 1 (2 ^ 20 - 1) true
    let s := opState o engineAt
    (s.core 0).opAt 0 = some o ∧ s.opReady 0 o = true ∧ o.trap = none ∧ o.x2.toNat < o.resume + 2 ^ 20 ∧ o.x1.getLsbD 40 = true) ∧
    (let o := flowOp 17 (2 ^ 20) false
     let s := opState o engineAt
     o.resume + 2 ^ 20 ≤ o.x2.toNat ∧ (s.zone (zoneOf 0)).maxf < 17 ∧ o.x1.getLsbD 40 = false ∧ o.dmode = false) := by
  decide +kernel

/-! ### Launches, graphs, hosts, the fabric: hypotheses met -/

/-- HWQ 3 of context 0 enabled with a ring of 16 entries at package address 0x1000, and context 0 enabled. -/
def hwqAt (head tail db : Nat) : State :=
  let s := sharedAt 0xFFFFF 0 0
  let s := s.updCtx 0 fun x => { x with cfg := BitVec.ofNat 256 (2 ^ 22) }
  let x := BitVec.ofNat 256 (0x1000 + 4 * 2 ^ 48 + 2 ^ 52 + db * 2 ^ 53 + 2 ^ 54 + head * 2 ^ 80 + tail * 2 ^ 96)
  (s.setHwq 3 x).putBytes 0x1F00 [1]
theorem test_witness_LaunchPath_queues : let s := hwqAt 15 0 0
    (s.ctx (hwqCtx (s.hwq 3))).host = 0 ∧ hwqDb (s.hwq 3) = false ∧ s.hwqOpen 3 = true ∧ s.tick % 256 = 0 ∧
      hwqEntry (s.hwq 3) = 0x1F00 ∧ rget (s.hwq 3) 52 1 = 1 ∧ s.cpRead 0 true 0x1F00 1 ≠ 0 ∧
      (let y := hwqAt 0xFFFF 0 1
       hwqDb (y.hwq 3) = true ∧ (15 + 2 ^ 16 - hwqHead (y.hwq 3)) % 2 ^ 16 = 2 ^ rget (y.hwq 3) 48 4) := by decide +kernel

/-- Launch 3 at a stage, its record a number. -/
def launchAt (stage : JobAt) (record : Nat) (fix : Job → Job := id) : State :=
  let s := State.reset
  { s with cp := { s.cp with jobs := [fix { n := 3, ctx := 0, record := BitVec.ofNat 2048 record, prio := 0, vis := 0, stage := stage }] } }
def theJob (s : State) : Job := (s.job 3).getD oneJob
theorem test_witness_LaunchPath_records : ∀ kind ∈ [0, 1, 2],
    let s := launchAt .taken kind
    s.job 3 = some (theJob s) ∧ (theJob s).n = 3 ∧ (theJob s).stage = .taken ∧ s.cpRuns = true ∧
      rfield (theJob s).record 0 8 = kind ∧ (theJob s).graph = none ∧ graphRecordOk (theJob s).record = true := by decide +kernel
/-- A state with core 0's zone and the shared zones of die 0 ACTIVE. -/
def cooled (s : State) : State := [0, 16, 17, 18, 19].foldl (fun s z => s.updZone z fun y => { y with state := 2 }) s
theorem test_witness_LaunchPath_admission : (let s := cooled (launchAt .held 1 (fun j => { j with mask := 1 }))
    (theJob s).admitted = false ∧ s.admission (theJob s) = .granted) ∧
    (let s := cooled (launchAt .held (1 + 17 * 2 ^ 1040) (fun j => { j with mask := 1 }))
     s.admission (theJob s) ≠ .granted) := by decide +kernel
theorem test_witness_LaunchPath_load : let s := cooled (launchAt .held 1 (fun j => { j with mask := 1, admitted := true }))
    let j := theJob s
    let l := { j with cores := s.usable j }
    j.admitted = true ∧ l.cores = [0] ∧ corOk l l.cores = true ∧ s.coreHeld 0 = false ∧ j.form.pod = false ∧ s.windowsFree l = true ∧
      l.cores.all (s.coreFree l) = true ∧ ((List.range 64).all fun c => !j.cmask.testBit c || !s.coreHeld c) = true := by decide +kernel
theorem test_witness_LaunchPath_tasks : let s := (launchAt .running 1).updCore 63 fun k => { k with lq := [(3, 7, 0, 0)] }
    (s.core 63).lq = [(3, 7, 0, 0)] ∧ (s.job 3).isSome ∧ (theJob s).cor = 0 ∧ s.emptySlot 63 = some 0 ∧
      (let y := s.setSlot 63 3 { s.slot 63 3 with st := .bound, launch := some 3 }
       (y.core 63).hslot.st = .empty ∧ (y.core 63).busyRetiring = false ∧ (y.core 63).stopped = false ∧
        ((List.range 4).all fun m => (y.slot 63 m).st != .active) = true ∧ y.bestSlot 63 = some 3 ∧ (y.slot 63 3).freeze = none) ∧
      (let z := s.setSlot 63 3 { s.slot 63 3 with st := .retiring, exited := true, launch := some 3 }
       z.retireReady 63 3 = true ∧ s.retireReady 63 3 = false ∧ (z.slot 63 3).launch = some 3 ∧ (theJob z).stage = .running) := by
  decide +kernel
theorem test_witness_LaunchPath_completion : let s := launchAt .running (1 + (2 ^ 63 + 0x40) * 2 ^ 960)
    let j := theJob s
    s.launchDone { j with low := j.tasks } = true ∧ j.trace = 0 ∧ j.form.pod = false ∧ j.graph = none ∧
      (BitVec.ofNat 64 (rfield j.record 960 64)).getLsbD 63 = true := by decide +kernel
theorem test_witness_LaunchPath_frames : (let s := launchAt .running 1 (fun j => { j with preq := [0], cores := [0] })
    (theJob s).preq ≠ [] ∧ (theJob s).saved = false ∧ s.givenWay 3 0 = true ∧ (launchAt .running 1).job 3 = some (theJob (launchAt .running 1))
      ∧ (theJob (launchAt .running 1)).preq = [] ∧ (theJob (launchAt .running 1)).gone = []) := by decide +kernel
/-- A frame at an HBM address with its header, and one core whose slot 3 it holds. -/
def restoreAt (good : Bool) : State :=
  let s := launchAt .running 1 (fun j => { j with gone := [0], rreq := true })
  let z : Slot := { s.slot 0 3 with st := .standby, launch := some 3 }
  let s := s.updCtx 0 fun x => { x with cfg := BitVec.ofNat 256 (hbmBase * 2 ^ 192), saved := [
    { launch := 3, core := 0, shared := true, slots := [(3, z)], ops := [], records := [], sfmt := (s.core 0).sfmt, ws := (s.core 0).ws
      acctag := 0 }] }
  if good then (s.putBytes hbmBase (bytesLE 8 (0x46524D31 + 3 * 2 ^ 32))).putBytes (hbmBase + 32) s.sec.deviceId else s
theorem test_witness_LaunchPath_restore : let s := restoreAt true
    let saved := (s.ctx 0).saved.filter fun y => y.launch == 3
    (theJob s).gone ≠ [] ∧ (theJob s).rreq = true ∧ saved.length = 1 ∧ saved.all (s.coreFreeFor (theJob s)) = true ∧
      s.frameGood (theJob s) saved = true ∧ (restoreAt false).frameGood (theJob s) saved = false := by decide +kernel

/-- A graph at a node at 0x1000 of shared memory whose bytes are a number. -/
def nodeAt (bytes : Nat) (doing : GraphAt := .starting 0) : State :=
  let s := sharedAt 0xFFFFF 0 0
  let j : Job := { n := 3, ctx := 0, record := 2, prio := 0, vis := 0, stage := .running, graph := some { node := 0x1000, doing := doing, comp := 0 } }
  { (s.putBytes 0x1000 (bytesLE 64 bytes)).putBytes 0x3000 (bytesLE 24 (0x4000 + 0x5000 * 2 ^ 64 + 8 * 2 ^ 128)) with
    cp := { s.cp with jobs := [j] } }
def nodeGraph (s : State) : Graph := ((s.job 3).bind (·.graph)).getD { node := 0, doing := .launching 0, comp := 0 }
/-- ARG, COUNT and PRED of a node in their places. -/
def nodeWord (kind pred arg : Nat) : Nat := kind + 0x1000 * 2 ^ 64 + 0x1000 * 2 ^ 128 + pred * 2 ^ 192 + arg * 2 ^ 256
theorem test_witness_GraphNodes : ∀ x ∈ [(1, 0x2000, 0x3000), (2, 0x2000, 0x3000), (3, 0x2000, 0x3000), (4, 0x2000, 0x3000),
      (5, 0x2000, 0x3000), (6, 0x2000, 0), (7, 0, 0)],
    let s := nodeAt (nodeWord x.1 x.2.1 x.2.2)
    (s.job 3).isSome ∧ s.nodeStarts ((s.job 3).getD oneJob) (nodeGraph s) = true ∧ s.nodeKind (nodeGraph s) = x.1 ∧
      s.nodeFault 0 (nodeGraph s) = none := by decide +kernel
theorem test_witness_GraphNodes_faults : (let s := nodeAt (nodeWord 7 0 0 + 2 ^ 8)
      s.nodeStarts ((s.job 3).getD oneJob) (nodeGraph s) = true ∧ s.nodeFault 0 (nodeGraph s) = some .reservedField) ∧
    (let s := nodeAt (nodeWord 5 0x2000 9) (.waiting 0 0x2000 0x1000 9 0x1000)
     s.nodeCount (nodeGraph s) ≤ s.mem.nat (s.nodePred (nodeGraph s)) 8 ∧ s.tick < 0 + s.nodeArg (nodeGraph s) ∧
      9 ≤ ({ s with tick := 9 } : State).tick ∧ s.cpRuns = true) := by decide +kernel
theorem test_witness_GraphNodes_start : let s := launchAt .held 2
    (theJob s).stage = .held ∧ (theJob s).graph = none ∧ rfield (theJob s).record 0 8 = 2 ∧ s.cpRuns = true := by decide +kernel

theorem test_witness_ManagementCommands_config : let s := State.reset
    s.managerAtt = 0 ∧ (s.ctxRuns 63 || (s.ctx 63).locked) = false ∧ (s.ctx 63).frameOk 0 = true ∧ (s.ctx 63).frameOk 1 = false ∧
      windowRecordOk (0xFFF <<< 64) = true ∧ windowRecordOk 0 = false ∧ leaseState 0 = 0 ∧ ((s.setTdisp 63 1).ctx 63).locked = true ∧ ((s.setTdisp 63 1).ctx 63).tdisp = 1 := by decide +kernel
theorem test_witness_ManagementCommands_leases : let s := (sharedAt 0xFFFFF 0 0).updCtx 0 fun x => { x with cfg := BitVec.ofNat 256 (2 ^ 22) }
    leaseState (s.lease 0) = 0 ∧ s.leaseOk 0 0 0x1000 0x1FFF = true ∧ s.leaseOk 0 0 0x1001 0x1FFF = false ∧ leaseHost (s.lease 63) = 0 ∧
      (let l := s.setLease 63 (BitVec.ofNat 128 (0x1000 + 0x1FFF * 2 ^ 64 + 2 ^ 114))
       leaseState (l.lease 63) = 1 ∧ leaseHost (l.lease 63) = 0) ∧
      (let all := { s with cp := { s.cp with leases := Vector.replicate 64 (BitVec.ofNat 128 (2 ^ 114)) } }
       ((List.range 64).all fun m => leaseState (all.lease m) != 0) = true) := by decide +kernel
theorem test_witness_ManagementCommands_preemption : let l := launchAt .running 1 (fun j => { j with cores := [0] })
    let s := l.updCtx 0 fun x => { x with cfg := BitVec.ofNat 256 (hbmBase * 2 ^ 192) }
    s.job 3 = some (theJob s) ∧ (theJob s).cores.filter (theJob s).holds = [0] ∧ (s.ctx 0).cframe ≠ 0 ∧ s.managerAtt = 0 ∧
      (theJob s).gone = [] ∧ (theJob s).preq = [] ∧ s.job 4 = none := by decide +kernel
theorem test_witness_ManagementCommands_rest : let s := State.reset
    (match (s.sec.advance []).1 with
      | .error n => n == 2
      | .ok _ => false) = true ∧ (s.ctx 63).tdisp = 0 ∧ (s.ctx 63).host = 0 ∧ (s.ctx 63).locked = false := by decide +kernel

theorem test_witness_HostAndErrors : let s := (sharedAt 0xFFFFF 0 0).updCtx 0 fun x => { x with cfg := BitVec.ofNat 256 (2 ^ 22) }
    inHdm 0 = true ∧ inHdm (sharedEnd - 64) = true ∧ inHdm sharedEnd = false ∧ s.attGrants 0 0xFFFC0 1 = true ∧
      s.attGrants 0 0x100000 2 = false ∧ s.attGrants 0 0xFFFC0 2 = true ∧ s.regionWiped 0xFFFC0 = false ∧ s.cp.halted = false ∧
      s.cp.mmPrev = none ∧ (9 : Nat) % 8 ≠ 0 ∧ (s.ctx (hwqCtx (s.hwq 3))).host ≠ 1 ∧ s.mayDebug .port 3 = false ∧
      ((BitVec.ofNat 64 1200).extractLsb' 0 11).toNat = 1200 ∧ s.sync = [] := by decide +kernel
theorem test_witness_HostAndErrors_lockstep : let s := { State.reset with cp := { State.reset.cp with halted := true, mmTick := some 0 }, tick := 1 }
    s.cp.halted = true ∧ s.cp.fatal = false ∧ s.cp.mmTick.all (fun m => decide (m < s.tick)) = true ∧
      ({ s.cp with mmPrev := some 0 }).mmPrev.all (fun p => decide (2 ^ 32 ≤ p + 2 ^ 32)) = true := by decide +kernel
theorem test_witness_HostAndErrors_cores : let s := launchAt .running 1 (fun j => { j with cores := [63] })
    (theJob s).holds 63 = true ∧ (theJob s).stage ≠ .ended ∧ leaseState (BitVec.ofNat 128 (2 ^ 114)) = 1 := by decide +kernel

/-- A beat of a KIND whose bits read the same from either end, with its CRC. -/
def beat (kind : Nat) : BitVec 576 :=
  BitVec.ofNat 576 (if kind = 1 then 2 ^ 540 + 2 ^ 3 + 0x6FBB9D41 * 2 ^ 544 else if kind = 2 then 2 ^ 541 + 2 ^ 2 + 0x8062972E * 2 ^ 544
    else if kind = 3 then 3 * 2 ^ 540 + 3 * 2 ^ 2 + 0xEFD90A6F * 2 ^ 544 else 2 ^ 542 + 2 ^ 1 + 0x2B8EE53D * 2 ^ 544)
/-- A quarter of a beat's bits, and the CRC carried through a list of bits. -/
def quarter (k : Nat) : List Nat := (List.range 136).map (136 * k + ·)
def crcRun (x : BitVec 576) (bits : List Nat) (c : BitVec 32) : BitVec 32 := bits.foldl (fun c i => crcBit c (x.getLsbD i)) c
theorem test_quarters (n : Nat) : List.range (n + n + n + n) = (List.range n).map (n * 0 + ·) ++ ((List.range n).map (n * 1 + ·) ++
    ((List.range n).map (n * 2 + ·) ++ (List.range n).map (n * 3 + ·))) := by
  have h2 : n * 2 = n + n := by omega
  have h3 : n * 3 = n + n + n := by omega
  simp [List.range_add, h2, h3]
theorem test_crc_order (x : BitVec 576) (a b c u v w d : BitVec 32)
    (up : crcRun x (quarter 0) 0 = a ∧ crcRun x (quarter 1) a = b ∧ crcRun x (quarter 2) b = c ∧ crcRun x (quarter 3) c = d)
    (down : crcRun x (quarter 3).reverse 0 = u ∧ crcRun x (quarter 2).reverse u = v ∧ crcRun x (quarter 1).reverse v = w ∧
      crcRun x (quarter 0).reverse w = d) : beatCrc x = d := by
  have parts : List.range 544 = quarter 0 ++ (quarter 1 ++ (quarter 2 ++ quarter 3)) := by
    rw [show (544 : Nat) = 136 + 136 + 136 + 136 from rfl]
    exact test_quarters 136
  simp only [crcRun] at up down
  unfold beatCrc
  rw [parts]
  split <;> simp only [List.foldl_append, List.reverse_append, up, down]
theorem test_crc_quarters (x : BitVec 576) (a b c d : BitVec 32)
    (up : crcRun x (quarter 0) 0 = a ∧ crcRun x (quarter 1) a = b ∧ crcRun x (quarter 2) b = c ∧ crcRun x (quarter 3) c = d)
    (down : crcRun x (quarter 3).reverse 0 = a ∧ crcRun x (quarter 2).reverse a = b ∧ crcRun x (quarter 1).reverse b = c ∧
      crcRun x (quarter 0).reverse c = d) : beatCrc x = d := test_crc_order x a b c a b c d up down
theorem test_beat_zero : beatOk 0#576 = true := by
  rw [beatOk, test_crc_quarters 0#576 0 0 0 0 (by decide +kernel) (by decide +kernel)]; decide +kernel
theorem test_beat_one : beatCrc (beat 1) = 0x6FBB9D41 :=
  test_crc_quarters _ 0x79F20867 0x8FF1C6FF 0xBBC142E7 _ (by decide +kernel) (by decide +kernel)
theorem test_beat_two : beatCrc (beat 2) = 0x8062972E :=
  test_crc_quarters _ 0xF3E410CE 0x1B229049 0x73439879 _ (by decide +kernel) (by decide +kernel)
/-- The same beat as beat 1 without its CRC. -/
def badBeat : BitVec 576 := BitVec.ofNat 576 (2 ^ 540 + 2 ^ 3)
theorem test_beat_bad : beatCrc badBeat = 0x6FBB9D41 :=
  test_crc_quarters _ 0x79F20867 0x8FF1C6FF 0xBBC142E7 _ (by decide +kernel) (by decide +kernel)
theorem test_beat_four : beatCrc (beat 4) = 0x2B8EE53D :=
  test_crc_quarters _ 0xE3093C2B 0x36452092 0xE68730F2 _ (by decide +kernel) (by decide +kernel)
theorem test_beat_three : beatCrc (beat 3) = 0xEFD90A6F :=
  test_crc_quarters _ 0x8A1618A9 0x94D356B6 0xC882DA9E _ (by decide +kernel) (by decide +kernel)
theorem test_beats_checked : beatOk (beat 1) = true ∧ beatOk (beat 2) = true ∧ beatOk badBeat = false ∧ beatOk (beat 3) = true ∧
    beatOk (beat 4) = true := by
  refine ⟨?_, ?_, ?_, ?_, ?_⟩
  · rw [beatOk, test_beat_one]; decide +kernel
  · rw [beatOk, test_beat_two]; decide +kernel
  · rw [beatOk, test_beat_bad]; decide +kernel
  · rw [beatOk, test_beat_three]; decide +kernel
  · rw [beatOk, test_beat_four]; decide +kernel
def flitOf (x : BitVec 576) : Flit := { beats := [x, 0#576, 0#576, 0#576], parity := x }
theorem test_witness_FabricEvents_flits : flitFailing (flitOf (beat 1)) = [] ∧ flitFailing (flitOf (beat 2)) = [] ∧
    flitFailing (flitOf badBeat) = [0, 4] ∧ flitFailing (flitOf (beat 3)) = [] ∧ flitFailing (flitOf (beat 4)) = [] ∧
    flitFailing (flitOf 0) = [] := by
  obtain ⟨h1, h2, hb, h3, h4⟩ := test_beats_checked
  have h0 := test_beat_zero
  have r : List.range 5 = [0, 1, 2, 3, 4] := rfl
  simp [flitFailing, flitRails, flitOf, r, List.range_succ, h0, h1, h2, hb, h3, h4]
theorem test_witness_FabricEvents_kinds : flitKind [beat 1, 0, 0, 0] = 1 ∧ flitKind [beat 2, 0, 0, 0] = 2 ∧ flitKind [beat 3, 0, 0, 0] = 3 ∧ flitKind [beat 4, 0, 0, 0] = 4 ∧
    (flitSeq [beat 1, 0, 0, 0] + 11 + 3) % 2 ^ 28 = 14 % 2 ^ 28 := by decide +kernel
def takerAt (act : LinkAct) : Timed := { act := act, wpc := 0, tick := 14, n := 1, ad := 0x100, an := 1 }
theorem test_witness_FabricEvents_takers : (takerAt .recv).takes 14 = true ∧ (takerAt .sigLand).takes 14 = true ∧
    (takerAt .recv).takes 15 = false ∧ Link.init.frozen = false ∧ State.reset.quiet = false := by decide +kernel
theorem test_witness_FabricEvents_links : let l := Link.init
    let s := State.reset
    l.run = false ∧ 3 ≤ max ((0 + 63) / 64 + 2) 3 ∧ max ((0 + 63) / 64 + 2) 4095 ≤ 4095 ∧ 4095 < max ((0 + 63) / 64 + 2) 4096 ∧
      ¬(s.fab.root = false ∧ s.fab.parent = 11) ∧ l.up = false ∧ s.noticeDue = none ∧ s.fab.splice = none ∧ s.fab.seen = [] ∧
      { l with up := true, guard := 0 }.guardDue (2 ^ 19) = true ∧ { l with run := true }.gapOver (2 ^ 20 + 1) = true ∧
      l.guardDue 0 = false ∧ l.gapOver 0 = false ∧ { l with len := 1, origin := 64 }.startDue 0 = true ∧ l.startDue 0 = false ∧
      { l with run := true }.deadline ≤ 0 := by decide +kernel
def cut : Notice := { f := 5, s := 9, link := 0, abort := false, code := 1, cause := 1 }
/-- A pod of launch 3 with a checkpoint of tick 4, a NOTICE due, and a detour table of one entry. -/
def spliceAt (n : Notice) : State :=
  let s := launchAt .running 2
  let s := s.putBytes 0x100 (bytesLE 8 (0 + 7 * 2 ^ 24 + 2 ^ 32))
  let p : Nat := 0x100 * 2 ^ 128 + 1 * 2 ^ 176
  { s with tick := 9, fab := { s.fab with
      podcfg := BitVec.ofNat 256 p, podJob := some 3, ckpts := [(0, 4, 0x1000)], notices := [{ notice := n, start := 5 }] } }
theorem test_witness_FabricEvents_splices : let s := spliceAt cut
    s.noticeDue = some cut ∧ s.fab.podJob = some 3 ∧ (s.job 3).isSome ∧ s.fab.checkpoint cut.f = some 0x1000 ∧ s.detour cut.link = some 7 ∧
      (spliceAt { cut with abort := true }).noticeDue = some { cut with abort := true } ∧
      s.fab.seen.contains (9, 0xFFFF, true) = false ∧ ({ s.fab with splice := some (9, 0x1000) }).splice = some (9, 0x1000) := by
  decide +kernel

/-! ### Clauses of statements that the states above leave unmet -/

/-- fs1 names an entry of the table that is an unsigned float of 31 bits. -/
def unsignedFloat : State := (vectorAt 0x20018448).updCur fun t => { t with regs := { t.regs with fs := t.regs.fs.setIfInBounds 1 32 } }
def withEntry32 (w : Word) : State := unsignedFloat.updMe fun k => { k with ftab := k.ftab.setIfInBounds 0 w }
theorem test_witness_VectorFunctions_unsigned : let s := withEntry32 ((presetEntry 1 &&& ~~~((0x3F : Word) <<< 44 ||| 1 <<< 59)) ||| 31 <<< 44)
    s.fsCheck (1 : BitVec 3) = none ∧ (s.fsFmt (1 : BitVec 3)).kind = .float ∧ (s.fsFmt (1 : BitVec 3)).sgn = false := by decide +kernel

/-- A slot with a fault of a word raised at a landing, one in its stream position, and words of its queues. -/
def landedFault (n : Nat) : Raised := { trapRaised with landed := true, seq := n }
def standing (f : Raised) : State := (taskAt 0xA0800005).updCur fun t => { t with flt := some f }
theorem test_witness_WordsThatFault_standing : twoG.cur.flt = none ∧ (standing trapRaised).cur.flt = some trapRaised ∧
    trapRaised.landed = false ∧ (standing (landedFault 9)).cur.flt = some (landedFault 9) ∧ (landedFault 9).landed = true ∧
    7 < (landedFault 9).seq ∧ (landedFault 5).seq ≤ 7 ∧ (standing trapRaised).who.q.seq = 7 := by decide +kernel
def watchHit : Raised := { trapRaised with code := .watchpoint }
def hitWord : QWord := { word := 0xA0800005, idx := 3, seq := 7, dcyc := 8 }
theorem test_witness_ExceptionReturn_word : let s := (handlerAt watchHit 3).setSlot 0 0 { State.reset.slot 0 0 with
      queues := #v[[], [], [], [], [], [hitWord]] }
    s.cur.hfault = some watchHit ∧ watchHit.code ≠ .windowViolation ∧ engineOf watchHit.word = 5 ∧
      (s.slot 0 0).queues[5]? = some [hitWord] ∧ hitWord.idx = watchHit.idx ∧ s.me.handlerOps = false ∧
      (handlerAt (landedFault 9) 3).cur.hfault = some (landedFault 9) ∧ (landedFault 9).idx = 3 := by decide +kernel

/-- An ARRIVE whose operation may apply; an initialisation of a word in a marked line. -/
def arriveOp : Op := { (engineAt objects).newOp .arrive 0 with comp := 0x3100, x1 := 4 }
theorem test_witness_ArrivalApplies_arrive : let s := opState arriveOp
    s.arrivals (localAddr 0 0x3100) = [(0, arriveOp)] ∧ s.sync = [] ∧ s.poison = [] := by decide +kernel
theorem test_witness_ArrivalApplies_marked : let s := { State.reset with sync := [{ anArrival with init := some 7 }], poison := [0x3100] }
    (s.sync.filter (s.freeAt 0x3100)).filterMap (·.init) = [7] ∧ s.aluTaken 0x3100 32 = false ∧
      (0x3100 + 0) / 64 * 64 ∈ s.poison ∧ s.arrivals 0x3100 = [] := by decide +kernel
theorem test_witness_FreezesEnd_more : let s := frozenAt (.align 0x3100 3 .draining)
    s.frozenActs 0 0 = true ∧ (s.core 0).drained 0 0 7 = true ∧ (s.slot 0 0).flushTo = [] ∧ s.bankStopped 0 (compPackage 0 0x3100) = false ∧
      (s.slot 0 0).freeze.map (·.delay) = some 0 := by decide +kernel
theorem test_witness_FreezesEnd_retiring : let s := (frozenAt (.waitg 0x3100 1)).updSlot 0 0 fun t => { t with st := .retiring }
    (s.slot 0 0).st = .retiring ∧ (s.slot 0 0).flt = none := by decide +kernel

theorem test_witness_CopyForks_faults : let s := engineAt objects
    s.copyChecks .cpy 0 (copyAt 0x100) (copyAt 0x200) (copyAt 0x200) [] 0 = none ∧
      (s.copyChecks .cpy 0 (copyAt 0x51000) (copyAt 0x200) (copyAt 0x200) [] 0).isSome = true ∧
      (s.mcstChecks (copyAt 0x100) ((shapeOf (s.sh (8 : BitVec 5))).mcstOperand s.me s.cur.regs) 0).isSome = true ∧
      engineOf 0x00010308 ≠ 2 ∧ engineOf 0x40408820 = 2 ∧ 2 ≤ fld (0x40408820 : Half).toNat 20 6 ∧ engineOf 0x44008820 = 2 ∧
      fld (0x44008820 : Half).toNat 20 6 < 2 ∧ idleOf 0x44008820 ≠ 0 := by decide +kernel
theorem test_witness_BankForks_faults : let s := sharedAt 0xFFF 0x1FF8 0x3100
    (s.bankChecks 0x1FF8 8 none).isSome = true ∧ (s.bankChecks 0x1FC0 64 none).isSome = true ∧
      (let y := gatherAt 0 0
       let g := grecOf (BitVec.ofNat 512 (y.localNat 0 0x4000 64))
       (y.gatherChecks .gsadd 0x4000 g ((shapeOf (y.cur.regs.readSh g.dsh)).operand y.me y.cur.regs)).isSome = true) := by decide +kernel
def faultCode (x : Check α) : Option FaultCode :=
  match x with
  | .error (.fault code _) => some code
  | _ => none
def waitsOn (x : Check α) : Bool :=
  match x with
  | .error (.wait _) => true
  | _ => false
def passes (x : Check α) : Bool :=
  match x with
  | .ok _ => true
  | _ => false
theorem test_witness_ChunkSteps_completion : let o := { copyOf .cpy 1 with hasComp := true, comp := 0x3100 }
    let s := opState o
    (s.core 0).opAt 0 = some o ∧ checkOf s o = none ∧ passes (s.compReady 0 o [0]) = true ∧
      faultCode (State.compReady { s with poison := [localAddr 0 0x3100] } 0 o [0]) = some .poison ∧
      waitsOn ((s.aluTake (localAddr 0 0x3140) 1).compReady 0 o [0]) = true := by decide +kernel
theorem test_witness_BankSteps_ftw_later : let o := { bankOp .ftw 255 with x1 := presetEntry 6, resume := 1 }
    let s := bankState o
    (s.core 0).opAt 0 = some o ∧ s.opReady 0 o = true ∧ o.resume ≠ 0 ∧ ((s.core 0).formats.any fun l => l.1 == o.slot && l.2.seq == o.seq) = false := by
  decide +kernel
theorem test_witness_Translations_asks : (let s := opState (parkedOp .xlate 0)
    s.cp.priOff[(s.ctx (parkedOp .xlate 0).ctx).host]?.getD false = false ∧ (parkedOp .xlate 0).tries < 4) := by decide +kernel
theorem test_witness_Translations_full : let o := parkedOp .xlate 0
    let s := opState o
    let full := s.setGroups ((List.range 512).map (0, ·))
    (o.needR || o.needW) = true ∧ s.pagesOut 0 = 0 ∧ 0 < min 512 (s.cp.priAlloc[0]?.getD 0) ∧ full.pagesOut 0 = 512 ∧
      (full.core 0).opAt 0 = some o ∧ ¬ full.pagesOut 0 < min 512 (full.cp.priAlloc[0]?.getD 0) := by decide +kernel
theorem test_witness_Translations_groups : let o := { parkedOp .parked 0 with group := 5 }
    let s := (opState o).setGroups [(0, 5)]
    let x : PageAnswer := { att := 0, group := 5, code := .success }
    (s.core 0).opAt 0 = some o ∧ o.pst = .parked ∧ o.asked = true ∧ o.group = x.group ∧ (s.ctx o.ctx).host = x.att ∧
      (x.att, x.group) ∈ s.cp.groups ∧ (o.needR || o.needW) = true ∧ o.slot < 5 ∧ (x.att, 6) ∉ s.cp.groups ∧
      s.cp.atsOff[x.att]?.getD false = false ∧ ({ s.cp with atsOff := s.cp.atsOff.setIfInBounds 0 true } : Cp).atsOff[x.att]?.getD false = true ∧
      ((List.range 64).all fun d => (s.core d).ops.all fun p =>
        (p.pst != .parked || p.asked) && (p.pst != .xlate || p.needR || p.needW)) = true := by decide +kernel
theorem test_witness_ManagerWords_faults : let s := managerAt 0
    (s.bufferChecks false 0x3001 40 8).isSome = true ∧ ((0x80 : Word).extractLsb' 7 57 ≠ 0) ∧ 1 < (2 : Word).toNat ∧ 6 < (7 : Word).toNat ∧
      immediate [] 8 false 12 = some 12 := by decide +kernel
theorem test_witness_LinkWords_faults : let s := linkAt 0 0xFF00 1
    (s.linkChecks 0xFF01 (some 1) (some [.read])).isSome = true ∧ (s.linkChecks 0xFF00 (some 0) none).isSome = true ∧
      (linkDecodeFault (.lfwd 2 0) false (fun m => m == 0) true false s.who.q.pfx = none) ∧
      immediate [0xFFFFF] 14 false 0 = some (-16384) := by decide +kernel
def flowHeld : Op := { flowOp 1 (2 ^ 20) false with seen := [] }
theorem test_witness_CoolingEvents_stopped : let s := (opState flowHeld engineAt).updCore 0 fun k => { k with debugStop := true }
    (s.core 0).stopped = true ∧ (s.core 0).opAt 0 = some flowHeld ∧ flowHeld.seen = [] := by decide +kernel
theorem test_witness_LaunchPath_decided : (let s := cooled (launchAt .held (1 + 255 * 2 ^ 1040) (fun j => { j with mask := 1 }))
    s.admission (theJob s) = .denied .flowDenied) ∧
    (let s := launchAt .held (2 + 0x1000 * 2 ^ 64)
     graphRecordOk (theJob s).record = true ∧ s.graphWindow (theJob s) ≠ none) := by decide +kernel
theorem test_witness_FabricEvents_more : let l := Link.init
    let s := State.reset
    ({ l with taken := true }).taken = true ∧ s.cp.jobs = [] ∧ l.locked = false ∧ s.fab.lastS = 0 ∧ 0 < l.fill ∧ l.fill < 16 ∧
      (33 : Int).natAbs > 32 ∧ (spliceAt cut).fab.seen = [] := by decide +kernel

/-- A beat of KIND 6 whose management message is PST of a number; its CRC is one from either end. -/
def message : BitVec 576 := BitVec.ofNat 576 (6 * 2 ^ 540 + 2 + 0x7A3AB91E * 2 ^ 72 + 0x76420473 * 2 ^ 544)
theorem test_message : beatOk message = true := by
  rw [beatOk, test_crc_order message 0x10A6C678 0x9E9A46DA 0x6811D549 0x10ED2CE5 0x2D67B0DB 0x95C4A88B 0x76420473
    (by decide +kernel) (by decide +kernel)]
  decide +kernel
theorem test_witness_FabricEvents_messages : flitFailing (flitOf message) = [] ∧
    mgmtOf (flitPayload [message, 0, 0, 0]) = some (.pst 0) ∧ flitKind [message, 0, 0, 0] = 6 := by
  refine ⟨?_, by decide +kernel, by decide +kernel⟩
  have h0 := test_beat_zero
  have hm := test_message
  have r : List.range 5 = [0, 1, 2, 3, 4] := rfl
  simp [flitFailing, flitRails, flitOf, r, List.range_succ, h0, hm]
theorem test_witness_HostAndErrors_erred : let s := { State.reset with cp := { State.reset.cp with erred := [0x40] } }
    inHdm 0x40 = true ∧ (0x40 : Nat) ∈ s.cp.erred ∧ 0x40 ∉ s.poison ∧ s.linePending 0x40 = false := by decide +kernel

/-! ### Worked results of the specification (Table 4.6, R59, R153 and the words' own rules) -/

/-- What a word lands with g1 and g2 holding values. -/
def result (i : Instr) (x y : Word) (p : Pfx := {}) : Option Effect := (landed (exec i (wordAt 0 (withG x y) 0 p))).map (·.2)

theorem test_div_signed : result (.div 3 1 2 0) (-7) 2 = some (.g 3 (-3)) := by decide
theorem test_rem_signed : result (.rem 3 1 2 0) (-7) 2 = some (.g 3 (-1)) := by decide
theorem test_div_by_zero : result (.div 3 1 2 1) 7 0 = some (.g 3 (BitVec.allOnes 64)) := by decide
theorem test_mulh_unsigned : result (.mulh 3 1 2 1) (BitVec.allOnes 64) (BitVec.allOnes 64) = some (.g 3 0xFFFFFFFFFFFFFFFE) := by decide
theorem test_shl_modulo : result (.shl 3 1 2) 1 65 = some (.g 3 2) := by decide
theorem test_sha_sign : result (.sha 3 1 2) 0x8000000000000000 63 = some (.g 3 (BitVec.allOnes 64)) := by decide
theorem test_clz_zero : result (.clz 3 1) 0 0 = some (.g 3 64) := by decide
theorem test_bfx_signed : result (.bfx 3 1 2) 0xF00000 0x8414 = some (.g 3 (BitVec.allOnes 64)) := by decide
theorem test_bfi_top : result (.bfi 3 1 2) 5 0x33E = some (.g 3 0x4000000000000000) := by decide
theorem test_addsh : result (.addsh 3 1 2 3) 0x100 3 = some (.g 3 0x118) := by decide
theorem test_li_prefixed : result (.li 3 0x345) 0 0 { ximm := [0x12] } = some (.g 3 0x48345) := by decide
theorem test_add_wraps : result (.add 3 1 2) (BitVec.allOnes 64) 1 = some (.g 3 0) := by decide
theorem test_sub_order : result (.sub 3 1 2) 2 7 = some (.g 3 (-5)) := by decide
theorem test_cmplt_signed : result (.cmplt 3 1 2 0) (-1) 1 = some (.p 3 (BitVec.allOnes 64) (BitVec.allOnes 64)) := by decide
theorem test_psetn : result (.psetn 3 1 0) 10 0 = some (.p 3 0x3FF (BitVec.allOnes 64)) := by decide
theorem test_mulh_mixed : result (.mulh 3 1 2 2) (-1) 2 = some (.g 3 (BitVec.allOnes 64)) := by decide
theorem test_rem_by_zero : result (.rem 3 1 2 0) 7 0 = some (.g 3 7) := by decide
theorem test_lih : result (.lih 1 0x1678) 7 0 = some (.g 1 0x167800000007) := by decide
theorem test_g0_discards : (landed (exec (.add 0 1 2) (wordAt 0 (withG 3 4)))).map (·.2) = some (.g 0 7) := by decide
theorem test_trap_raises : raised (exec (.trap 5) (taskAt 0xA0800005)) = some .trapInsn := by decide +kernel
theorem test_manager_word_below_m : raised (exec (.attest 1 2) (taskAt 0)) = some .privilege := by decide +kernel
theorem test_reserved_mode : raised (exec (.mulh 1 2 3 3) twoG) = some .reservedField := by decide

/-- A vector register set: v1 and v2 all lanes one element each. -/
def vectors (a b : Half) : State := taskAt 0x20018448 fun t => { t with regs := { t.regs with
  fs := (t.regs.fs.setIfInBounds 3 6).setIfInBounds 2 1
  v := (t.regs.v.setIfInBounds 1 (Vector.replicate 64 a)).setIfInBounds 2 (Vector.replicate 64 b) } }
/-- Lane 63 that a vector word lands, and the flags it lands. -/
def lane (r : Step) : Option Half :=
  match r with
  | .next t => t.cur.landings.findSome? fun l => match l.eff with
    | .v _ lanes _ => lanes[63]?
    | .vbnd _ _ _ lanes _ => lanes[63]?
    | _ => none
  | _ => none
def flagsOf (r : Step) : Flags :=
  match r with
  | .next t => t.cur.landings.foldl (fun f l => match l.eff with
    | .flags x => f ||| x
    | _ => f) 0
  | _ => 0
/-- 100 + 100 in S8 (R153). -/
theorem test_vadd_s8 : lane (exec (.vadd 3 1 2 3 0) (vectors 100 100)) = some 0xC8 ∧ flagsOf (exec (.vadd 3 1 2 3 0) (vectors 100 100)) = 0 := by
  decide +kernel
/-- 1.0 + 1.0, 1.5 · −2.0 and 1.0 / 3.0 rounded to nearest in F32. -/
theorem test_vadd_f32 : lane (exec (.vadd 3 1 2 2 0) (vectors 0x3F800000 0x3F800000)) = some 0x40000000 := by decide +kernel
theorem test_vmul_f32 : lane (exec (.vmul 3 1 2 2 0) (vectors 0x3FC00000 0xC0000000)) = some 0xC0400000 := by decide +kernel
theorem test_vdiv_f32 : lane (exec (.vdiv 3 1 2 2 0) (vectors 0x3F800000 0x40400000)) = some 0x3EAAAAAB := by decide +kernel
theorem test_vsub_s8_order : lane (exec (.vsub 3 1 2 3 0) (vectors 3 5)) = some 0xFE := by decide +kernel
theorem test_vxor : lane (exec (.vxor 3 1 2 0) (vectors 0xF0F0F0F0 0x0000FFFF)) = some 0xF0F00F0F := by decide +kernel

/-- Core 0's byte 0x40 holds 0x80, g1 its address. -/
def loadState : State :=
  let s := taskAt 0 (withG 0x40 0)
  { s with mem := Memory.set s.mem (localAddr 0 0x40) 0x80 }
theorem test_sld_sign : (landed (exec (.sld 3 1 0 0 1) loadState)).map (·.2) = some (.g 3 0xFFFFFFFFFFFFFF80) := by decide +kernel
theorem test_sld_zero : (landed (exec (.sld 3 1 0 0 0) loadState)).map (·.2) = some (.g 3 0x80) := by decide +kernel
theorem test_sld_unaligned : raised (exec (.sld 3 1 0 3 0) { loadState with cores := (taskAt 0 (withG 0x41 0)).cores }) = some .alignFault := by
  decide +kernel
/-- The word at an address of shared memory after an operation's step at the bank. -/
def atBank (r : Step) (a n : Nat) : Option Nat :=
  match r with
  | .next t => some (t.mem.nat a n)
  | _ => none
def with4 (v : Nat) (s : State) : State := s.putBytes 8 (bytesLE 4 v)
theorem test_aadd_wraps : atBank (exec (.bankAtomic 0 0) (with4 0xFFFFFFFE (bankState (bankOp .aadd 4)))) 8 4 = some 3 := by decide +kernel
theorem test_amin_signed : atBank (exec (.bankAtomic 0 0) (with4 0xFFFFFFFE (bankState (bankOp .amin 4 fun o => { o with sext := true })))) 8 4
    = some 0xFFFFFFFE := by decide +kernel
theorem test_acas_misses : atBank (exec (.bankAtomic 0 0) (with4 7 (bankState (bankOp .acas 4)))) 8 4 = some 7 := by decide +kernel
theorem test_acas_hits : atBank (exec (.bankAtomic 0 0) (with4 5 (bankState (bankOp .acas 4)))) 8 4 = some 6 := by decide +kernel
theorem test_qpush_counts : atBank (exec (.queueStep 0 0) (queueState .qpush 2 2 1 (some 9))) 0x50 8 = some 3 := by decide +kernel
theorem test_lloop_end : matchingEnd [(encode 0 (.lloop 1 4)).headD 0, (encode 0 .lend).headD 0, (encode 0 .lend).headD 0] 1 0 = some 4 := by
  decide +kernel

/-! ### Witnesses of further clauses -/

/-- The task of slot 0 with a read and write watchpoint on byte 0x48. -/
def watchedTask (x : Word) : State := taskAt 0 fun t =>
  { withG x 0 t with wp := t.wp.setIfInBounds 3 (BitVec.ofNat 128 (0x48 + 2 ^ 64 + 3 * 2 ^ 96)) }
def ungrantedTask (x : Word) : State := { taskAt 0 (withG x 0) with cp := { State.reset.cp with jobs := [{ oneJob with record := 1, cores := [0] }] } }
theorem test_witness_ScalarMemory_faults : let w := (watchedTask 0x44).cur.wp.toList
    (w.any fun x => x.getLsbD 97 && x.getLsbD 96 && x.extractLsb' 98 2 == 0#2 && (x.extractLsb' 0 64).toNat == 0x48) = true ∧
      (watchedTask 0x44).who.q.supp = false ∧ (twoG.cur.wp.toList.all fun x => !x.getLsbD 97 && !x.getLsbD 96) = true ∧
      0x41 % 2 ≠ 0 ∧ oneRange false 0x4FFFC 8 = false ∧ oneRange true 0x4FFF8 8 = true ∧
      (ungrantedTask 0x10000).ungranted 0 0 0x10000 8 ≠ none := by decide +kernel
theorem test_witness_VectorMemory_faults : (ungrantedTask 0).ungranted 0 0 0 256 = some 0 ∧ ¬ (0x4FF80 : Nat) + 256 ≤ scratchSize ∧
    (vectorAt 0 5).rowChecks false (shapeOf shapeOne) 5 1 ≠ none ∧ (vectorAt 0).fsNo (1 : BitVec 3) = 1 ∧
    (vectorAt 0).fsNo (3 : BitVec 3) ≠ 1 ∧ (vectorAt 0).fsNo (3 : BitVec 3) ≠ 10 := by decide +kernel

theorem test_witness_ExceptionReturn_elsewhere : (handlerAt trapRaised 9).cur.hpc ≠ trapRaised.idx ∧
    (handlerAt trapRaised 9).cur.hpc ≠ trapRaised.idx + 1 := by decide +kernel

theorem test_witness_ArrivalApplies_free : let s := { State.reset with sync := [anArrival, { anArrival with due := 9 }] }
    s.aluTaken 0x3100 32 = false ∧ s.sync.map (s.freeAt 0x3100) = [true, false] ∧
      (s.aluTake 0x3140 1).aluTaken 0x3100 32 = true ∧
      (let y := { s with sync := [{ anArrival with op := some (0, 1), by_ := some trapRaised }], poison := [0x3100] }
       y.sync.filter (y.freeAt 0x3100) ≠ [] ∧ 0x3100 / 64 * 64 ∈ y.poison ∧ ((taskAt 0).slot 0 0).st ≠ .empty) := by decide +kernel
theorem test_witness_WaitsFreeze_more : let s := engineAt objects
    let y := s.updCur fun t => { t with arrived := [(7, .align 0x3100 3 .sent)] }
    s.clockStopped 0 (compPackage 0 (s.g (2 : BitVec 6))) = false ∧ s.cur.arrived.lookup s.who.q.seq = none ∧
      y.cur.arrived.lookup y.who.q.seq = some (.align 0x3100 3 .sent) ∧ (s.updCore 0 fun k => { k with coolStop := true }).clockStopped 0 (localAddr 0 0x3100) = true := by
  decide +kernel

theorem test_witness_FreezesEnd_alone : let s := frozenAt (.waitt 20 63)
    let busy := s.updSlot 0 0 fun t => { t with startAt := 99 }
    (s.slot 0 0).behind = [] ∧ max (s.slot 0 0).startAt ((s.core 0).matsLast 0) ≤ (s.core 0).cyc ∧ (s.slot 0 0).landings = [] ∧
      (busy.core 0).cyc < max (busy.slot 0 0).startAt ((busy.core 0).matsLast 0) := by decide +kernel
theorem test_witness_FreezesEnd_deadline : let s := frozenAt (.waitg 0x3100 1)
    let two := s.updSlot 0 0 fun t => { t with freeze := some { q := addWord, hold := .mdrain, start := 0, deadline := none }, behind := t.freeze.toList }
    s.clockStopped 0 (compPackage 0 0x3100) = false ∧ ((s.slot 0 0).frozenWords.find? (·.over s.tick)).map (·.q.seq) = some 7 ∧
      ((two.slot 0 0).frozenWords.find? (·.over two.tick)).map (·.q.seq) = some 7 ∧ (two.slot 0 0).behind ≠ [] := by decide +kernel

/-- Float-path MMA, MSCALE, MADDT and MOUT operations on their cycles. -/
theorem test_witness_MatrixLandings_more : let m := matrixOp .mout
    (matrixOp .mma).intPath = false ∧ (matrixOp .mscale).kind = .mscale ∧ (matrixOp .maddt).kind = .maddt ∧ m.bnd = none ∧ m.bn = none ∧
      { m with bn := some 3 }.bn = some 3 ∧ ((List.range m.av).filter fun i => m.t0 + 9 == m.t0 + 9 + i) = [0] ∧
      0 < (shapeOf m.csh).cols := by decide +kernel

/-- A multicast store due to cores 0 and 63, of one byte. -/
def mcstOp : Op := { copyOf .cpy 1 with kind := .mcst, x1 := 2 ^ 63 + 1, atTick := some 1, sh2 := shape 0 0x400000 1 1 1 ||| BitVec.ofNat 256 (6 * 2 ^ 112) }
theorem test_witness_ChunkSteps_mcst : let s := opState mcstOp
    (s.core 0).opAt 0 = some mcstOp ∧ s.mcstReady 0 mcstOp = true ∧ mcstOp.resume = 0 ∧ compBitmap mcstOp.comp = false ∧
      ([0, 63].all fun m => !(s.core m).stopped && (s.core m).stored.1 != s.tick) = true ∧ mcstOp.hasComp = false := by decide +kernel
/-- A near-memory sum in shared memory, which is ticketed. -/
def ticketedOp : Op :=
  let x := fun (b : Nat) => (shapeOf (shape 2 b 1 1 1024 ||| BitVec.ofNat 256 (2 ^ 112))).copyOperand engineAt.me engineAt.cur.regs
  (sharedAt 0xFFFFF 0 0).copyOp .nred (x 0x1000) (x 0x1800) (x 0x2000) [] 0 0
theorem test_witness_ChunkSteps_ticketed : let s := opState ticketedOp (sharedAt 0xFFFFF 0 0)
    ticketedOp.isTicketed = true ∧ (s.core 0).opAt 0 = some ticketedOp ∧ s.opReady 0 ticketedOp = true ∧
      checkOf s ticketedOp = none := by decide +kernel

/-- The operation of a gather word, and the state it acts in. -/
def gatherOp (tspc opn : Nat) (kind : OpKind) : Op :=
  let s := gatherAt tspc opn
  let raw := BitVec.ofNat 512 (s.localNat 0 0x4000 64)
  let g := grecOf raw
  let D := (shapeOf (s.cur.regs.readSh g.dsh)).operand s.me s.cur.regs
  { s.newOp kind 0 with comp := g.comp, hasComp := true, grec := raw, sh2 := s.cur.regs.readSh g.dsh, v2 := D.valid
                        f1 := (g.tfmt, s.me.entry g.tfmt), f2 := (D.no, D.word), overlap := gatherOverlap kind g D }
def gatherState (tspc opn : Nat) (kind : OpKind) : State :=
  opState (gatherOp tspc opn kind) ((gatherAt tspc opn).updCtx 0 fun c => { c with win := c.win.setIfInBounds 0 (BitVec.ofNat 128 (0xFFFFF * 2 ^ 64 + 15 * 2 ^ 112)) })
theorem test_witness_GatherSteps : ∀ x ∈ [(0, 0, OpKind.gath), (0, 4, .gscat), (2, 5, .gsadd)],
    let o := gatherOp x.1 x.2.1 x.2.2
    let s := gatherState x.1 x.2.1 x.2.2
    (s.core 0).opAt 0 = some o ∧ o.slot < 5 ∧ s.opReady 0 o = true ∧ o.resume < o.v2 ∧ (o.kind = .gath ∨ o.overlap = false) ∧
      passes (s.readIndex 0 o (grecOf o.grec) o.resume) = true := by decide +kernel
theorem test_witness_GatherSteps_bag : let o := gatherOp 0 3 .gbag
    let s := gatherState 0 3 .gbag
    (s.core 0).opAt 0 = some o ∧ s.opReady 0 o = true ∧ o.resume < o.v2 ∧ passes (s.bagBounds 0 o (grecOf o.grec) 0) = true := by
  decide +kernel
theorem test_witness_GatherSteps_range : let g := grecOf (BitVec.ofNat 512 (record64 0 0))
    g.rcount = 4 ∧ g.oor = 0 ∧ faultCode (g.resolve 4 0x2000) = some .gatherRange ∧ faultCode (g.resolve (-1) 0x2000) = some .gatherRange ∧
      passes (g.resolve 3 0x2000) = true := by decide +kernel
theorem test_witness_BankSteps_free : let o := bankOp .aadd 4
    let s := bankState o
    s.bankStopped 0 8 = false ∧ s.aluTaken 8 4 = false ∧ s.behindOthers 0 o.fork [waitPlace 8] = false ∧ s.cpRuns = true ∧
      ({ copyOf .cinit 1 with comp := 2 ^ 63 + 0x3000, x1 := 1 } : Op).x1 = 1 ∧ (2 ^ 63 + 0x3000) / 64 * 64 ∉ s.poison := by decide +kernel

theorem test_witness_ManagerWords_all : (servedAt (.keywipe 3 0x3FFF) 0).sec.queue = [.word 0 0] ∧
    decode ((encode 0 (.keywipe 3 0x3FFF)).headD 0) 0 = some (.keywipe 3 0x3FFF) ∧ (1 : Word).toNat < 2 ∧ 2 ≤ (6 : Word).toNat := by decide +kernel
/-- Four selective streams of attachment 1 hold keys. -/
def fullStreams : Security := { State.reset.sec with
  spdm := { session := true }
  keys := [1, 2, 3, 4].foldl (fun v i => v.setIfInBounds i (some { key := 1, hbm := false, stream := some (256 + i, 0) })) State.reset.sec.keys }
theorem test_witness_SecurityRequests_streams : fullStreams.streamsFull 261 = true ∧ fullStreams.streamsFull 257 = false ∧
    fullStreams.streamsFull 5 = false ∧ fullStreams.firstEmpty = some 0 ∧ fullStreams.spdm.session = true ∧
    State.reset.sec.spdm.session = false ∧ ({ fullStreams with keys := Vector.replicate 64 (some { key := 1, hbm := false }) } : Security).firstEmpty = none := by
  decide +kernel
theorem test_witness_LinkStepRunsWord_running : (State.reset.withFetchWord 32 0xC00003E8).gated = false := by decide
theorem test_witness_LinkWords_refused : let s := linkAt 0 0xFF01 1
    (s.linkChecks 0xFF01 (some 1) (some [.read])).map (·.1) = some .alignFault ∧
      ((1 : Nat) == portOf s.who.link || !s.fab.carries 1) = false ∧ ((2 : Nat) == portOf s.who.link || !s.fab.carries 2) = true ∧
      (15 : BitVec 20).toNat < 16 := by decide +kernel
theorem test_witness_DebugAndTrace_stands : let s := traceAt 0 false
    ((List.range 64).all fun i => decide (0x100 + i < sharedEnd) && !s.regionWiped (0x100 + i)) = true ∧
      (portOpen fun d => { d with armed := true, stick := 0 }).dbg.stick.toNat ≤ 0 ∧
      (portOpen fun d => { d with stopped := true, scope := 1 }).mayDebug .port 0 = true ∧
      ({ State.reset.fab with podcfg := 2 ^ 24 } : Fabric).root = true := by decide +kernel

theorem test_witness_CoolingEvents_room : let s := (State.reset.updZone 15 fun y => { y with state := 1, phase := 7 })
    let full := (List.range 79).foldl (fun s z => s.updZone z fun y => { y with state := 2, minf := 9 }) s
    s.roomFor 15 = true ∧ full.roomFor 15 = false ∧ (s.zone 15).phase = 7 ∧ (s.zone 15).until_ ≤ s.refTick := by decide +kernel
theorem test_witness_CoolingEvents_arrives : let o := { flowOp 1 (2 ^ 20 - 1) true with resume := 0 }
    let s := opState o engineAt
    let waits := { o with delay := 9000, resume := 0 }
    s.flowArrives o = true ∧ ({ opState waits engineAt with tick := 4096 } : State).flowArrives waits = true ∧
      ({ opState waits engineAt with tick := 4096 } : State).opReady 0 waits = false ∧ o.kind = .flowreq := by decide +kernel

theorem test_witness_LaunchPath_loads : let s := cooled (launchAt .held 1 (fun j => { j with mask := 1 }))
    let j := theJob s
    let m : Word := BitVec.ofNat 64 1
    let l : Job := { j with admitted := true, limit := s.envelope j, mask := m, cores := s.usable j }
    j.saved = false ∧ s.admission j = .granted ∧ l.cores = [0] ∧ corOk l l.cores = true ∧ s.windowsFree l = true ∧
      l.cores.all (s.coreFree l) = true ∧ j.form.patched = some j.form ∧ j.form.pod = false ∧
      ((List.range 64).all fun c => m.getLsbD c == (j.mask.getLsbD c && !s.coreAbsent c)) = true ∧
      ({ j.form with sites := [5], svals := [] } : Form).patched = none := by decide +kernel
theorem test_witness_LaunchPath_poll : let s := hwqAt 15 0 0
    s.cpPoison (hwqEntry (s.hwq 3)) 256 = false ∧ (State.reset.regionWiped 0x40) = false ∧
      (launchAt .running 1 (fun j => { j with preq := [0], cores := [0] })).givenWay 3 0 = true := by decide +kernel

theorem test_witness_GraphNodes_copying : let x : NodeCopy := { src := 0x4000, dst := 0x5000, len := 5000, next := 0x1000, until_ := 0 }
    let s := nodeAt (nodeWord 2 0x2000 0x3000) (.copying x)
    (nodeGraph s).doing = .copying x ∧ s.cpPoison x.src 4096 = false ∧ ((List.range 4097).all fun y => !s.unitWaits (x.dst + y)) = true ∧
      s.regionWiped x.dst = false ∧ (State.cpPoison { s with poison := [0x4040] } x.src 4096) = true ∧ x.pos + 4096 < x.len ∧
      s.unitWaits 0x1028 = false ∧ (State.unitWaits { s with cool := (s.updZone 16 fun y => { y with halted := true }).cool } 0x1028) = true := by decide +kernel
theorem test_witness_GraphNodes_waiting : let s := nodeAt (nodeWord 5 0x2000 9) (.waiting 0 0x2000 0x1000 9 0x1000)
    s.mem.nat 0x2000 8 < 0x1000 ∧ s.cpPoison 0x2000 8 = false ∧ State.cpPoison { s with poison := [0x2000] } 0x2000 8 = true ∧
      0 + 9 < ({ s with tick := 10 } : State).tick ∧ (s.putBytes 0x2000 (bytesLE 8 0x1000)).mem.nat 0x2000 8 = 0x1000 := by decide +kernel

/-- Attachment 0's management queue enabled with a ring of 16 entries at package address 0x1000, its entry a command code. -/
def mgmtAtCode (code : Nat) : State :=
  let x := BitVec.ofNat 256 (0x1000 + 4 * 2 ^ 48 + 2 ^ 52 + 2 ^ 54 + 2 ^ 96)
  let s := State.reset.putBytes 0x1000 (bytesLE 1 code)
  { s with cp := { s.cp with mgmt := s.cp.mgmt.setIfInBounds 0 x } }
theorem test_witness_ManagementCommands_queue : (∀ code ∈ [1, 2, 3, 4, 5, 6, 7, 200], (mgmtAtCode code).commanded 0 code = true) ∧
    (mgmtAtCode 1).commanded 0 2 = false ∧ State.reset.commanded 0 1 = false ∧ hwqEn ((mgmtAtCode 1).cp.mgmt[0]?.getD 0) = true ∧
    rget ((mgmtAtCode 1).cp.mgmt[0]?.getD 0) 52 1 = 1 := by decide +kernel
theorem test_witness_ManagementCommands_cores : let j := theJob (launchAt .running 1 (fun j => { j with cores := [0, 1], gone := [1], preq := [0] }))
    let here := fun (w : Preemption) c => w.core == none || w.core == some c
    (j.gone ++ j.preq).any (here { back := true, core := some 1 }) = true ∧ (j.gone ++ j.preq).any (here { back := true, core := some 2 }) = false ∧
      (j.gone ++ j.preq).any (here { back := true, core := none }) = true := by decide +kernel

theorem test_witness_HostAndErrors_more : State.reset.cp.owedLog = [] ∧ State.reset.cp.owedZero = [] ∧ State.reset.cpRuns = true ∧
    (State.reset.sync.any fun u => u.addr / 64 * 64 == 0x40) = false ∧ State.reset.linkHolds 0x40 = false ∧
    (let s := opState (parkedOp .parked 0)
     (s.ctx (parkedOp .parked 0).ctx).host = 0) := by decide +kernel

theorem test_witness_FabricEvents_buffer : let l : Link := { Link.init with up := true }
    (l.fill : Int) + (0 : Int).tdiv 64 = 8 ∧ (l.fill : Int) + (512 : Int).tdiv 64 = 16 ∧ (l.fill : Int) + (-512 : Int).tdiv 64 = 0 ∧
      { l with phase := 33 }.phase.natAbs > 32 ∧ 0 < 5 ∧ 5 < 16 ∧ { l with locked := true }.locked = true := by decide +kernel
/-- A splice to resume, of a launch that is past or in process. -/
def resumeAt (rolls : Bool) : State :=
  let s := spliceAt cut
  let j := theJob (launchAt .running 2 (fun j => { j with saved := true }))
  if rolls then { s with fab := { s.fab with splice := some (9, 0x1000) } }
  else { s with fab := { s.fab with splice := some (9, 0x1000), podJob := none, past := some j } }
theorem test_witness_FabricEvents_resume : ((resumeAt true).spliced.map (resumeAt true).rollable) = some true ∧
    ((resumeAt false).spliced.map (resumeAt false).rollable) = some false ∧ (resumeAt true).fab.podJob = some 3 ∧
    ({ spliceAt cut with fab := { (spliceAt cut).fab with podJob := none } } : State).spliced = none ∧
    ({ (spliceAt cut).fab with ckpts := [] } : Fabric).checkpoint cut.f = none := by decide +kernel
end Sys2Proof.Tests
end

section
/-!
SUPPORT. The value of a prefixed immediate (R59), and the trap of a word whose immediate is too wide.
-/
namespace Sys2Proof.Machine
open Host Sys2Proof

/-! ### The value C of R59 -/

theorem signedOf_toNat {w : Nat} (x : BitVec w) : signedOf w x.toNat = x.toInt := by
  have hz : (2 : Int) ^ w = ((2 ^ w : Nat) : Int) := (Int.natCast_pow 2 w).symm
  simp only [signedOf, Nat.mod_eq_of_lt x.isLt, BitVec.toInt_eq_toNat_cond, hz]
  rcases Nat.eq_zero_or_pos w with rfl | hw
  · rw [BitVec.eq_nil x]
    rfl
  · have hp : 2 ^ w = 2 ^ (w - 1) * 2 := by rw [← Nat.pow_succ, Nat.succ_eq_add_one, Nat.sub_add_cancel hw]
    rw [if_neg (Nat.ne_of_gt hw)]
    by_cases hx : x.toNat < 2 ^ (w - 1)
    · rw [if_pos hx, if_pos (by omega)]
    · rw [if_neg hx, if_neg (by omega)]

/-- The width limit of R59: bits 47 and up of a vector are all clear or all set
just where it is the sign extension of its low 48 bits. -/
theorem eq_signExtend_48_iff {w : Nat} (hw : 48 ≤ w) (c : BitVec w) :
    (c.toNat / 2 ^ 47 = 0 ∨ c.toNat / 2 ^ 47 = 2 ^ (w - 47) - 1) ↔ c = (c.setWidth 48).signExtend w := by
  obtain ⟨k, rfl⟩ := Nat.exists_eq_add_of_le hw
  have hc := c.isLt
  have hk : 0 < 2 ^ k := Nat.two_pow_pos k
  have hp : 2 ^ (48 + k) = 2 ^ 48 * 2 ^ k := Nat.pow_add ..
  have hq : 2 ^ (48 + k - 47) = 2 * 2 ^ k := by rw [show 48 + k - 47 = k + 1 by omega, Nat.pow_succ, Nat.mul_comm]
  rw [← BitVec.toInt_inj, BitVec.toInt_signExtend_of_le hw, BitVec.toInt_eq_toNat_cond, BitVec.toInt_eq_toNat_cond,
    BitVec.toNat_setWidth, hq]
  rw [hp] at hc ⊢
  generalize 2 ^ k = q at hc hk ⊢
  split <;> split <;> omega

/-- `c` is the C of R59: the payloads xs, first fetched first, and a field of n bits, joined. -/
def IsJoined (xs : List (BitVec 20)) (n imm : Nat) {w : Nat} (c : BitVec w) : Prop :=
  w = 20 * xs.length + n ∧
    c.toNat = xs.foldl (fun (a : Nat) (x : BitVec 20) => a * 2 ^ 20 + x.toNat) 0 * 2 ^ n + imm

/-- Joining two vectors, as the arithmetic of `immediate` does it. -/
theorem toNat_append_eq_add {m n : Nat} (x : BitVec m) (y : BitVec n) : (x ++ y).toNat = x.toNat * 2 ^ n + y.toNat := by
  rw [BitVec.toNat_append, ← Nat.shiftLeft_add_eq_or_of_lt y.isLt, Nat.shiftLeft_eq]

theorem isJoined_one {n : Nat} (x : BitVec 20) (f : BitVec n) : IsJoined [x] n f.toNat (x ++ f) :=
  ⟨rfl, by rw [toNat_append_eq_add]; simp only [List.foldl_cons, List.foldl_nil, Nat.zero_mul, Nat.zero_add]⟩

theorem isJoined_two {n : Nat} (x y : BitVec 20) (f : BitVec n) : IsJoined [x, y] n f.toNat (x ++ y ++ f) :=
  ⟨rfl, by rw [toNat_append_eq_add, toNat_append_eq_add]; simp only [List.foldl_cons, List.foldl_nil, Nat.zero_mul, Nat.zero_add]⟩

/-! ### The immediate from C -/

/-- Under prefixes the immediate is C sign-extended from bit min(47, width of C − 1), unless C is wider than 48 bits and its
bits 48 and up are no copies of bit 47. -/
theorem immediate_of_isJoined {xs : List (BitVec 20)} {n imm w : Nat} {c : BitVec w} (hx : xs ≠ [])
    (hc : IsJoined xs n imm c) (sx : Bool) :
    immediate xs n sx imm =
      if 48 < w ∧ c ≠ (c.setWidth 48).signExtend w then none else some ((c.setWidth (min 48 w)).signExtend 64) := by
  obtain ⟨rfl, hv⟩ := hc
  have hval : BitVec.ofInt 64 (signedOf (min 48 (20 * xs.length + n)) (c.toNat % 2 ^ min 48 (20 * xs.length + n))) =
      (c.setWidth (min 48 (20 * xs.length + n))).signExtend 64 := by
    rw [← BitVec.toNat_setWidth, signedOf_toNat, BitVec.signExtend]
  have hcond : (decide (20 * xs.length + n > 48) &&
        !(c.toNat / 2 ^ 47 == 0 || c.toNat / 2 ^ 47 == 2 ^ (20 * xs.length + n - 47) - 1)) = true ↔
      48 < 20 * xs.length + n ∧ c ≠ (c.setWidth 48).signExtend _ := by
    simp only [Bool.and_eq_true, decide_eq_true_eq, Bool.not_eq_true', ← Bool.not_eq_true, Bool.or_eq_true, beq_iff_eq]
    exact and_congr_right fun hw => not_congr (eq_signExtend_48_iff (Nat.le_of_lt hw) c)
  cases xs with
  | nil => exact absurd rfl hx
  | cons x xs => simp only [immediate, ← hv, hval, hcond]

theorem immediate_of_narrow {xs : List (BitVec 20)} {n imm w : Nat} {c : BitVec w} (hx : xs ≠ [])
    (hc : IsJoined xs n imm c) (hw : w ≤ 48) (sx : Bool) : immediate xs n sx imm = some (c.signExtend 64) := by
  rw [immediate_of_isJoined hx hc, if_neg fun h => Nat.not_lt.2 hw h.1, Nat.min_eq_right hw, BitVec.setWidth_eq]

theorem immediate_of_wide {xs : List (BitVec 20)} {n imm w : Nat} {c : BitVec w} (hx : xs ≠ [])
    (hc : IsJoined xs n imm c) (hw : 48 < w) (sx : Bool) :
    immediate xs n sx imm =
      if c = (c.setWidth 48).signExtend w then some ((c.setWidth 48).signExtend 64) else none := by
  rw [immediate_of_isJoined hx hc, Nat.min_eq_left (Nat.le_of_lt hw)]
  by_cases h : c = (c.setWidth 48).signExtend w
  · rw [if_pos h, if_neg fun k => k.2 h]
  · rw [if_neg h, if_pos ⟨hw, h⟩]

/-- Without a prefix the entry's own extension holds. -/
theorem immediate_nil {n : Nat} (f : BitVec n) (sx : Bool) :
    immediate [] n sx f.toNat = some (if sx then f.signExtend 64 else f.setWidth 64) := by
  rw [immediate, signedOf_toNat, BitVec.signExtend, BitVec.ofNat_toNat]

/-! ### The trap of a value too wide -/

/-- A well-formed word with no XIDLE and no XMOD whose immediate has no value raises XPREFIX and nothing else. -/
theorem immWord_xprefix {i : Instr} {s : State} {n imm : Nat} {sx : Bool} (hwf : i.wf = true) (hidle : s.who.q.pfx.xidle = none)
    (hmod : s.who.q.pfx.xmod = none) (hv : immediate s.who.q.pfx.ximm n sx imm = none) (body : Word → Verdict) :
    immWord i n sx imm s body = .next (s.raise { code := .xprefix }) := by
  have hfault : decodeFault i { ximm := true } false s.who.q = some .xprefix := by
    simp [decodeFault, hwf, hidle, hmod, Pfx.override, Pfx.mods]
  simp only [immWord, hv, Option.isSome_none, coreWord, hfault]

theorem exec_li (d : BitVec 6) (imm : BitVec 14) (s : State) :
    exec (.li d imm) s = immWord (.li d imm) 14 true imm.toNat s fun v => .ok (s.land 1 (.g d.toNat v)) := rfl

theorem exec_pbr (t : BitVec 3) (o : BitVec 17) (s : State) : exec (.pbr t o) s =
    immWord (.pbr t o) 17 true o.toNat s fun v => .ok (s.loadTarget t.toNat (s.who.q.idx + BitVec.ofInt 15 v.toInt)) := rfl

end Sys2Proof.Machine

open Sys2Proof Sys2Proof.Machine

/-- Settles O13: the payloads and the field joined are R59's C, and the prefix trap comes of the decode checks. -/
theorem prefixedImmediate : Obligations.PrefixedImmediate := by
  unfold Obligations.PrefixedImmediate
  refine ⟨fun n imm x y hn himm => ?_, fun s d i14 t3 i17 hidle hmod => ⟨fun hv hwf => ?_, fun hv hwf => ?_⟩⟩
  · have hf : (BitVec.ofNat n imm).toNat = imm := Nat.mod_eq_of_lt himm
    generalize BitVec.ofNat n imm = f at hf
    subst hf
    exact ⟨immediate_nil f true, immediate_nil f false,
      immediate_of_narrow (List.cons_ne_nil _ _) (isJoined_one x f) (by omega),
      fun sx hw => immediate_of_narrow (List.cons_ne_nil _ _) (isJoined_two x y f) hw sx,
      fun sx hw => immediate_of_wide (List.cons_ne_nil _ _) (isJoined_two x y f) hw sx⟩
  · rw [exec_li, immWord_xprefix hwf hidle hmod hv]
  · rw [exec_pbr, immWord_xprefix hwf hidle hmod hv]
end

section
/-!
SUPPORT. The quotient and the remainder of R120, and the one result a register word puts on its way.
-/
namespace Sys2Proof.Machine

/-! ### The values of a division -/

@[simp] theorem quotient_zero (unsigned : Bool) (x : Word) : quotient unsigned x 0 = BitVec.allOnes 64 := if_pos rfl

@[simp] theorem remainder_zero (unsigned : Bool) (x : Word) : remainder unsigned x 0 = x := if_pos rfl

theorem quotient_unsigned {y : Word} (hy : y ≠ 0) (x : Word) : quotient true x y = x / y := by
  simp only [quotient, if_neg hy, if_true]

theorem remainder_unsigned {y : Word} (hy : y ≠ 0) (x : Word) : remainder true x y = x % y := by
  simp only [remainder, if_neg hy, if_true]

/-- The truncated integer quotient, cut to 64 bits, is the library's signed division, at its one overflow too. -/
theorem quotient_signed {y : Word} (hy : y ≠ 0) (x : Word) : quotient false x y = x.sdiv y := by
  have hq : BitVec.ofInt 64 (x.toInt.tdiv y.toInt) = x.sdiv y :=
    BitVec.eq_of_toInt_eq (by rw [BitVec.toInt_ofInt, BitVec.toInt_sdiv])
  simpa only [quotient, if_neg hy, Bool.false_eq_true, if_false] using hq

theorem remainder_signed {y : Word} (hy : y ≠ 0) (x : Word) : remainder false x y = x.srem y := by
  have hr : BitVec.ofInt 64 (x.toInt.tmod y.toInt) = x.srem y := by rw [← BitVec.toInt_srem, BitVec.ofInt_toInt]
  simpa only [remainder, if_neg hy, Bool.false_eq_true, if_false] using hr

theorem quotient_intMin_neg_one : quotient false (BitVec.intMin 64) (-1) = BitVec.intMin 64 := by
  rw [quotient_signed (by decide)]
  exact BitVec.intMin_sdiv_neg_one

theorem remainder_neg_one (x : Word) : remainder false x (-1) = 0 := by
  have hy : (-1 : Word).toInt = -1 := by decide
  rw [remainder_signed (by decide)]
  exact BitVec.eq_of_toInt_eq (by rw [BitVec.toInt_srem, hy, Int.tmod_neg, Int.tmod_one]; rfl)

/-! ### The word -/

/-- A register word that is admitted puts its value on its way to gd, and nothing else changes. -/
theorem toG_of_admits {s : State} (hs : s.atSlot) {i : Instr} (hi : s.admits i {} 0) (L : Nat) (d : BitVec 6) (v : Word) :
    toG i L d v s = .next (s.landed [s.landing L (.g d.toNat v)]) := by
  rw [toG, coreWord_ok hi, State.finish_land s hs]

theorem exec_div (d a b : BitVec 6) (m : BitVec 2) (s : State) :
    exec (.div d a b m) s = toG (.div d a b m) 18 d (quotient (m == 1) (s.g a) (s.g b)) s := rfl

theorem exec_rem (d a b : BitVec 6) (m : BitVec 2) (s : State) :
    exec (.rem d a b m) s = toG (.rem d a b m) 18 d (remainder (m == 1) (s.g a) (s.g b)) s := rfl

theorem exec_div_of_quotient {s : State} (hs : s.atSlot) {d a b : BitVec 6} {m : BitVec 2} {v : Word}
    (hv : quotient (m == 1) (s.g a) (s.g b) = v) (hi : s.admits (.div d a b m) {} 0) :
    exec (.div d a b m) s = .next (s.landed [s.landing 18 (.g d.toNat v)]) := by
  rw [exec_div, toG_of_admits hs hi, hv]

theorem exec_rem_of_remainder {s : State} (hs : s.atSlot) {d a b : BitVec 6} {m : BitVec 2} {v : Word}
    (hv : remainder (m == 1) (s.g a) (s.g b) = v) (hi : s.admits (.rem d a b m) {} 0) :
    exec (.rem d a b m) s = .next (s.landed [s.landing 18 (.g d.toNat v)]) := by
  rw [exec_rem, toG_of_admits hs hi, hv]

end Sys2Proof.Machine

open Sys2Proof Sys2Proof.Machine

/-- Settles O12: each clause of Table 4.5 is the value of `quotient` or `remainder` at its operands, and the word lands it. -/
theorem division : Obligations.Division := by
  unfold Obligations.Division
  intro s d a b hs
  refine ⟨fun hy => ⟨exec_div_of_quotient hs ?_, exec_rem_of_remainder hs ?_⟩,
    fun hy => ⟨exec_div_of_quotient hs ?_, exec_rem_of_remainder hs ?_⟩,
    fun hx hy => ⟨exec_div_of_quotient hs ?_, exec_rem_of_remainder hs ?_⟩,
    fun hy => ⟨exec_div_of_quotient hs (quotient_unsigned hy _), exec_rem_of_remainder hs (remainder_unsigned hy _)⟩,
    fun hy => ⟨exec_div_of_quotient hs (quotient_signed hy _), exec_rem_of_remainder hs (remainder_signed hy _)⟩⟩
  · rw [hy]; exact quotient_zero ..
  · rw [hy]; exact remainder_zero ..
  · rw [hy]; exact quotient_zero ..
  · rw [hy]; exact remainder_zero ..
  · rw [hx, hy]; exact quotient_intMin_neg_one
  · rw [hy]; exact remainder_neg_one _
end
